-- ==== Sys2Proof/Word.lean ====
section
/-! DEFINITION. Widths of the QN-9's words and the sparse table used for numbered units. -/

namespace Sys2Proof

abbrev Byte := BitVec 8
abbrev Half := BitVec 16
abbrev Word := BitVec 32
/-- A doubleword, 64 bits (00 R5). -/
abbrev Dword := BitVec 64

/-- A numbered family of like things: the entries that differ from the family's default, by rising number. -/
abbrev Tab (α : Type) := List (Nat × α)

/-- The entry of number `k`, or the default `d`. -/
def Tab.get {α : Type} (d : α) : Tab α → Nat → α
  | [], _ => d
  | (j, a) :: t, k => if j = k then a else Tab.get d t k

/-- Puts `a` at number `k`. -/
def Tab.put {α : Type} : Tab α → Nat → α → Tab α
  | [], k, a => [(k, a)]
  | (j, b) :: t, k, a =>
    if k < j then (k, a) :: (j, b) :: t
    else if j = k then (k, a) :: t
    else (j, b) :: Tab.put t k a

end Sys2Proof
end

