-- ==== Sys2Proof/Config.lean ====
section
/-! DEFINITION. What the spec leaves open: free values, constants without a body that no proof can see into. -/

namespace Sys2Proof

/-- The words of the bobbin generator of a core, by the count of words drawn (07 R159; log entry 6). -/
opaque Config.bobbinWord : Nat → Nat → BitVec 64

/-- An undefined byte: by the free-value count of the state and the byte's place (log entry 6). -/
opaque Config.freeByte : Nat → Nat → BitVec 8

/-- Whether a version published only at scopes that do not hold a context is in that context's snapshot: by the
snapshot's number, the version's epoch and the context (12 R267, R269; log entry 6). -/
opaque Config.narrowSeen : Nat → Nat → Nat → Bool

/-- The bytes of a firmware image, by its number: an input of the boot (24 R409; log entry 6). -/
opaque Config.imageBytes : Nat → List (BitVec 8)

/-- The ML-DSA-65 signature of the device identity key over a nonce and the attested state (24 R410; log entry 6). -/
opaque Config.signature : Nat → List Nat → Nat

/-- The bank, of 32, of a line in its channel: a hash of offset bits [32:9] that is not disclosed (22 R376; log entry 6). -/
opaque Config.bankHash : Nat → Nat

/-- The identity public key of the device (24 R402, R409; log entry 6). -/
opaque Config.identityKey : BitVec 15616

/-- Whether something on its way has arrived by a time: by the time in ps, its unit and its number (log entry 6). -/
opaque Config.arrives : Nat → Nat → Nat → Bool

/-- The home hash of a line over the slices of the powered dies, by their mask; it is not disclosed (01 R20, 10 R253; log
entry 6). -/
opaque Config.homeHash : Nat → Nat → Nat

/-- The measured energy of an epoch in µJ, by epoch and unit: dies 0 to 7, stacks 8 to 19, the rest of the package 20 (21 R375; log entry 6). -/
opaque Config.joules : Nat → Nat → Nat

/-- How the energy of a die or stack weighs a byte that an engine moves, and a quad's idle power in an epoch, against an
energy weight at 1 mV; the spec gives the three things and not their measures (21 R375; log entry 6). -/
opaque Config.byteEnergy : Nat
opaque Config.idleEnergy : Nat

/-- The energy of the bobbin generators, the firmware and in-field tests in an epoch, by epoch and unit, against an energy
weight at 1 mV (07 R162, 21 R375; log entry 6). -/
opaque Config.houseEnergy : Nat → Nat → Nat

/-- The slew granted with a profile, by epoch and core; nothing says how the governor chooses it (21 R361; log entry 6). -/
opaque Config.slew : Nat → Nat → Nat

/-- The words of the frequency table that a firmware image loads, by image, die and index (21 R365; log entry 6). -/
opaque Config.tableWord : Nat → Nat → Nat → BitVec 64

/-- The upset of a cycle in the stores of a core: by core and cycle, nothing, or the space, the sector and whether more than one
bit of it is wrong (08 R181; log entry 6). -/
opaque Config.upset : Nat → Nat → Option (Nat × Nat × Bool)

end Sys2Proof
end

