-- ==== Sys2Proof/Syntax.lean ====
section
/-! DEFINITION. The instructions of the QN-9: one constructor for each row of the opcode table.
The first 182 are slot operations and carry the fields of their slot word (03 R58 to R64, and the chapter of each);
the slot they stand in, its lend byte, the B words and the issuing context are in the issue record of the state.
The other 84 are the events of 95_what_each_step_holds.md, those that only the outside brings last: they carry the unit they happen at and what the
environment brings (a measured temperature, a checked signature, a host's request). -/

namespace Sys2Proof

/-- What a scrub read finds in a line: nothing, a corrected error, or an uncorrectable sector (22 R390). -/
inductive ScrubFinding where
  | clean
  | corrected
  | uncorrectable (sector : BitVec 2)
deriving DecidableEq, Repr

/-- Another package's part of a collective (21 R373): the package, its op, count and group as it declared them,
whether it was cancelled, its contribution and the package time of its arrival. -/
structure PeerPart where
  pkg : Nat
  op : Nat
  count : Nat
  group : Nat
  cancelled : Bool
  data : List (BitVec 8)
  arrival : Nat
deriving DecidableEq, Repr

/-- What the host chooses for a die in an epoch: the frequency entry, and the profile and slew of its cores (21 R359, R361,
R369). -/
structure EpochChoice where
  entry : Nat
  profile : Nat
  slew : Nat
deriving DecidableEq, Repr

/-- A shrink as it is asked for: of a partition, by a master, or by the governor where none is named (21 R372). -/
structure ShrinkRequest where
  master : Option Nat
  part : Nat
deriving DecidableEq, Repr

inductive Instr where
  /-- ADD (R118): Writes the 64-bit sum of s[a] and s[b], wrapped modulo 2^64, to s[d]. -/
  | add (d : BitVec 6) (a : BitVec 6) (b : BitVec 6)
  /-- SUB (R118): Writes s[a] minus s[b], wrapped modulo 2^64, to s[d]. -/
  | sub (d : BitVec 6) (a : BitVec 6) (b : BitVec 6)
  /-- MUL (R119): Writes the low 64 bits of the product of s[a] and s[b] to s[d], with latency 3. -/
  | mul (d : BitVec 6) (a : BitVec 6) (b : BitVec 6)
  /-- MULH (R119): Writes the high half of the signed 128-bit product to s[d]. -/
  | mulh (d : BitVec 6) (a : BitVec 6) (b : BitVec 6)
  /-- MULHU (R119): Writes the high half of the unsigned 128-bit product to s[d]. -/
  | mulhu (d : BitVec 6) (a : BitVec 6) (b : BitVec 6)
  /-- DIVU (R120): Writes the unsigned quotient to s[d], or all ones on division by zero, with latency 24. -/
  | divu (d : BitVec 6) (a : BitVec 6) (b : BitVec 6)
  /-- REMU (R120): Writes the unsigned remainder to s[d], or s[a] on division by zero, with latency 24. -/
  | remu (d : BitVec 6) (a : BitVec 6) (b : BitVec 6)
  /-- AND (R118): Writes the bitwise and of s[a] and s[b] to s[d]. -/
  | and (d : BitVec 6) (a : BitVec 6) (b : BitVec 6)
  /-- OR (R118): Writes the bitwise or of s[a] and s[b] to s[d]. -/
  | or (d : BitVec 6) (a : BitVec 6) (b : BitVec 6)
  /-- XOR (R118): Writes the bitwise exclusive or of s[a] and s[b] to s[d]. -/
  | xor (d : BitVec 6) (a : BitVec 6) (b : BitVec 6)
  /-- SHL (R118): Shifts s[a] left by s[b][5:0] into s[d]. -/
  | shl (d : BitVec 6) (a : BitVec 6) (b : BitVec 6)
  /-- SHR (R118): Shifts s[a] right logically by s[b][5:0] into s[d]. -/
  | shr (d : BitVec 6) (a : BitVec 6) (b : BitVec 6)
  /-- SRA (R118): Shifts s[a] right arithmetically by s[b][5:0] into s[d]. -/
  | sra (d : BitVec 6) (a : BitVec 6) (b : BitVec 6)
  /-- MIN (R118): Writes the signed smaller of s[a] and s[b] to s[d]. -/
  | min (d : BitVec 6) (a : BitVec 6) (b : BitVec 6)
  /-- MAX (R118): Writes the signed larger of s[a] and s[b] to s[d]. -/
  | max (d : BitVec 6) (a : BitVec 6) (b : BitVec 6)
  /-- MINU (R118): Writes the unsigned smaller of s[a] and s[b] to s[d]. -/
  | minu (d : BitVec 6) (a : BitVec 6) (b : BitVec 6)
  /-- MAXU (R118): Writes the unsigned larger of s[a] and s[b] to s[d]. -/
  | maxu (d : BitVec 6) (a : BitVec 6) (b : BitVec 6)
  /-- SLT (R118): Writes 1 to s[d] if s[a] is below s[b] as signed values, else 0. -/
  | slt (d : BitVec 6) (a : BitVec 6) (b : BitVec 6)
  /-- SLTU (R118): Writes 1 to s[d] if s[a] is below s[b] as unsigned values, else 0. -/
  | sltu (d : BitVec 6) (a : BitVec 6) (b : BitVec 6)
  /-- SEQ (R118): Writes 1 to s[d] if s[a] equals s[b], else 0. -/
  | seq (d : BitVec 6) (a : BitVec 6) (b : BitVec 6)
  /-- SEL (R125): Writes s[a] to s[d] if s[c] is nonzero, else s[b]. -/
  | sel (d : BitVec 6) (c : BitVec 6) (a : BitVec 6) (b : BitVec 6)
  /-- MOV (R118): Copies s[a] to s[d]. -/
  | mov (d : BitVec 6) (a : BitVec 6)
  /-- POPC (R126): Writes the number of set bits of s[a] to s[d]. -/
  | popc (d : BitVec 6) (a : BitVec 6)
  /-- CLZ (R126): Writes the count of leading zero bits of s[a] to s[d], 64 for zero. -/
  | clz (d : BitVec 6) (a : BitVec 6)
  /-- CTZ (R126): Writes the count of trailing zero bits of s[a] to s[d], 64 for zero. -/
  | ctz (d : BitVec 6) (a : BitVec 6)
  /-- FNSB (R126): Writes the index of the set bit of s[a] with exactly s[b] set bits below it, or 64. -/
  | fnsb (d : BitVec 6) (a : BitVec 6) (b : BitVec 6)
  /-- BREV (R126): Writes s[a] with its 64 bits reversed to s[d]. -/
  | brev (d : BitVec 6) (a : BitVec 6)
  /-- ADDI (R121): Writes s[a] plus the lend-widened signed immediate to s[d]. -/
  | addi (d : BitVec 6) (a : BitVec 6) (i : BitVec 12)
  /-- ANDI (R121): Writes s[a] and the sign-extended immediate to s[d]. -/
  | andi (d : BitVec 6) (a : BitVec 6) (i : BitVec 12)
  /-- ORI (R121): Writes s[a] or the sign-extended immediate to s[d]. -/
  | ori (d : BitVec 6) (a : BitVec 6) (i : BitVec 12)
  /-- XORI (R121): Writes s[a] xor the sign-extended immediate to s[d]. -/
  | xori (d : BitVec 6) (a : BitVec 6) (i : BitVec 12)
  /-- SHLI (R122): Shifts s[a] left by an immediate amount into s[d]. -/
  | shli (d : BitVec 6) (a : BitVec 6) (n : BitVec 6)
  /-- SHRI (R122): Shifts s[a] right logically by an immediate amount into s[d]. -/
  | shri (d : BitVec 6) (a : BitVec 6) (n : BitVec 6)
  /-- SRAI (R122): Shifts s[a] right arithmetically by an immediate amount into s[d]. -/
  | srai (d : BitVec 6) (a : BitVec 6) (n : BitVec 6)
  /-- MOVI (R123): Writes the lend-widened sign-extended immediate to s[d]. -/
  | movi (d : BitVec 6) (i : BitVec 18)
  /-- MOVK (R124): Shifts s[d] left by 26 or 18 bits and inserts the unsigned immediate below. -/
  | movk (d : BitVec 6) (i : BitVec 18)
  /-- EXTR (R127): Extracts a zero-extended bit field of s[a] into s[d]. -/
  | extr (d : BitVec 6) (a : BitVec 6) (p : BitVec 6) (l : BitVec 6)
  /-- DEPO (R127): Deposits the low bits of s[a] into a field of s[d], keeping its other bits. -/
  | depo (d : BitVec 6) (a : BitVec 6) (p : BitVec 6) (l : BitVec 6)
  /-- VADD (R136): Adds active integer elements of va and vb into vd, wrapping. -/
  | vadd (t : BitVec 3) (d : BitVec 6) (a : BitVec 6) (b : BitVec 6) (k : BitVec 3) (s : BitVec 1)
  /-- VSUB (R136): Subtracts active integer elements of vb from va into vd. -/
  | vsub (t : BitVec 3) (d : BitVec 6) (a : BitVec 6) (b : BitVec 6) (k : BitVec 3) (s : BitVec 1)
  /-- VMUL (R136): Writes the low half of each active integer product into vd. -/
  | vmul (t : BitVec 3) (d : BitVec 6) (a : BitVec 6) (b : BitVec 6) (k : BitVec 3) (s : BitVec 1)
  /-- VMULH (R136): Writes the high half of each active signed or unsigned product into vd. -/
  | vmulh (t : BitVec 3) (d : BitVec 6) (a : BitVec 6) (b : BitVec 6) (k : BitVec 3) (s : BitVec 1)
  /-- VMIN (R136): Writes the smaller of each active element pair into vd. -/
  | vmin (t : BitVec 3) (d : BitVec 6) (a : BitVec 6) (b : BitVec 6) (k : BitVec 3) (s : BitVec 1)
  /-- VMAX (R136): Writes the larger of each active element pair into vd. -/
  | vmax (t : BitVec 3) (d : BitVec 6) (a : BitVec 6) (b : BitVec 6) (k : BitVec 3) (s : BitVec 1)
  /-- VABS (R136): Writes the absolute value of each active integer element into vd. -/
  | vabs (t : BitVec 3) (d : BitVec 6) (a : BitVec 6) (k : BitVec 3)
  /-- VAND (R136): Writes the bitwise and of active elements into vd. -/
  | vand (t : BitVec 3) (d : BitVec 6) (a : BitVec 6) (b : BitVec 6) (k : BitVec 3) (s : BitVec 1)
  /-- VOR (R136): Writes the bitwise or of active elements into vd. -/
  | vor (t : BitVec 3) (d : BitVec 6) (a : BitVec 6) (b : BitVec 6) (k : BitVec 3) (s : BitVec 1)
  /-- VXOR (R136): Writes the bitwise exclusive or of active elements into vd. -/
  | vxor (t : BitVec 3) (d : BitVec 6) (a : BitVec 6) (b : BitVec 6) (k : BitVec 3) (s : BitVec 1)
  /-- VANDN (R136): Writes va and not vb for active elements into vd. -/
  | vandn (t : BitVec 3) (d : BitVec 6) (a : BitVec 6) (b : BitVec 6) (k : BitVec 3) (s : BitVec 1)
  /-- VSHL (R137): Shifts active elements left by a register or immediate amount. -/
  | vshl (t : BitVec 3) (d : BitVec 6) (a : BitVec 6) (b : BitVec 6) (k : BitVec 3) (s : BitVec 1)
  /-- VSHR (R137): Shifts active elements right logically. -/
  | vshr (t : BitVec 3) (d : BitVec 6) (a : BitVec 6) (b : BitVec 6) (k : BitVec 3) (s : BitVec 1)
  /-- VSRA (R137): Shifts active elements right arithmetically. -/
  | vsra (t : BitVec 3) (d : BitVec 6) (a : BitVec 6) (b : BitVec 6) (k : BitVec 3) (s : BitVec 1)
  /-- VROT (R137): Rotates active elements left by the amount modulo the width. -/
  | vrot (t : BitVec 3) (d : BitVec 6) (a : BitVec 6) (b : BitVec 6) (k : BitVec 3) (s : BitVec 1)
  /-- VPOPC (R138): Writes the set-bit count of each active element. -/
  | vpopc (t : BitVec 3) (d : BitVec 6) (a : BitVec 6) (k : BitVec 3)
  /-- VCLZ (R138): Writes the leading-zero count of each active element. -/
  | vclz (t : BitVec 3) (d : BitVec 6) (a : BitVec 6) (k : BitVec 3)
  /-- VCTZ (R138): Writes the trailing-zero count of each active element. -/
  | vctz (t : BitVec 3) (d : BitVec 6) (a : BitVec 6) (k : BitVec 3)
  /-- VFNSB (R138): Writes the index of the set bit with y set bits below it in each active element. -/
  | vfnsb (t : BitVec 3) (d : BitVec 6) (a : BitVec 6) (b : BitVec 6) (k : BitVec 3)
  /-- VBREV (R138): Reverses the bits of each active element. -/
  | vbrev (t : BitVec 3) (d : BitVec 6) (a : BitVec 6) (k : BitVec 3)
  /-- VCMP (R139): Compares active integer elements and writes the outcome to all bits of each element in mask kd. -/
  | vcmp (t : BitVec 3) (e : BitVec 3) (r : BitVec 3) (a : BitVec 6) (b : BitVec 6) (k : BitVec 3) (s : BitVec 1)
  /-- VSEL (R140): Writes every element of vd from va or vb as the selector mask chooses. -/
  | vsel (t : BitVec 3) (d : BitVec 6) (a : BitVec 6) (b : BitVec 6) (k : BitVec 3)
  /-- VMOV (R140): Copies active elements of va into vd. -/
  | vmov (t : BitVec 3) (d : BitVec 6) (a : BitVec 6) (k : BitVec 3)
  /-- VMOVI (R141): Writes an immediate to every element of vd in every cluster. -/
  | vmovi (t : BitVec 3) (d : BitVec 6) (i : BitVec 16)
  /-- VBCAST (R140): Broadcasts the low bits of a scalar register into active elements of vd. -/
  | vbcast (t : BitVec 3) (d : BitVec 6) (a : BitVec 6) (k : BitVec 3)
  /-- VEXTR (R142): Writes the lowest element of one lane of va, extended, to scalar register d. -/
  | vextr (t : BitVec 3) (d : BitVec 6) (a : BitVec 6) (i : BitVec 6) (j : BitVec 1)
  /-- VPERM (R143): Permutes elements within each cluster by the indices in vb. -/
  | vperm (t : BitVec 3) (d : BitVec 6) (a : BitVec 6) (b : BitVec 6) (k : BitVec 3)
  /-- XCL (R144): Copies a register between clusters, cluster c taking cluster c + n, with latency 6. -/
  | xcl (t : BitVec 3) (d : BitVec 6) (a : BitVec 6) (n : BitVec 3) (k : BitVec 3)
  /-- VRED (R145): Reduces the active elements of each cluster into element 0 and zeroes the rest. -/
  | vred (t : BitVec 3) (d : BitVec 6) (a : BitVec 6) (o : BitVec 3) (k : BitVec 3) (s : BitVec 1)
  /-- VFADD (R147): Adds active floating-point elements with one rounding. -/
  | vfadd (t : BitVec 3) (d : BitVec 6) (a : BitVec 6) (b : BitVec 6) (k : BitVec 3)
  /-- VFSUB (R147): Subtracts active floating-point elements with one rounding. -/
  | vfsub (t : BitVec 3) (d : BitVec 6) (a : BitVec 6) (b : BitVec 6) (k : BitVec 3)
  /-- VFMUL (R147): Multiplies active floating-point elements with one rounding. -/
  | vfmul (t : BitVec 3) (d : BitVec 6) (a : BitVec 6) (b : BitVec 6) (k : BitVec 3)
  /-- VFMA (R147): Computes va × vb + vd for active elements with one rounding. -/
  | vfma (t : BitVec 3) (d : BitVec 6) (a : BitVec 6) (b : BitVec 6) (k : BitVec 3)
  /-- VFMIN (R148): Writes the floating-point minimum of active element pairs. -/
  | vfmin (t : BitVec 3) (d : BitVec 6) (a : BitVec 6) (b : BitVec 6) (k : BitVec 3)
  /-- VFMAX (R148): Writes the floating-point maximum of active element pairs. -/
  | vfmax (t : BitVec 3) (d : BitVec 6) (a : BitVec 6) (b : BitVec 6) (k : BitVec 3)
  /-- VFNEG (R148): Inverts or clears the sign bit of active floating-point elements. -/
  | vfneg (t : BitVec 3) (d : BitVec 6) (a : BitVec 6) (k : BitVec 3) (s : BitVec 1)
  /-- VFCMP (R139): Compares active floating-point elements and writes the outcome into mask kd. -/
  | vfcmp (t : BitVec 3) (e : BitVec 3) (r : BitVec 3) (a : BitVec 6) (b : BitVec 6) (k : BitVec 3)
  /-- KAND (R149): Writes the bitwise and of two masks. -/
  | kand (d : BitVec 3) (a : BitVec 3) (b : BitVec 3)
  /-- KOR (R149): Writes the bitwise or of two masks. -/
  | kor (d : BitVec 3) (a : BitVec 3) (b : BitVec 3)
  /-- KXOR (R149): Writes the bitwise exclusive or of two masks. -/
  | kxor (d : BitVec 3) (a : BitVec 3) (b : BitVec 3)
  /-- KNOT (R149): Writes the complement of a mask. -/
  | knot (d : BitVec 3) (a : BitVec 3)
  /-- KMOV (R149): Copies a mask. -/
  | kmov (d : BitVec 3) (a : BitVec 3)
  /-- FEXP2 (R166): Writes the correctly rounded 2^x of each active element. -/
  | fexp2 (i : BitVec 3) (o : BitVec 3) (d : BitVec 6) (a : BitVec 6) (k : BitVec 3) (r : BitVec 3)
  /-- FLOG2 (R166): Writes the correctly rounded log2 x of each active element. -/
  | flog2 (i : BitVec 3) (o : BitVec 3) (d : BitVec 6) (a : BitVec 6) (k : BitVec 3) (r : BitVec 3)
  /-- FRCP (R166): Writes the correctly rounded reciprocal of each active element. -/
  | frcp (i : BitVec 3) (o : BitVec 3) (d : BitVec 6) (a : BitVec 6) (k : BitVec 3) (r : BitVec 3)
  /-- FRSQ (R166): Writes the correctly rounded reciprocal square root of each active element. -/
  | frsq (i : BitVec 3) (o : BitVec 3) (d : BitVec 6) (a : BitVec 6) (k : BitVec 3) (r : BitVec 3)
  /-- FSQRT (R166): Writes the correctly rounded square root of each active element. -/
  | fsqrt (i : BitVec 3) (o : BitVec 3) (d : BitVec 6) (a : BitVec 6) (k : BitVec 3) (r : BitVec 3)
  /-- FTANH (R166): Writes the correctly rounded tanh of each active element. -/
  | ftanh (i : BitVec 3) (o : BitVec 3) (d : BitVec 6) (a : BitVec 6) (k : BitVec 3) (r : BitVec 3)
  /-- FCVT (R169): Converts active elements between two different types, by part for narrowing or widening. -/
  | fcvt (i : BitVec 3) (o : BitVec 3) (d : BitVec 6) (a : BitVec 6) (k : BitVec 3) (r : BitVec 3)
  /-- FBPK (R170): Packs floats into BFP-m mantissa bytes in vd and block exponents in vd + 1. -/
  | fbpk (i : BitVec 3) (m : BitVec 3) (d : BitVec 6) (a : BitVec 6) (k : BitVec 3) (r : BitVec 3)
  /-- FBUNPK (R171): Unpacks BFP-m byte form from va and va + 1 into floats. -/
  | fbunpk (o : BitVec 3) (m : BitVec 3) (d : BitVec 6) (a : BitVec 6) (k : BitVec 3) (r : BitVec 3)
  /-- FSCL (R167): Scales active elements by 2^j from the lend byte with one rounding. -/
  | fscl (i : BitVec 3) (o : BitVec 3) (d : BitVec 6) (a : BitVec 6) (k : BitVec 3) (r : BitVec 3)
  /-- FRND (R168): Rounds active elements to integral values in the same format. -/
  | frnd (i : BitVec 3) (o : BitVec 3) (d : BitVec 6) (a : BitVec 6) (k : BitVec 3) (r : BitVec 3)
  /-- BOBPOP (R172): Pops one bobbin word into s[d], stalling while the queue is empty. -/
  | bobpop (d : BitVec 6)
  /-- LDX (R185): Loads one vector register from the X-store, cluster by cluster at the cluster stride. -/
  | ldx (v : BitVec 6) (b : BitVec 6) (o : BitVec 10)
  /-- STX (R185): Stores one vector register into the X-store at the cluster stride. -/
  | stx (v : BitVec 6) (b : BitVec 6) (o : BitVec 10)
  /-- LDXS (R187): Loads one scalar of the given size from the X-store. -/
  | ldxs (z : BitVec 3) (d : BitVec 6) (b : BitVec 6) (o : BitVec 10)
  /-- STXS (R187): Stores one scalar of the given size into the X-store. -/
  | stxs (z : BitVec 3) (d : BitVec 6) (b : BitVec 6) (o : BitVec 10)
  /-- LDW (R185): Loads one vector register from 1 KiB of contiguous W-store. -/
  | ldw (v : BitVec 6) (b : BitVec 6) (o : BitVec 10)
  /-- STW (R185): Stores one vector register into 1 KiB of contiguous W-store. -/
  | stw (v : BitVec 6) (b : BitVec 6) (o : BitVec 10)
  /-- LDA (R188): Loads four accumulator rows of a bank into a vector register. -/
  | lda (v : BitVec 6) (k : BitVec 4) (r : BitVec 6) (i : BitVec 6)
  /-- STA (R188): Stores a vector register into four accumulator rows of a bank. -/
  | sta (v : BitVec 6) (k : BitVec 4) (r : BitVec 6) (i : BitVec 6)
  /-- LDG (R189): Starts an interlocked load of one scalar from global memory under the context's snapshot. -/
  | ldg (z : BitVec 3) (d : BitVec 6) (b : BitVec 6) (o : BitVec 10)
  /-- STG (R189): Enters one scalar store into the store buffer, or the held buffer in held mode. -/
  | stg (z : BitVec 3) (d : BitVec 6) (b : BitVec 6) (o : BitVec 10)
  /-- VLDG (R190): Starts an interlocked load of one vector register from 1 KiB of global memory. -/
  | vldg (v : BitVec 6) (b : BitVec 6) (o : BitVec 10)
  /-- VSTG (R190): Enters eight 128-byte segments of a vector register into the store buffer. -/
  | vstg (v : BitVec 6) (b : BitVec 6) (o : BitVec 10)
  /-- VGATH (R191): Starts an interlocked gather of active elements from computed global addresses. -/
  | vgath (z : BitVec 3) (v : BitVec 6) (b : BitVec 6) (i : BitVec 6) (k : BitVec 3)
  /-- VSCAT (R191): Scatters active elements to computed global addresses through the store buffer, all or none. -/
  | vscat (z : BitVec 3) (v : BitVec 6) (b : BitVec 6) (i : BitVec 6) (k : BitVec 3)
  /-- LDACQ (R280): Reads a doubleword under the Latest axiom and opens a new snapshot at its scope. -/
  | ldacq (s : BitVec 3) (d : BitVec 6) (b : BitVec 6) (o : BitVec 10)
  /-- STREL (R280): Posts a publication at its scope with its own doubleword store published last at the same eo point. -/
  | strel (s : BitVec 3) (d : BitVec 6) (b : BitVec 6) (o : BitVec 10)
  /-- AADD (R281): Atomically adds s[V] to a doubleword at its home and returns the old value. -/
  | aadd (d : BitVec 6) (b : BitVec 6) (v : BitVec 6) (s : BitVec 3)
  /-- AMIN (R281): Atomically stores the signed minimum and returns the old value. -/
  | amin (d : BitVec 6) (b : BitVec 6) (v : BitVec 6) (s : BitVec 3)
  /-- AMAX (R281): Atomically stores the signed maximum and returns the old value. -/
  | amax (d : BitVec 6) (b : BitVec 6) (v : BitVec 6) (s : BitVec 3)
  /-- AXCHG (R281): Atomically exchanges a doubleword with s[V]. -/
  | axchg (d : BitVec 6) (b : BitVec 6) (v : BitVec 6) (s : BitVec 3)
  /-- ACAS (R281): Atomically stores s[V] if the location equals s[D], returning the old value. -/
  | acas (d : BitVec 6) (b : BitVec 6) (v : BitVec 6) (s : BitVec 3)
  /-- AFADD (R281): Atomically adds an FP32 value to a word with RN rounding. -/
  | afadd (d : BitVec 6) (b : BitVec 6) (v : BitVec 6) (s : BitVec 3)
  /-- CHUNK (R323): Claims a range of items from a chunk counter object at its home. -/
  | chunk (d : BitVec 6) (b : BitVec 6) (v : BitVec 6) (s : BitVec 3)
  /-- LDBLK (R254): Releases any block held under the tag and starts filling a new L2 load-block. -/
  | ldblk (n : BitVec 6) (b : BitVec 6) (t : BitVec 6)
  /-- BUFHOLD (R195): Sets the in-use bits of a run of X-store granules. -/
  | bufhold (n : BitVec 6) (b : BitVec 6) (o : BitVec 10)
  /-- BUFFREE (R195): Clears the in-use bits of a run of X-store granules. -/
  | buffree (n : BitVec 6) (b : BitVec 6) (o : BitVec 10)
  /-- SCACC (R198): Scales bit-plane partials by folded exponents and adds them into an FP32 accumulator row. -/
  | scacc (d : BitVec 4) (r : BitVec 6) (s : BitVec 4) (g : BitVec 2) (e : BitVec 5) (c : BitVec 4)
  /-- MXPUSH_WSTORE (R204): Writes one shadow plane row from the W-store. -/
  | mxpushWstore (q : BitVec 6) (a : BitVec 6) (o : BitVec 6)
  /-- MXPUSH_STREAM (R204): Writes one shadow plane row from the next row of a heddle stream, waiting for its arrival. -/
  | mxpushStream (q : BitVec 6) (h : BitVec 2)
  /-- MXFLIP (R205): Exchanges the shadow and active weight planes at the start of cycle f + 2. -/
  | mxflip
  /-- MXACC (R208): Feeds one activation row through the active plane and schedules an accumulator row write at issue + 68. -/
  | mxacc (b : BitVec 4) (r : BitVec 6) (a : BitVec 6) (f : BitVec 4) (o : BitVec 6)
  /-- MXBP (R209): Runs one bit-plane beat into a 16-row group as INT32 partials and records its block count. -/
  | mxbp (b : BitVec 4) (g : BitVec 2) (n : BitVec 1) (a : BitVec 6) (p : BitVec 3) (h : BitVec 1) (o : BitVec 6)
  /-- MXDRAIN (R211): Converts an accumulator row and writes it into the X-store at issue + 12. -/
  | mxdrain (b : BitVec 4) (r : BitVec 6) (a : BitVec 6) (f : BitVec 4) (o : BitVec 6)
  /-- MXZERO (R210): Clears accumulator rows and the block counts of their groups. -/
  | mxzero (b : BitVec 4) (r : BitVec 6) (c : BitVec 6)
  /-- MXHED (R214): Opens a heddle stream, pinning its L2 lines and forking its row fetches. -/
  | mxhed (h : BitVec 2) (k : BitVec 1) (a : BitVec 6) (c : BitVec 6)
  /-- MXUNPIN (R215): Closes a heddle stream and releases its pinned lines. -/
  | mxunpin (h : BitVec 2)
  /-- MXGANG (R227): Writes the next stream row into a shadow row of every quad core the mask names. -/
  | mxgang (q : BitVec 6) (h : BitVec 2) (m : BitVec 4)
  /-- BR (R99): Transfers control to PC plus a signed bundle offset. -/
  | br (o : BitVec 24)
  /-- JMPI (R100): Jumps to the 64-byte-aligned address in s[a], optionally writing a link to s[d]. -/
  | jmpi (a : BitVec 6) (d : BitVec 6)
  /-- CALL (R99): Transfers control by a signed offset and writes the return address to s62. -/
  | call (o : BitVec 24)
  /-- RET (R101): Jumps to the address held in s62. -/
  | ret
  /-- REP (R46): Sets ctl.repc so that the next bundle issues n times in a row. -/
  | rep (a : BitVec 6) (i : BitVec 16)
  /-- YIELD (R103): Gives up the issue unit, becoming eligible at once or sleeping for a count of cycles. -/
  | yield (a : BitVec 6) (i : BitVec 18)
  /-- TRAP (R290): Raises software trap 0x14 with the operand in ctl.tinfo. -/
  | trap (i : BitVec 16)
  /-- RETT (R291): Returns from a light trap to the bundle held in ctl.lret. -/
  | rett
  /-- RETT_RESUME (R291): Resumes a stopped context named by handle, replaying its undone slots or deferred access. -/
  | rettResume (a : BitVec 6)
  /-- RETT_SKIP (R291): Resumes a stopped context with its faulting slot, bundle or deferred access skipped. -/
  | rettSkip (a : BitVec 6)
  /-- RETT_END (R292): Ends a stopped task without completing it, discarding its unpublished writes and failing its slot. -/
  | rettEnd (a : BitVec 6)
  /-- COPY (R237): Binds a tag and forks a copy of s[N] bytes from s[S] to s[D]. -/
  | copy (d : BitVec 6) (s : BitVec 6) (n : BitVec 6) (t : BitVec 6)
  /-- COPYCH (R240): Binds a tag and forks an engine that walks a chain of copy records. -/
  | copych (h : BitVec 6) (t : BitVec 6)
  /-- COPYMC (R250): Binds a tag and forks a multicast of X-store bytes to the quad cores in ctl.mcfg. -/
  | copymc (a : BitVec 6) (n : BitVec 6) (q : BitVec 6) (t : BitVec 6)
  /-- CANCEL (R241): Requests cancellation of every operation bound to a tag, without waiting. -/
  | cancel (t : BitVec 6)
  /-- WAITANY (R243): Waits until any masked tag is ready and returns the lowest ready index. -/
  | waitany (d : BitVec 6) (m : BitVec 6)
  /-- WAITALL (R243): Waits until every masked tag is ready. -/
  | waitall (m : BitVec 6)
  /-- FFRDY (R243): Returns the lowest ready masked tag without waiting. -/
  | ffrdy (d : BitVec 6) (m : BitVec 6)
  /-- TAGCLR (R244): Clears ready bit, status and fault address of masked tags with nothing pending. -/
  | tagclr (m : BitVec 6)
  /-- TAGST (R244): Returns a tag's status, ready bit, pending count and fault address bits. -/
  | tagst (d : BitVec 6) (t : BitVec 6)
  /-- BARINIT (R246): Arms a barrier object with an expected byte count and clears its counts. -/
  | barinit (b : BitVec 6) (e : BitVec 6)
  /-- BARARR (R246): Adds an arrival of n bytes to a barrier, or records a stray if it is unarmed. -/
  | bararr (b : BitVec 6) (n : BitVec 6)
  /-- BARWAIT (R246): Waits until a barrier is met or its phase flips, then disarms it and flips the phase. -/
  | barwait (b : BitVec 6)
  /-- PHASE (R278): Publishes the context's writes at a scope and then opens a new snapshot there. -/
  | phase (s : BitVec 3)
  /-- FENCE (R279): Holds later global accesses until every earlier global access has been performed. -/
  | fence
  /-- SUBSCR (R257): Binds a ring handle to a shuttle stream described by a ring descriptor and stream record. -/
  | subscr (a : BitVec 6) (s : BitVec 6) (h : BitVec 6)
  /-- SLOTWAIT (R259): Waits until the ring's head slot is ready or the stream ends and returns its status word. -/
  | slotwait (d : BitVec 6) (h : BitVec 6)
  /-- SLOTPOP (R259): Waits for a filled input slot, frees it and advances the head. -/
  | slotpop (h : BitVec 6)
  /-- SLOTDONE (R259): Waits for a free output slot, marks it done and advances the head. -/
  | slotdone (h : BitVec 6)
  /-- UNSUB (R259): Stops a subscription, waits for done slots to be pulled, frees the handle and returns the worst status. -/
  | unsub (d : BitVec 6) (h : BitVec 6)
  /-- SEQLD (R223): Waits for an idle sequencer and starts loading n cards into the card store. -/
  | seqld (a : BitVec 6) (n : BitVec 6) (t : BitVec 6)
  /-- SEQGO (R223): Starts the loaded deck at a card with counters from an X-store init record. -/
  | seqgo (a : BitVec 6) (s : BitVec 6)
  /-- SEQWAIT (R223): Waits until no deck owned by the context is loading or running. -/
  | seqwait
  /-- GANG (R226): Copies the card store to the gang members and starts the deck on all of them in lock-step. -/
  | gang (a : BitVec 6) (m : BitVec 6) (s : BitVec 6)
  /-- SPAWN (R314): Reads a TASK packet, takes a task-table slot and queues or parks the task, returning its handle. -/
  | spawn (d : BitVec 6) (a : BitVec 6)
  /-- TASKEND (R316): Joins engines, publishes at the template scope, releases successors and frees the slot and context. -/
  | taskend
  /-- TRIGGER (R317): Publishes at .pkg and releases the task's successors early, raising their late words. -/
  | trigger
  /-- DECIDE (R334): Decides a decision object, squashing the losing held successor and committing the winner. -/
  | decide (b : BitVec 6) (c : BitVec 6)
  /-- PKADV (R328): Advances the pick's stage entry and publishes at the weft scope. -/
  | pkadv (a : BitVec 6) (i : BitVec 16)
  /-- PKSET (R328): Sets the pick's stage entry to a value not below the current one and publishes. -/
  | pkset (a : BitVec 6) (i : BitVec 16)
  /-- WAITL (R328): Waits until the left neighbour's stage reaches a value, then acquires at the weft scope. -/
  | waitl (a : BitVec 6) (i : BitVec 16)
  /-- HELD (R331): Takes a held buffer and enters held mode. -/
  | held
  /-- COMMIT (R331): Joins held-mode engines, publishes the held writes at a scope and leaves held mode. -/
  | commit (s : BitVec 3)
  /-- SQUASH (R331): Cancels held-mode engines, discards the held writes and leaves held mode. -/
  | squash
  /-- GUARD (R337): Compares a residual with ctl.tol and publishes or discards both held buffers of a surrogate pair. -/
  | guard (d : BitVec 6) (a : BitVec 6)
  /-- SYMDECL (R354): Reads declaration records and declares the named latency symbols afresh. -/
  | symdecl (a : BitVec 6) (m : BitVec 16)
  /-- SYMRD (R355): Returns a symbol's bound, declared minimum, maximum or state word. -/
  | symrd (d : BitVec 6) (k : BitVec 4) (w : BitVec 2)
  /-- SYMGEN (R356): Returns the context's symbol generation count. -/
  | symgen (d : BitVec 6)
  /-- DEADLINE (R364): Opens an energy step with a class and a deadline in package time. -/
  | deadline (a : BitVec 6) (c : BitVec 16)
  /-- STEPEND (R364): Closes the open step, returns its slack and reports it to Uluja. -/
  | stepend (d : BitVec 6)
  /-- RDCTL (R104): Reads a control register into s[d]. -/
  | rdctl (d : BitVec 6) (n : BitVec 12)
  /-- WRCTL (R104): Writes s[a] to a control register, governing later bundles. -/
  | wrctl (a : BitVec 6) (n : BitVec 12)
  /-- COLL (R373): Binds a tag and forks a pod collective described by a descriptor in global memory. -/
  | coll (a : BitVec 6) (t : BitVec 6)
  /-- BUNDLE_ISSUE (R53): A context issues a bundle: decode, legality, tree tests, scoreboard, then its committing slots. -/
  | bundleIssue (n : Nat)
  /-- YIELD_WAKE (R103): A sleeping yield's count of cycles expires and the context becomes eligible. -/
  | yieldWake (x : Nat)
  /-- WAIT_TIMEOUT (R243): A waiting instruction exceeds ctl.bto and takes trap 0x17 before its bundle. -/
  | waitTimeout (x : Nat)
  /-- BARRIER_TIMEOUT (R246): A barwait exceeds ctl.bto and takes trap 0x0B with the arrived count. -/
  | barrierTimeout (x : Nat)
  /-- GLOBAL_LOAD_RETURN (R189): The data of an interlocked global load returns and lands, giving a latency sample. -/
  | globalLoadReturn (n : Nat) (k : Nat) (id : Nat)
  /-- ATOMIC_PERFORMED (R281): An atomic or ldacq request arrives at its home and is performed there, publishing an atomic's write. -/
  | atomicPerformed (n : Nat) (k : Nat) (id : Nat)
  /-- PUBLICATION (R266): A waiting publication makes the context's writes visible at its scope at one eo point. -/
  | publication (x : Nat)
  /-- FORCED_SNAPSHOT_BOUNDARY (R271): A snapshot holding back a publication beyond ctl.bto is forced to a new boundary and a version record written. -/
  | forcedSnapshotBoundary (x : Nat)
  /-- COPY_COMPLETE (R237): A copy engine finishes moving its bytes and completes its tag. -/
  | copyComplete (n : Nat) (id : Nat)
  /-- CHAIN_RECORD (R240): The copych engine reads a chain record, moves its bytes and clears its own bit. -/
  | chainRecord (n : Nat) (id : Nat)
  /-- CANCEL_ACKNOWLEDGE (R241): An engine acknowledges a cancel request and completes its operation with status cancelled. -/
  | cancelAcknowledge (n : Nat) (id : Nat)
  /-- MULTICAST_PIECE_LANDING (R260): A piece of a multicast lands in a receiver's X-store and arrives at its barrier. -/
  | multicastPieceLanding (n : Nat) (id : Nat) (q : Nat)
  /-- LOAD_BLOCK_FILL (R254): A load-block is allocated and filled, or refused, and its tag completes. -/
  | loadBlockFill (n : Nat) (id : Nat) (tag : Nat)
  /-- SHUTTLE_FILL (R258): A shuttle controller fills a free input ring slot with the next tile. -/
  | shuttleFill (n : Nat) (h : Nat)
  /-- SHUTTLE_PULL (R258): A shuttle controller writes a done output slot to its tile and frees the slot. -/
  | shuttlePull (n : Nat) (h : Nat)
  /-- HEDDLE_ROW_ARRIVAL (R216): A heddle stream row arrives from L2, giving an L2-hit sample. -/
  | heddleRowArrival (n : Nat) (h : Nat)
  /-- DECK_LOAD_COMPLETE (R223): A seqld finishes loading the card store and completes its tag. -/
  | deckLoadComplete (n : Nat) (id : Nat)
  /-- CARD_VISIT (R220): The card sequencer visits one card, applies its counter and chooses the next card. -/
  | cardVisit (n : Nat)
  /-- CARD_STEP (R221): The sequencer emits a card's X-slot step in a free cycle. -/
  | cardStep (n : Nat)
  /-- CARD_COPY_REQUEST (R220): The sequencer issues a card's copy request in a free copy cycle. -/
  | cardCopyRequest (n : Nat)
  /-- COLL_COMPLETE (R373): A collective combines every contribution, writes its result and skew, and completes its tag. -/
  | collComplete (n : Nat) (id : Nat) (peers : List PeerPart)
  /-- SPAWN_COMPLETE (R314): The spawn engine takes a slot, copies the packet and lands the handle. -/
  | spawnComplete (x : Nat)
  /-- DISPATCH (R311): A die dispatcher places the head task of a chosen level into a free context. -/
  | dispatch (d : Nat) (p : Nat)
  /-- RING_REFILL (R313): An overflow ring record or deferred task is queued on a die that has room. -/
  | ringRefill (p : Nat)
  /-- CONTEXT_SAVE (R295): A context is saved: results diverted, engines drained, published at .sys and written to its save record. -/
  | contextSave (x : Nat)
  /-- RESUMPTION (R299): A saved context is restored on a core, its shadow entries replayed and a .sys snapshot opened. -/
  | resumption (r : Nat) (n : Nat)
  /-- STREAM_TAIL_READ (R318): A front end re-reads a published tail word and executes the new packets in order. -/
  | streamTailRead (f : Nat)
  /-- LAUNCH_PACKET (R319): A LAUNCH produces one task per tile of its extent, or a weft or surrogate pairs. -/
  | launchPacket (f : Nat)
  /-- WAITSEM_PACKET (R319): A WAITSEM repeats a .sys acquire of a word until its relation holds. -/
  | waitsemPacket (f : Nat)
  /-- SIGSEM_PACKET (R319): A SIGSEM optionally fences, then sets or adds to a word as a .sys release. -/
  | sigsemPacket (f : Nat)
  /-- PATCH_PACKET (R319): A PATCH writes its bytes and publishes them at .sys. -/
  | patchPacket (f : Nat)
  /-- REPLAY_PACKET (R321): A REPLAY patches a parameter block and starts or stages a graph replay. -/
  | replayPacket (f : Nat)
  /-- FENCE_PACKET (R319): A FENCE waits for every earlier task of the stream to end and joins them. -/
  | fencePacket (f : Nat)
  /-- REPLAY_COMPLETE (R321): A replay finishes and any pending replay starts on the other block. -/
  | replayComplete (f : Nat)
  /-- SHOOT_DOWN_COMPLETE (R388): A shoot-down completes once dependent accesses and engines are done, and is logged. -/
  | shootDownComplete (i : Nat)
  /-- REFRESH_INTERVAL (R378): At the end of each refresh interval a channel owes one more refresh. -/
  | refreshInterval (ch : Nat)
  /-- PER_BANK_REFRESH (R378): A channel refreshes its next bank when that bank has no waiting request. -/
  | perBankRefresh (ch : Nat)
  /-- ALL_BANK_REFRESH (R378): With nine refreshes owed, a channel blocks all banks for an all-bank refresh. -/
  | allBankRefresh (ch : Nat)
  /-- BOBBIN_PAUSE_END (R159): The generator's 4,096-cycle pause expires and pushing resumes. -/
  | bobbinPauseEnd (n : Nat)
  /-- GOVERNOR_EPOCH (R366): Each 100 µs epoch the governor predicts open steps, chooses each die's entry and profiles, and divides energy. -/
  | governorEpoch (compute : List Nat) (memory : List Nat)
  /-- CLOCK_CHANGE (R366): A die switches its clock after raising or before lowering its column supplies, re-binding symbols. -/
  | clockChange (d : Nat) (e : Nat)
  /-- CLOCK_SWITCH_PAUSE_END (R366): The 256-cycle pause of a clock switch expires and issue resumes. -/
  | clockSwitchPauseEnd (d : Nat)
  /-- DEADLINE_RISK (R367): A tracked step's remaining time falls below its predicted need and light trap 0x16 is raised. -/
  | deadlineRisk (d : Nat) (k : Nat)
  /-- BALLAST_BUNDLE (R361): In an idle cycle where demand would fall too fast, the core issues a ballast bundle. -/
  | ballastBundle (n : Nat)
  /-- WATCHDOG_EXPIRY (R370): The Uluja watchdog expires and hardware keeps each die's last safe entry and default profiles. -/
  | watchdogExpiry
  /-- DIE_GATE (R20): Once no context runs there, a die's slices write back and drop their lines and the die is gated. -/
  | dieGate (d : Nat)
  /-- UNGATE_COMPLETE (R371): After 20 µs the ungated die's slices join the hash and its quads take dispatch. -/
  | ungateComplete (d : Nat)
  /-- HANDOVER_TIMEOUT (R406): No acceptance arrives within 1 s and nothing changes. -/
  | handoverTimeout
  /-- OWNERSHIP_LAPSE (R406): The owner's link is down for 10 s, ownership lapses and claims reopen. -/
  | ownershipLapse
  /-- TRACE_POST_EXPIRY (R391): After a trigger, the post entry count expires and the trace unit stops. -/
  | tracePostExpiry (d : Nat)
  /-- CHECKPOINT (R412): A partition is stopped, its groups copied to the storage tier, and restarted. -/
  | checkpoint (p : Nat)
  /-- FIXED_LATENCY_WRITEBACK (R38): A fixed-latency result (register, mask, accumulator row, plane exchange, mxdrain bytes, or a replayed shadow entry) lands at exactly issue plus latency, ORing its flags into ctl.fpf. -/
  | fixedLatencyWriteback (n : Nat)
  /-- DUMP (R300): The owner stops every context of a partition and writes a dump image. -/
  | dump (p : Nat) (ranges : List (Nat × Nat))
  /-- TRANSLATION_WALK (R386): A die translation unit walks the page tables for a miss and sets accessed and dirty bits. -/
  | translationWalk (d : Nat) (p : Nat) (va : Nat) (wr : Bool)
  /-- SHOOT_DOWN (R388): A shoot-down drops cached translations of a range and holds lookups of it. -/
  | shootDown (p : Nat) (va : Nat) (len : Nat) (core : Nat)
  /-- TEMPERATURE_READ (R380): Every 100 µs the base die reads channel temperatures and sets refresh rate and bandwidth cap. -/
  | temperatureRead (ch : Nat) (temp : Nat)
  /-- PATROL_SCRUB (R390): Patrol scrubbing reads a channel line, correcting or poisoning it. -/
  | patrolScrub (ch : Nat) (line : Nat) (found : ScrubFinding)
  /-- SLICE_SCRUB (R390): Every 4,096 cycles scrubbing reads one line of every powered slice. -/
  | sliceScrub (d : Nat) (line : Nat) (found : ScrubFinding)
  /-- BOBBIN_PUSH (R159): The bobbin generator pushes one random word into a non-full queue. -/
  | bobbinPush (n : Nat)
  /-- BOBBIN_HEALTH_FAILURE (R159): A failed health test pauses the generator for 4,096 cycles and logs an error. -/
  | bobbinHealthFailure (n : Nat)
  /-- HOST_ENTRY_CHOICE (R369): In host-assisted mode the host chooses a die's frequency entry for the epoch. -/
  | hostEntryChoice (d : Nat) (e : EpochChoice)
  /-- COLUMN_TRIM_TICK (R368): Every 10 µs, or 40 µs near threshold, a column with margin lowers its supply one step. -/
  | columnTrimTick (d : Nat) (col : Nat)
  /-- MARGIN_ALARM (R368): A column's margin falls below the guard band and its supply rises one step. -/
  | marginAlarm (d : Nat) (col : Nat)
  /-- CURRENT_LIMIT (R360): A column's supply current exceeds its limit and its cores take damping stalls. -/
  | currentLimit (d : Nat) (col : Nat)
  /-- THERMAL_TRIP (R370): A die junction reaching 110 °C forces its lowest usable entry. -/
  | thermalTrip (d : Nat)
  /-- THERMAL_RECOVERY (R370): A tripped die falling below 100 °C leaves its forced entry. -/
  | thermalRecovery (d : Nat)
  /-- DIE_UNGATE (R371): A grow ungates a die. -/
  | dieUngate (d : Nat)
  /-- SHRINK (R372): A partition's work is moved off a die: dispatch stops, queues move, contexts are saved and resumed elsewhere. -/
  | shrink (p : ShrinkRequest) (d : Nat)
  /-- GROW (R372): A grow ungates a die and resumes dispatch there. -/
  | grow (p : Nat) (d : Nat)
  /-- PACKAGE_RESET (R409): A package reset starts boot: ROM verification, firmware chain, HBM training, then claims open. -/
  | packageReset (stage : Nat) (images : List Nat)
  /-- OWNERSHIP_CLAIM (R405): A signed claim message makes its master the owner if it is the first valid claim. -/
  | ownershipClaim (m : Nat) (valid : Bool)
  /-- OWNER_HANDOVER (R406): The owner names a target master for handing over ownership. -/
  | ownerHandover (m : Nat) (heir : Nat)
  /-- HANDOVER_ACCEPTANCE (R406): The target accepts within 1 s and ownership passes. -/
  | handoverAcceptance (m : Nat)
  /-- CONTROL_WINDOW_WRITE (R402): A master writes a control-window field that has no row of its own. -/
  | controlWindowWrite (m : Nat) (off : Nat) (size : Nat) (val : Nat)
  /-- MASTER_RELEASE (R407): The owner releases a frozen master and its held requests proceed in order. -/
  | masterRelease (m : Nat) (target : Nat)
  /-- PARTITION_START (R403): Writing state 2 to a valid partition entry starts dispatch. -/
  | partitionStart (m : Nat) (p : Nat)
  /-- PARTITION_STOP (R403): Writing state 1 stops dispatch, halts the streams and saves every context. -/
  | partitionStop (m : Nat) (p : Nat)
  /-- TRACE_START (R391): Setting run in the trace control word starts writing trace entries for the selected core. -/
  | traceStart (m : Nat) (d : Nat) (word : Nat)
  /-- TRACE_STOP (R391): Clearing run in the trace control word stops the trace unit. -/
  | traceStop (m : Nat) (d : Nat)
  /-- ATTESTATION (R410): An attestation request is answered with an ML-DSA-65 signature over the nonce and state. -/
  | attestation (nonce : Nat)
  /-- FIRMWARE_UPDATE (R411): New firmware is fetched over the fabric or pushed by the host while hardware keeps safe limits. -/
  | firmwareUpdate (image : Nat) (valid : Bool)
  /-- HOST_OR_PEER_REQUEST (R408): A host function through its BAR2 device-memory aperture, or a fabric peer package, reads or writes device memory, is checked under R407, and may be held or frozen. -/
  | hostOrPeerRequest (m : Nat) (addr : Nat) (len : Nat) (data : Option (List (BitVec 8)))
  /-- TRANSLATION_MEMORY_EDIT (R389): A Briuc system core writes a page-table entry in translation memory, and the write is logged as an edit record. -/
  | translationMemoryEdit (core : Nat) (p : Nat) (addr : Nat) (val : Nat)
  /-- CURRENT_BELOW_LIMIT (R360): A column's measured supply current falls back to or below its limit, and its cores stop taking current-limit damping stalls. -/
  | currentBelowLimit (d : Nat) (col : Nat)
deriving DecidableEq, Repr

end Sys2Proof
end

