-- ==== Sys2Proof/Decode.lean ====
section
/-! DEFINITION. The decoder of slot words and bundles (02 R25 to R34, 03 R55 to R71), total on any bits, and the
encoder written from the same tables. An unassigned opcode, and rett's mode 3, decode to `bad`: trap 0x02 at the
slot when it commits (03 R71, 14 R291). Bits that belong to no field are ignored (03 R55). -/

namespace Sys2Proof

/-- The bit field of width `n` at bit `lo` of the number `w` (00 R5). -/
def field (w lo n : Nat) : BitVec n := BitVec.ofNat n (w / 2 ^ lo)

/-- The classes of slot words (02 R26). -/
inductive SlotClass where
  | scalar | vector | special | memory | matrix | control
deriving DecidableEq, Repr

/-- What a slot word holds (02 R27, 03 R71). -/
inductive SlotOp where
  | nop
  | op (i : Instr)
  | bad
deriving DecidableEq, Repr

/-- The scalar slot word `w` (03 R65 to R70). -/
def decodeScalar (w : Nat) : SlotOp :=
  match w / 2 ^ 24 % 256 with
  | 0 => .nop
  | 0x01 => .op (.add (field w 18 6) (field w 12 6) (field w 6 6))
  | 0x02 => .op (.sub (field w 18 6) (field w 12 6) (field w 6 6))
  | 0x03 => .op (.mul (field w 18 6) (field w 12 6) (field w 6 6))
  | 0x04 => .op (.mulh (field w 18 6) (field w 12 6) (field w 6 6))
  | 0x05 => .op (.mulhu (field w 18 6) (field w 12 6) (field w 6 6))
  | 0x06 => .op (.divu (field w 18 6) (field w 12 6) (field w 6 6))
  | 0x07 => .op (.remu (field w 18 6) (field w 12 6) (field w 6 6))
  | 0x08 => .op (.and (field w 18 6) (field w 12 6) (field w 6 6))
  | 0x09 => .op (.or (field w 18 6) (field w 12 6) (field w 6 6))
  | 0x0A => .op (.xor (field w 18 6) (field w 12 6) (field w 6 6))
  | 0x0B => .op (.shl (field w 18 6) (field w 12 6) (field w 6 6))
  | 0x0C => .op (.shr (field w 18 6) (field w 12 6) (field w 6 6))
  | 0x0D => .op (.sra (field w 18 6) (field w 12 6) (field w 6 6))
  | 0x0E => .op (.min (field w 18 6) (field w 12 6) (field w 6 6))
  | 0x0F => .op (.max (field w 18 6) (field w 12 6) (field w 6 6))
  | 0x10 => .op (.minu (field w 18 6) (field w 12 6) (field w 6 6))
  | 0x11 => .op (.maxu (field w 18 6) (field w 12 6) (field w 6 6))
  | 0x12 => .op (.slt (field w 18 6) (field w 12 6) (field w 6 6))
  | 0x13 => .op (.sltu (field w 18 6) (field w 12 6) (field w 6 6))
  | 0x14 => .op (.seq (field w 18 6) (field w 12 6) (field w 6 6))
  | 0x15 => .op (.sel (field w 18 6) (field w 12 6) (field w 6 6) (field w 0 6))
  | 0x16 => .op (.mov (field w 18 6) (field w 12 6))
  | 0x17 => .op (.popc (field w 18 6) (field w 12 6))
  | 0x18 => .op (.clz (field w 18 6) (field w 12 6))
  | 0x19 => .op (.ctz (field w 18 6) (field w 12 6))
  | 0x1A => .op (.fnsb (field w 18 6) (field w 12 6) (field w 6 6))
  | 0x1B => .op (.brev (field w 18 6) (field w 12 6))
  | 0x20 => .op (.addi (field w 18 6) (field w 12 6) (field w 0 12))
  | 0x21 => .op (.andi (field w 18 6) (field w 12 6) (field w 0 12))
  | 0x22 => .op (.ori (field w 18 6) (field w 12 6) (field w 0 12))
  | 0x23 => .op (.xori (field w 18 6) (field w 12 6) (field w 0 12))
  | 0x24 => .op (.shli (field w 18 6) (field w 12 6) (field w 0 6))
  | 0x25 => .op (.shri (field w 18 6) (field w 12 6) (field w 0 6))
  | 0x26 => .op (.srai (field w 18 6) (field w 12 6) (field w 0 6))
  | 0x28 => .op (.movi (field w 18 6) (field w 0 18))
  | 0x29 => .op (.movk (field w 18 6) (field w 0 18))
  | 0x30 => .op (.extr (field w 18 6) (field w 12 6) (field w 6 6) (field w 0 6))
  | 0x31 => .op (.depo (field w 18 6) (field w 12 6) (field w 6 6) (field w 0 6))
  | _ => .bad

/-- The vector slot word `w` (03 R65 to R70). -/
def decodeVector (w : Nat) : SlotOp :=
  match w / 2 ^ 25 % 128 with
  | 0 => .nop
  | 0x01 => .op (.vadd (field w 22 3) (field w 16 6) (field w 10 6) (field w 4 6) (field w 1 3) (field w 0 1))
  | 0x02 => .op (.vsub (field w 22 3) (field w 16 6) (field w 10 6) (field w 4 6) (field w 1 3) (field w 0 1))
  | 0x03 => .op (.vmul (field w 22 3) (field w 16 6) (field w 10 6) (field w 4 6) (field w 1 3) (field w 0 1))
  | 0x04 => .op (.vmulh (field w 22 3) (field w 16 6) (field w 10 6) (field w 4 6) (field w 1 3) (field w 0 1))
  | 0x05 => .op (.vmin (field w 22 3) (field w 16 6) (field w 10 6) (field w 4 6) (field w 1 3) (field w 0 1))
  | 0x06 => .op (.vmax (field w 22 3) (field w 16 6) (field w 10 6) (field w 4 6) (field w 1 3) (field w 0 1))
  | 0x07 => .op (.vabs (field w 22 3) (field w 16 6) (field w 10 6) (field w 1 3))
  | 0x08 => .op (.vand (field w 22 3) (field w 16 6) (field w 10 6) (field w 4 6) (field w 1 3) (field w 0 1))
  | 0x09 => .op (.vor (field w 22 3) (field w 16 6) (field w 10 6) (field w 4 6) (field w 1 3) (field w 0 1))
  | 0x0A => .op (.vxor (field w 22 3) (field w 16 6) (field w 10 6) (field w 4 6) (field w 1 3) (field w 0 1))
  | 0x0B => .op (.vandn (field w 22 3) (field w 16 6) (field w 10 6) (field w 4 6) (field w 1 3) (field w 0 1))
  | 0x0C => .op (.vshl (field w 22 3) (field w 16 6) (field w 10 6) (field w 4 6) (field w 1 3) (field w 0 1))
  | 0x0D => .op (.vshr (field w 22 3) (field w 16 6) (field w 10 6) (field w 4 6) (field w 1 3) (field w 0 1))
  | 0x0E => .op (.vsra (field w 22 3) (field w 16 6) (field w 10 6) (field w 4 6) (field w 1 3) (field w 0 1))
  | 0x0F => .op (.vrot (field w 22 3) (field w 16 6) (field w 10 6) (field w 4 6) (field w 1 3) (field w 0 1))
  | 0x10 => .op (.vpopc (field w 22 3) (field w 16 6) (field w 10 6) (field w 1 3))
  | 0x11 => .op (.vclz (field w 22 3) (field w 16 6) (field w 10 6) (field w 1 3))
  | 0x12 => .op (.vctz (field w 22 3) (field w 16 6) (field w 10 6) (field w 1 3))
  | 0x13 => .op (.vfnsb (field w 22 3) (field w 16 6) (field w 10 6) (field w 4 6) (field w 1 3))
  | 0x14 => .op (.vbrev (field w 22 3) (field w 16 6) (field w 10 6) (field w 1 3))
  | 0x18 => .op (.vcmp (field w 22 3) (field w 19 3) (field w 16 3) (field w 10 6) (field w 4 6) (field w 1 3) (field w 0 1))
  | 0x19 => .op (.vsel (field w 22 3) (field w 16 6) (field w 10 6) (field w 4 6) (field w 1 3))
  | 0x1A => .op (.vmov (field w 22 3) (field w 16 6) (field w 10 6) (field w 1 3))
  | 0x1B => .op (.vmovi (field w 22 3) (field w 16 6) (field w 0 16))
  | 0x1C => .op (.vbcast (field w 22 3) (field w 16 6) (field w 10 6) (field w 1 3))
  | 0x1D => .op (.vextr (field w 22 3) (field w 16 6) (field w 10 6) (field w 4 6) (field w 0 1))
  | 0x1E => .op (.vperm (field w 22 3) (field w 16 6) (field w 10 6) (field w 4 6) (field w 1 3))
  | 0x1F => .op (.xcl (field w 22 3) (field w 16 6) (field w 10 6) (field w 4 3) (field w 1 3))
  | 0x20 => .op (.vred (field w 22 3) (field w 16 6) (field w 10 6) (field w 4 3) (field w 1 3) (field w 0 1))
  | 0x28 => .op (.vfadd (field w 22 3) (field w 16 6) (field w 10 6) (field w 4 6) (field w 1 3))
  | 0x29 => .op (.vfsub (field w 22 3) (field w 16 6) (field w 10 6) (field w 4 6) (field w 1 3))
  | 0x2A => .op (.vfmul (field w 22 3) (field w 16 6) (field w 10 6) (field w 4 6) (field w 1 3))
  | 0x2B => .op (.vfma (field w 22 3) (field w 16 6) (field w 10 6) (field w 4 6) (field w 1 3))
  | 0x2C => .op (.vfmin (field w 22 3) (field w 16 6) (field w 10 6) (field w 4 6) (field w 1 3))
  | 0x2D => .op (.vfmax (field w 22 3) (field w 16 6) (field w 10 6) (field w 4 6) (field w 1 3))
  | 0x2E => .op (.vfneg (field w 22 3) (field w 16 6) (field w 10 6) (field w 1 3) (field w 0 1))
  | 0x2F => .op (.vfcmp (field w 22 3) (field w 19 3) (field w 16 3) (field w 10 6) (field w 4 6) (field w 1 3))
  | 0x38 => .op (.kand (field w 16 3) (field w 10 3) (field w 4 3))
  | 0x39 => .op (.kor (field w 16 3) (field w 10 3) (field w 4 3))
  | 0x3A => .op (.kxor (field w 16 3) (field w 10 3) (field w 4 3))
  | 0x3B => .op (.knot (field w 16 3) (field w 10 3))
  | 0x3C => .op (.kmov (field w 16 3) (field w 10 3))
  | _ => .bad

/-- The special slot word `w` (03 R65 to R70). -/
def decodeSpecial (w : Nat) : SlotOp :=
  match w / 2 ^ 26 % 64 with
  | 0 => .nop
  | 0x01 => .op (.fexp2 (field w 23 3) (field w 20 3) (field w 14 6) (field w 8 6) (field w 5 3) (field w 2 3))
  | 0x02 => .op (.flog2 (field w 23 3) (field w 20 3) (field w 14 6) (field w 8 6) (field w 5 3) (field w 2 3))
  | 0x03 => .op (.frcp (field w 23 3) (field w 20 3) (field w 14 6) (field w 8 6) (field w 5 3) (field w 2 3))
  | 0x04 => .op (.frsq (field w 23 3) (field w 20 3) (field w 14 6) (field w 8 6) (field w 5 3) (field w 2 3))
  | 0x05 => .op (.fsqrt (field w 23 3) (field w 20 3) (field w 14 6) (field w 8 6) (field w 5 3) (field w 2 3))
  | 0x06 => .op (.ftanh (field w 23 3) (field w 20 3) (field w 14 6) (field w 8 6) (field w 5 3) (field w 2 3))
  | 0x08 => .op (.fcvt (field w 23 3) (field w 20 3) (field w 14 6) (field w 8 6) (field w 5 3) (field w 2 3))
  | 0x09 => .op (.fbpk (field w 23 3) (field w 20 3) (field w 14 6) (field w 8 6) (field w 5 3) (field w 2 3))
  | 0x0A => .op (.fbunpk (field w 23 3) (field w 20 3) (field w 14 6) (field w 8 6) (field w 5 3) (field w 2 3))
  | 0x0B => .op (.fscl (field w 23 3) (field w 20 3) (field w 14 6) (field w 8 6) (field w 5 3) (field w 2 3))
  | 0x0C => .op (.frnd (field w 23 3) (field w 20 3) (field w 14 6) (field w 8 6) (field w 5 3) (field w 2 3))
  | 0x0D => .op (.bobpop (field w 14 6))
  | _ => .bad

/-- The memory slot word `w` (03 R65 to R70). -/
def decodeMemory (w : Nat) : SlotOp :=
  match w / 2 ^ 25 % 128 with
  | 0 => .nop
  | 0x01 => .op (.ldx (field w 16 6) (field w 10 6) (field w 0 10))
  | 0x02 => .op (.stx (field w 16 6) (field w 10 6) (field w 0 10))
  | 0x03 => .op (.ldxs (field w 22 3) (field w 16 6) (field w 10 6) (field w 0 10))
  | 0x04 => .op (.stxs (field w 22 3) (field w 16 6) (field w 10 6) (field w 0 10))
  | 0x05 => .op (.ldw (field w 16 6) (field w 10 6) (field w 0 10))
  | 0x06 => .op (.stw (field w 16 6) (field w 10 6) (field w 0 10))
  | 0x07 => .op (.lda (field w 16 6) (field w 12 4) (field w 6 6) (field w 0 6))
  | 0x08 => .op (.sta (field w 16 6) (field w 12 4) (field w 6 6) (field w 0 6))
  | 0x10 => .op (.ldg (field w 22 3) (field w 16 6) (field w 10 6) (field w 0 10))
  | 0x11 => .op (.stg (field w 22 3) (field w 16 6) (field w 10 6) (field w 0 10))
  | 0x12 => .op (.vldg (field w 16 6) (field w 10 6) (field w 0 10))
  | 0x13 => .op (.vstg (field w 16 6) (field w 10 6) (field w 0 10))
  | 0x14 => .op (.vgath (field w 22 3) (field w 16 6) (field w 10 6) (field w 4 6) (field w 1 3))
  | 0x15 => .op (.vscat (field w 22 3) (field w 16 6) (field w 10 6) (field w 4 6) (field w 1 3))
  | 0x18 => .op (.ldacq (field w 22 3) (field w 16 6) (field w 10 6) (field w 0 10))
  | 0x19 => .op (.strel (field w 22 3) (field w 16 6) (field w 10 6) (field w 0 10))
  | 0x20 => .op (.aadd (field w 16 6) (field w 10 6) (field w 4 6) (field w 1 3))
  | 0x21 => .op (.amin (field w 16 6) (field w 10 6) (field w 4 6) (field w 1 3))
  | 0x22 => .op (.amax (field w 16 6) (field w 10 6) (field w 4 6) (field w 1 3))
  | 0x23 => .op (.axchg (field w 16 6) (field w 10 6) (field w 4 6) (field w 1 3))
  | 0x24 => .op (.acas (field w 16 6) (field w 10 6) (field w 4 6) (field w 1 3))
  | 0x25 => .op (.afadd (field w 16 6) (field w 10 6) (field w 4 6) (field w 1 3))
  | 0x26 => .op (.chunk (field w 16 6) (field w 10 6) (field w 4 6) (field w 1 3))
  | 0x28 => .op (.ldblk (field w 16 6) (field w 10 6) (field w 4 6))
  | 0x29 => .op (.bufhold (field w 16 6) (field w 10 6) (field w 0 10))
  | 0x2A => .op (.buffree (field w 16 6) (field w 10 6) (field w 0 10))
  | 0x2B => .op (.scacc (field w 21 4) (field w 15 6) (field w 11 4) (field w 9 2) (field w 4 5) (field w 0 4))
  | _ => .bad

/-- The matrix slot word `w` (03 R65 to R70). -/
def decodeMatrix (w : Nat) : SlotOp :=
  match w / 2 ^ 26 % 64 with
  | 0 => .nop
  | 0x01 => if w / 2 ^ 19 % 2 = 0 then .op (.mxpushWstore (field w 20 6) (field w 10 6) (field w 0 6)) else .op (.mxpushStream (field w 20 6) (field w 8 2))
  | 0x02 => .op .mxflip
  | 0x03 => .op (.mxacc (field w 22 4) (field w 16 6) (field w 10 6) (field w 6 4) (field w 0 6))
  | 0x04 => .op (.mxbp (field w 22 4) (field w 20 2) (field w 19 1) (field w 10 6) (field w 7 3) (field w 6 1) (field w 0 6))
  | 0x05 => .op (.mxdrain (field w 22 4) (field w 16 6) (field w 10 6) (field w 6 4) (field w 0 6))
  | 0x06 => .op (.mxzero (field w 22 4) (field w 16 6) (field w 0 6))
  | 0x07 => .op (.mxhed (field w 24 2) (field w 23 1) (field w 10 6) (field w 4 6))
  | 0x08 => .op (.mxunpin (field w 24 2))
  | 0x09 => .op (.mxgang (field w 20 6) (field w 8 2) (field w 0 4))
  | _ => .bad

/-- The control slot word `w` (03 R65 to R70). -/
def decodeControl (w : Nat) : SlotOp :=
  match w / 2 ^ 24 % 256 with
  | 0 => .nop
  | 0x01 => .op (.br (field w 0 24))
  | 0x02 => .op (.jmpi (field w 18 6) (field w 12 6))
  | 0x03 => .op (.call (field w 0 24))
  | 0x04 => .op .ret
  | 0x05 => .op (.rep (field w 18 6) (field w 0 16))
  | 0x06 => .op (.yield (field w 18 6) (field w 0 18))
  | 0x07 => .op (.trap (field w 0 16))
  | 0x08 =>
    match w / 2 ^ 16 % 4 with
    | 0 => if w / 2 ^ 18 % 64 = 0 then .op .rett else .op (.rettResume (field w 18 6))
    | 1 => .op (.rettSkip (field w 18 6))
    | 2 => .op (.rettEnd (field w 18 6))
    | _ => .bad
  | 0x10 => .op (.copy (field w 18 6) (field w 12 6) (field w 6 6) (field w 0 6))
  | 0x11 => .op (.copych (field w 18 6) (field w 0 6))
  | 0x12 => .op (.copymc (field w 18 6) (field w 12 6) (field w 6 6) (field w 0 6))
  | 0x13 => .op (.cancel (field w 0 6))
  | 0x14 => .op (.waitany (field w 18 6) (field w 12 6))
  | 0x15 => .op (.waitall (field w 12 6))
  | 0x16 => .op (.ffrdy (field w 18 6) (field w 12 6))
  | 0x17 => .op (.tagclr (field w 12 6))
  | 0x18 => .op (.tagst (field w 18 6) (field w 0 6))
  | 0x20 => .op (.barinit (field w 18 6) (field w 12 6))
  | 0x21 => .op (.bararr (field w 18 6) (field w 12 6))
  | 0x22 => .op (.barwait (field w 18 6))
  | 0x23 => .op (.phase (field w 0 3))
  | 0x24 => .op .fence
  | 0x28 => .op (.subscr (field w 18 6) (field w 12 6) (field w 0 6))
  | 0x29 => .op (.slotwait (field w 18 6) (field w 0 6))
  | 0x2A => .op (.slotpop (field w 0 6))
  | 0x2B => .op (.slotdone (field w 0 6))
  | 0x2C => .op (.unsub (field w 18 6) (field w 0 6))
  | 0x30 => .op (.seqld (field w 18 6) (field w 6 6) (field w 0 6))
  | 0x31 => .op (.seqgo (field w 18 6) (field w 6 6))
  | 0x32 => .op .seqwait
  | 0x33 => .op (.gang (field w 18 6) (field w 12 6) (field w 6 6))
  | 0x38 => .op (.spawn (field w 18 6) (field w 12 6))
  | 0x39 => .op .taskend
  | 0x3A => .op .trigger
  | 0x3B => .op (.decide (field w 18 6) (field w 12 6))
  | 0x40 => .op (.pkadv (field w 18 6) (field w 0 16))
  | 0x41 => .op (.pkset (field w 18 6) (field w 0 16))
  | 0x42 => .op (.waitl (field w 18 6) (field w 0 16))
  | 0x48 => .op .held
  | 0x49 => .op (.commit (field w 0 3))
  | 0x4A => .op .squash
  | 0x4B => .op (.guard (field w 18 6) (field w 12 6))
  | 0x50 => .op (.symdecl (field w 18 6) (field w 2 16))
  | 0x51 => .op (.symrd (field w 18 6) (field w 14 4) (field w 12 2))
  | 0x52 => .op (.symgen (field w 18 6))
  | 0x58 => .op (.deadline (field w 18 6) (field w 0 16))
  | 0x59 => .op (.stepend (field w 18 6))
  | 0x60 => .op (.rdctl (field w 18 6) (field w 0 12))
  | 0x61 => .op (.wrctl (field w 12 6) (field w 0 12))
  | 0x62 => .op (.coll (field w 18 6) (field w 0 6))
  | _ => .bad

/-- A slot word read by its slot's class (02 R27). -/
def decodeSlot (c : SlotClass) (w : Nat) : SlotOp :=
  match c with
  | .scalar => decodeScalar w
  | .vector => decodeVector w
  | .special => decodeSpecial w
  | .memory => decodeMemory w
  | .matrix => decodeMatrix w
  | .control => decodeControl w

/-- The class of executable slot `i` (02 R26). -/
def slotClass (i : Nat) : SlotClass :=
  if i < 2 then .scalar else if i < 5 then .vector else if i = 5 then .special
  else if i < 8 then .memory else if i = 8 then .matrix else .control

/-- The first slot of a class. -/
def firstSlot (c : SlotClass) : Nat :=
  match c with
  | .scalar => 0 | .vector => 2 | .special => 5 | .memory => 6 | .matrix => 8 | .control => 9

/-- A word from its opcode and its fields, each a value at a bit. -/
def packWord (op : Nat) : List (Nat × Nat) → Nat
  | [] => op
  | (v, lo) :: fs => packWord (op + v * 2 ^ lo) fs

/-- The class and the word of an instruction, reserved bits zero; none for an event, which has no word. -/
def encode : Instr → Option (SlotClass × Nat)
  | .add d a b => some (.scalar, packWord 0x01000000 [(d.toNat, 18), (a.toNat, 12), (b.toNat, 6)])
  | .sub d a b => some (.scalar, packWord 0x02000000 [(d.toNat, 18), (a.toNat, 12), (b.toNat, 6)])
  | .mul d a b => some (.scalar, packWord 0x03000000 [(d.toNat, 18), (a.toNat, 12), (b.toNat, 6)])
  | .mulh d a b => some (.scalar, packWord 0x04000000 [(d.toNat, 18), (a.toNat, 12), (b.toNat, 6)])
  | .mulhu d a b => some (.scalar, packWord 0x05000000 [(d.toNat, 18), (a.toNat, 12), (b.toNat, 6)])
  | .divu d a b => some (.scalar, packWord 0x06000000 [(d.toNat, 18), (a.toNat, 12), (b.toNat, 6)])
  | .remu d a b => some (.scalar, packWord 0x07000000 [(d.toNat, 18), (a.toNat, 12), (b.toNat, 6)])
  | .and d a b => some (.scalar, packWord 0x08000000 [(d.toNat, 18), (a.toNat, 12), (b.toNat, 6)])
  | .or d a b => some (.scalar, packWord 0x09000000 [(d.toNat, 18), (a.toNat, 12), (b.toNat, 6)])
  | .xor d a b => some (.scalar, packWord 0x0A000000 [(d.toNat, 18), (a.toNat, 12), (b.toNat, 6)])
  | .shl d a b => some (.scalar, packWord 0x0B000000 [(d.toNat, 18), (a.toNat, 12), (b.toNat, 6)])
  | .shr d a b => some (.scalar, packWord 0x0C000000 [(d.toNat, 18), (a.toNat, 12), (b.toNat, 6)])
  | .sra d a b => some (.scalar, packWord 0x0D000000 [(d.toNat, 18), (a.toNat, 12), (b.toNat, 6)])
  | .min d a b => some (.scalar, packWord 0x0E000000 [(d.toNat, 18), (a.toNat, 12), (b.toNat, 6)])
  | .max d a b => some (.scalar, packWord 0x0F000000 [(d.toNat, 18), (a.toNat, 12), (b.toNat, 6)])
  | .minu d a b => some (.scalar, packWord 0x10000000 [(d.toNat, 18), (a.toNat, 12), (b.toNat, 6)])
  | .maxu d a b => some (.scalar, packWord 0x11000000 [(d.toNat, 18), (a.toNat, 12), (b.toNat, 6)])
  | .slt d a b => some (.scalar, packWord 0x12000000 [(d.toNat, 18), (a.toNat, 12), (b.toNat, 6)])
  | .sltu d a b => some (.scalar, packWord 0x13000000 [(d.toNat, 18), (a.toNat, 12), (b.toNat, 6)])
  | .seq d a b => some (.scalar, packWord 0x14000000 [(d.toNat, 18), (a.toNat, 12), (b.toNat, 6)])
  | .sel d c a b => some (.scalar, packWord 0x15000000 [(d.toNat, 18), (c.toNat, 12), (a.toNat, 6), (b.toNat, 0)])
  | .mov d a => some (.scalar, packWord 0x16000000 [(d.toNat, 18), (a.toNat, 12)])
  | .popc d a => some (.scalar, packWord 0x17000000 [(d.toNat, 18), (a.toNat, 12)])
  | .clz d a => some (.scalar, packWord 0x18000000 [(d.toNat, 18), (a.toNat, 12)])
  | .ctz d a => some (.scalar, packWord 0x19000000 [(d.toNat, 18), (a.toNat, 12)])
  | .fnsb d a b => some (.scalar, packWord 0x1A000000 [(d.toNat, 18), (a.toNat, 12), (b.toNat, 6)])
  | .brev d a => some (.scalar, packWord 0x1B000000 [(d.toNat, 18), (a.toNat, 12)])
  | .addi d a i => some (.scalar, packWord 0x20000000 [(d.toNat, 18), (a.toNat, 12), (i.toNat, 0)])
  | .andi d a i => some (.scalar, packWord 0x21000000 [(d.toNat, 18), (a.toNat, 12), (i.toNat, 0)])
  | .ori d a i => some (.scalar, packWord 0x22000000 [(d.toNat, 18), (a.toNat, 12), (i.toNat, 0)])
  | .xori d a i => some (.scalar, packWord 0x23000000 [(d.toNat, 18), (a.toNat, 12), (i.toNat, 0)])
  | .shli d a n => some (.scalar, packWord 0x24000000 [(d.toNat, 18), (a.toNat, 12), (n.toNat, 0)])
  | .shri d a n => some (.scalar, packWord 0x25000000 [(d.toNat, 18), (a.toNat, 12), (n.toNat, 0)])
  | .srai d a n => some (.scalar, packWord 0x26000000 [(d.toNat, 18), (a.toNat, 12), (n.toNat, 0)])
  | .movi d i => some (.scalar, packWord 0x28000000 [(d.toNat, 18), (i.toNat, 0)])
  | .movk d i => some (.scalar, packWord 0x29000000 [(d.toNat, 18), (i.toNat, 0)])
  | .extr d a p l => some (.scalar, packWord 0x30000000 [(d.toNat, 18), (a.toNat, 12), (p.toNat, 6), (l.toNat, 0)])
  | .depo d a p l => some (.scalar, packWord 0x31000000 [(d.toNat, 18), (a.toNat, 12), (p.toNat, 6), (l.toNat, 0)])
  | .vadd t d a b k s => some (.vector, packWord 0x02000000 [(t.toNat, 22), (d.toNat, 16), (a.toNat, 10), (b.toNat, 4), (k.toNat, 1), (s.toNat, 0)])
  | .vsub t d a b k s => some (.vector, packWord 0x04000000 [(t.toNat, 22), (d.toNat, 16), (a.toNat, 10), (b.toNat, 4), (k.toNat, 1), (s.toNat, 0)])
  | .vmul t d a b k s => some (.vector, packWord 0x06000000 [(t.toNat, 22), (d.toNat, 16), (a.toNat, 10), (b.toNat, 4), (k.toNat, 1), (s.toNat, 0)])
  | .vmulh t d a b k s => some (.vector, packWord 0x08000000 [(t.toNat, 22), (d.toNat, 16), (a.toNat, 10), (b.toNat, 4), (k.toNat, 1), (s.toNat, 0)])
  | .vmin t d a b k s => some (.vector, packWord 0x0A000000 [(t.toNat, 22), (d.toNat, 16), (a.toNat, 10), (b.toNat, 4), (k.toNat, 1), (s.toNat, 0)])
  | .vmax t d a b k s => some (.vector, packWord 0x0C000000 [(t.toNat, 22), (d.toNat, 16), (a.toNat, 10), (b.toNat, 4), (k.toNat, 1), (s.toNat, 0)])
  | .vabs t d a k => some (.vector, packWord 0x0E000000 [(t.toNat, 22), (d.toNat, 16), (a.toNat, 10), (k.toNat, 1)])
  | .vand t d a b k s => some (.vector, packWord 0x10000000 [(t.toNat, 22), (d.toNat, 16), (a.toNat, 10), (b.toNat, 4), (k.toNat, 1), (s.toNat, 0)])
  | .vor t d a b k s => some (.vector, packWord 0x12000000 [(t.toNat, 22), (d.toNat, 16), (a.toNat, 10), (b.toNat, 4), (k.toNat, 1), (s.toNat, 0)])
  | .vxor t d a b k s => some (.vector, packWord 0x14000000 [(t.toNat, 22), (d.toNat, 16), (a.toNat, 10), (b.toNat, 4), (k.toNat, 1), (s.toNat, 0)])
  | .vandn t d a b k s => some (.vector, packWord 0x16000000 [(t.toNat, 22), (d.toNat, 16), (a.toNat, 10), (b.toNat, 4), (k.toNat, 1), (s.toNat, 0)])
  | .vshl t d a b k s => some (.vector, packWord 0x18000000 [(t.toNat, 22), (d.toNat, 16), (a.toNat, 10), (b.toNat, 4), (k.toNat, 1), (s.toNat, 0)])
  | .vshr t d a b k s => some (.vector, packWord 0x1A000000 [(t.toNat, 22), (d.toNat, 16), (a.toNat, 10), (b.toNat, 4), (k.toNat, 1), (s.toNat, 0)])
  | .vsra t d a b k s => some (.vector, packWord 0x1C000000 [(t.toNat, 22), (d.toNat, 16), (a.toNat, 10), (b.toNat, 4), (k.toNat, 1), (s.toNat, 0)])
  | .vrot t d a b k s => some (.vector, packWord 0x1E000000 [(t.toNat, 22), (d.toNat, 16), (a.toNat, 10), (b.toNat, 4), (k.toNat, 1), (s.toNat, 0)])
  | .vpopc t d a k => some (.vector, packWord 0x20000000 [(t.toNat, 22), (d.toNat, 16), (a.toNat, 10), (k.toNat, 1)])
  | .vclz t d a k => some (.vector, packWord 0x22000000 [(t.toNat, 22), (d.toNat, 16), (a.toNat, 10), (k.toNat, 1)])
  | .vctz t d a k => some (.vector, packWord 0x24000000 [(t.toNat, 22), (d.toNat, 16), (a.toNat, 10), (k.toNat, 1)])
  | .vfnsb t d a b k => some (.vector, packWord 0x26000000 [(t.toNat, 22), (d.toNat, 16), (a.toNat, 10), (b.toNat, 4), (k.toNat, 1)])
  | .vbrev t d a k => some (.vector, packWord 0x28000000 [(t.toNat, 22), (d.toNat, 16), (a.toNat, 10), (k.toNat, 1)])
  | .vcmp t e r a b k s => some (.vector, packWord 0x30000000 [(t.toNat, 22), (e.toNat, 19), (r.toNat, 16), (a.toNat, 10), (b.toNat, 4), (k.toNat, 1), (s.toNat, 0)])
  | .vsel t d a b k => some (.vector, packWord 0x32000000 [(t.toNat, 22), (d.toNat, 16), (a.toNat, 10), (b.toNat, 4), (k.toNat, 1)])
  | .vmov t d a k => some (.vector, packWord 0x34000000 [(t.toNat, 22), (d.toNat, 16), (a.toNat, 10), (k.toNat, 1)])
  | .vmovi t d i => some (.vector, packWord 0x36000000 [(t.toNat, 22), (d.toNat, 16), (i.toNat, 0)])
  | .vbcast t d a k => some (.vector, packWord 0x38000000 [(t.toNat, 22), (d.toNat, 16), (a.toNat, 10), (k.toNat, 1)])
  | .vextr t d a i j => some (.vector, packWord 0x3A000000 [(t.toNat, 22), (d.toNat, 16), (a.toNat, 10), (i.toNat, 4), (j.toNat, 0)])
  | .vperm t d a b k => some (.vector, packWord 0x3C000000 [(t.toNat, 22), (d.toNat, 16), (a.toNat, 10), (b.toNat, 4), (k.toNat, 1)])
  | .xcl t d a n k => some (.vector, packWord 0x3E000000 [(t.toNat, 22), (d.toNat, 16), (a.toNat, 10), (n.toNat, 4), (k.toNat, 1)])
  | .vred t d a o k s => some (.vector, packWord 0x40000000 [(t.toNat, 22), (d.toNat, 16), (a.toNat, 10), (o.toNat, 4), (k.toNat, 1), (s.toNat, 0)])
  | .vfadd t d a b k => some (.vector, packWord 0x50000000 [(t.toNat, 22), (d.toNat, 16), (a.toNat, 10), (b.toNat, 4), (k.toNat, 1)])
  | .vfsub t d a b k => some (.vector, packWord 0x52000000 [(t.toNat, 22), (d.toNat, 16), (a.toNat, 10), (b.toNat, 4), (k.toNat, 1)])
  | .vfmul t d a b k => some (.vector, packWord 0x54000000 [(t.toNat, 22), (d.toNat, 16), (a.toNat, 10), (b.toNat, 4), (k.toNat, 1)])
  | .vfma t d a b k => some (.vector, packWord 0x56000000 [(t.toNat, 22), (d.toNat, 16), (a.toNat, 10), (b.toNat, 4), (k.toNat, 1)])
  | .vfmin t d a b k => some (.vector, packWord 0x58000000 [(t.toNat, 22), (d.toNat, 16), (a.toNat, 10), (b.toNat, 4), (k.toNat, 1)])
  | .vfmax t d a b k => some (.vector, packWord 0x5A000000 [(t.toNat, 22), (d.toNat, 16), (a.toNat, 10), (b.toNat, 4), (k.toNat, 1)])
  | .vfneg t d a k s => some (.vector, packWord 0x5C000000 [(t.toNat, 22), (d.toNat, 16), (a.toNat, 10), (k.toNat, 1), (s.toNat, 0)])
  | .vfcmp t e r a b k => some (.vector, packWord 0x5E000000 [(t.toNat, 22), (e.toNat, 19), (r.toNat, 16), (a.toNat, 10), (b.toNat, 4), (k.toNat, 1)])
  | .kand d a b => some (.vector, packWord 0x70000000 [(d.toNat, 16), (a.toNat, 10), (b.toNat, 4)])
  | .kor d a b => some (.vector, packWord 0x72000000 [(d.toNat, 16), (a.toNat, 10), (b.toNat, 4)])
  | .kxor d a b => some (.vector, packWord 0x74000000 [(d.toNat, 16), (a.toNat, 10), (b.toNat, 4)])
  | .knot d a => some (.vector, packWord 0x76000000 [(d.toNat, 16), (a.toNat, 10)])
  | .kmov d a => some (.vector, packWord 0x78000000 [(d.toNat, 16), (a.toNat, 10)])
  | .fexp2 i o d a k r => some (.special, packWord 0x04000000 [(i.toNat, 23), (o.toNat, 20), (d.toNat, 14), (a.toNat, 8), (k.toNat, 5), (r.toNat, 2)])
  | .flog2 i o d a k r => some (.special, packWord 0x08000000 [(i.toNat, 23), (o.toNat, 20), (d.toNat, 14), (a.toNat, 8), (k.toNat, 5), (r.toNat, 2)])
  | .frcp i o d a k r => some (.special, packWord 0x0C000000 [(i.toNat, 23), (o.toNat, 20), (d.toNat, 14), (a.toNat, 8), (k.toNat, 5), (r.toNat, 2)])
  | .frsq i o d a k r => some (.special, packWord 0x10000000 [(i.toNat, 23), (o.toNat, 20), (d.toNat, 14), (a.toNat, 8), (k.toNat, 5), (r.toNat, 2)])
  | .fsqrt i o d a k r => some (.special, packWord 0x14000000 [(i.toNat, 23), (o.toNat, 20), (d.toNat, 14), (a.toNat, 8), (k.toNat, 5), (r.toNat, 2)])
  | .ftanh i o d a k r => some (.special, packWord 0x18000000 [(i.toNat, 23), (o.toNat, 20), (d.toNat, 14), (a.toNat, 8), (k.toNat, 5), (r.toNat, 2)])
  | .fcvt i o d a k r => some (.special, packWord 0x20000000 [(i.toNat, 23), (o.toNat, 20), (d.toNat, 14), (a.toNat, 8), (k.toNat, 5), (r.toNat, 2)])
  | .fbpk i m d a k r => some (.special, packWord 0x24000000 [(i.toNat, 23), (m.toNat, 20), (d.toNat, 14), (a.toNat, 8), (k.toNat, 5), (r.toNat, 2)])
  | .fbunpk o m d a k r => some (.special, packWord 0x28000000 [(o.toNat, 23), (m.toNat, 20), (d.toNat, 14), (a.toNat, 8), (k.toNat, 5), (r.toNat, 2)])
  | .fscl i o d a k r => some (.special, packWord 0x2C000000 [(i.toNat, 23), (o.toNat, 20), (d.toNat, 14), (a.toNat, 8), (k.toNat, 5), (r.toNat, 2)])
  | .frnd i o d a k r => some (.special, packWord 0x30000000 [(i.toNat, 23), (o.toNat, 20), (d.toNat, 14), (a.toNat, 8), (k.toNat, 5), (r.toNat, 2)])
  | .bobpop d => some (.special, packWord 0x34000000 [(d.toNat, 14)])
  | .ldx v b o => some (.memory, packWord 0x02000000 [(v.toNat, 16), (b.toNat, 10), (o.toNat, 0)])
  | .stx v b o => some (.memory, packWord 0x04000000 [(v.toNat, 16), (b.toNat, 10), (o.toNat, 0)])
  | .ldxs z d b o => some (.memory, packWord 0x06000000 [(z.toNat, 22), (d.toNat, 16), (b.toNat, 10), (o.toNat, 0)])
  | .stxs z d b o => some (.memory, packWord 0x08000000 [(z.toNat, 22), (d.toNat, 16), (b.toNat, 10), (o.toNat, 0)])
  | .ldw v b o => some (.memory, packWord 0x0A000000 [(v.toNat, 16), (b.toNat, 10), (o.toNat, 0)])
  | .stw v b o => some (.memory, packWord 0x0C000000 [(v.toNat, 16), (b.toNat, 10), (o.toNat, 0)])
  | .lda v k r i => some (.memory, packWord 0x0E000000 [(v.toNat, 16), (k.toNat, 12), (r.toNat, 6), (i.toNat, 0)])
  | .sta v k r i => some (.memory, packWord 0x10000000 [(v.toNat, 16), (k.toNat, 12), (r.toNat, 6), (i.toNat, 0)])
  | .ldg z d b o => some (.memory, packWord 0x20000000 [(z.toNat, 22), (d.toNat, 16), (b.toNat, 10), (o.toNat, 0)])
  | .stg z d b o => some (.memory, packWord 0x22000000 [(z.toNat, 22), (d.toNat, 16), (b.toNat, 10), (o.toNat, 0)])
  | .vldg v b o => some (.memory, packWord 0x24000000 [(v.toNat, 16), (b.toNat, 10), (o.toNat, 0)])
  | .vstg v b o => some (.memory, packWord 0x26000000 [(v.toNat, 16), (b.toNat, 10), (o.toNat, 0)])
  | .vgath z v b i k => some (.memory, packWord 0x28000000 [(z.toNat, 22), (v.toNat, 16), (b.toNat, 10), (i.toNat, 4), (k.toNat, 1)])
  | .vscat z v b i k => some (.memory, packWord 0x2A000000 [(z.toNat, 22), (v.toNat, 16), (b.toNat, 10), (i.toNat, 4), (k.toNat, 1)])
  | .ldacq s d b o => some (.memory, packWord 0x30000000 [(s.toNat, 22), (d.toNat, 16), (b.toNat, 10), (o.toNat, 0)])
  | .strel s d b o => some (.memory, packWord 0x32000000 [(s.toNat, 22), (d.toNat, 16), (b.toNat, 10), (o.toNat, 0)])
  | .aadd d b v s => some (.memory, packWord 0x40000000 [(d.toNat, 16), (b.toNat, 10), (v.toNat, 4), (s.toNat, 1)])
  | .amin d b v s => some (.memory, packWord 0x42000000 [(d.toNat, 16), (b.toNat, 10), (v.toNat, 4), (s.toNat, 1)])
  | .amax d b v s => some (.memory, packWord 0x44000000 [(d.toNat, 16), (b.toNat, 10), (v.toNat, 4), (s.toNat, 1)])
  | .axchg d b v s => some (.memory, packWord 0x46000000 [(d.toNat, 16), (b.toNat, 10), (v.toNat, 4), (s.toNat, 1)])
  | .acas d b v s => some (.memory, packWord 0x48000000 [(d.toNat, 16), (b.toNat, 10), (v.toNat, 4), (s.toNat, 1)])
  | .afadd d b v s => some (.memory, packWord 0x4A000000 [(d.toNat, 16), (b.toNat, 10), (v.toNat, 4), (s.toNat, 1)])
  | .chunk d b v s => some (.memory, packWord 0x4C000000 [(d.toNat, 16), (b.toNat, 10), (v.toNat, 4), (s.toNat, 1)])
  | .ldblk n b t => some (.memory, packWord 0x50000000 [(n.toNat, 16), (b.toNat, 10), (t.toNat, 4)])
  | .bufhold n b o => some (.memory, packWord 0x52000000 [(n.toNat, 16), (b.toNat, 10), (o.toNat, 0)])
  | .buffree n b o => some (.memory, packWord 0x54000000 [(n.toNat, 16), (b.toNat, 10), (o.toNat, 0)])
  | .scacc d r s g e c => some (.memory, packWord 0x56000000 [(d.toNat, 21), (r.toNat, 15), (s.toNat, 11), (g.toNat, 9), (e.toNat, 4), (c.toNat, 0)])
  | .mxpushWstore q a o => some (.matrix, packWord 0x04000000 [(q.toNat, 20), (a.toNat, 10), (o.toNat, 0)])
  | .mxpushStream q h => some (.matrix, packWord 0x04080000 [(q.toNat, 20), (h.toNat, 8)])
  | .mxflip => some (.matrix, packWord 0x08000000 [])
  | .mxacc b r a f o => some (.matrix, packWord 0x0C000000 [(b.toNat, 22), (r.toNat, 16), (a.toNat, 10), (f.toNat, 6), (o.toNat, 0)])
  | .mxbp b g n a p h o => some (.matrix, packWord 0x10000000 [(b.toNat, 22), (g.toNat, 20), (n.toNat, 19), (a.toNat, 10), (p.toNat, 7), (h.toNat, 6), (o.toNat, 0)])
  | .mxdrain b r a f o => some (.matrix, packWord 0x14000000 [(b.toNat, 22), (r.toNat, 16), (a.toNat, 10), (f.toNat, 6), (o.toNat, 0)])
  | .mxzero b r c => some (.matrix, packWord 0x18000000 [(b.toNat, 22), (r.toNat, 16), (c.toNat, 0)])
  | .mxhed h k a c => some (.matrix, packWord 0x1C000000 [(h.toNat, 24), (k.toNat, 23), (a.toNat, 10), (c.toNat, 4)])
  | .mxunpin h => some (.matrix, packWord 0x20000000 [(h.toNat, 24)])
  | .mxgang q h m => some (.matrix, packWord 0x24000000 [(q.toNat, 20), (h.toNat, 8), (m.toNat, 0)])
  | .br o => some (.control, packWord 0x01000000 [(o.toNat, 0)])
  | .jmpi a d => some (.control, packWord 0x02000000 [(a.toNat, 18), (d.toNat, 12)])
  | .call o => some (.control, packWord 0x03000000 [(o.toNat, 0)])
  | .ret => some (.control, packWord 0x04000000 [])
  | .rep a i => some (.control, packWord 0x05000000 [(a.toNat, 18), (i.toNat, 0)])
  | .yield a i => some (.control, packWord 0x06000000 [(a.toNat, 18), (i.toNat, 0)])
  | .trap i => some (.control, packWord 0x07000000 [(i.toNat, 0)])
  | .rett => some (.control, packWord 0x08000000 [])
  | .rettResume a => some (.control, packWord 0x08000000 [(a.toNat, 18)])
  | .rettSkip a => some (.control, packWord 0x08010000 [(a.toNat, 18)])
  | .rettEnd a => some (.control, packWord 0x08020000 [(a.toNat, 18)])
  | .copy d s n t => some (.control, packWord 0x10000000 [(d.toNat, 18), (s.toNat, 12), (n.toNat, 6), (t.toNat, 0)])
  | .copych h t => some (.control, packWord 0x11000000 [(h.toNat, 18), (t.toNat, 0)])
  | .copymc a n q t => some (.control, packWord 0x12000000 [(a.toNat, 18), (n.toNat, 12), (q.toNat, 6), (t.toNat, 0)])
  | .cancel t => some (.control, packWord 0x13000000 [(t.toNat, 0)])
  | .waitany d m => some (.control, packWord 0x14000000 [(d.toNat, 18), (m.toNat, 12)])
  | .waitall m => some (.control, packWord 0x15000000 [(m.toNat, 12)])
  | .ffrdy d m => some (.control, packWord 0x16000000 [(d.toNat, 18), (m.toNat, 12)])
  | .tagclr m => some (.control, packWord 0x17000000 [(m.toNat, 12)])
  | .tagst d t => some (.control, packWord 0x18000000 [(d.toNat, 18), (t.toNat, 0)])
  | .barinit b e => some (.control, packWord 0x20000000 [(b.toNat, 18), (e.toNat, 12)])
  | .bararr b n => some (.control, packWord 0x21000000 [(b.toNat, 18), (n.toNat, 12)])
  | .barwait b => some (.control, packWord 0x22000000 [(b.toNat, 18)])
  | .phase s => some (.control, packWord 0x23000000 [(s.toNat, 0)])
  | .fence => some (.control, packWord 0x24000000 [])
  | .subscr a s h => some (.control, packWord 0x28000000 [(a.toNat, 18), (s.toNat, 12), (h.toNat, 0)])
  | .slotwait d h => some (.control, packWord 0x29000000 [(d.toNat, 18), (h.toNat, 0)])
  | .slotpop h => some (.control, packWord 0x2A000000 [(h.toNat, 0)])
  | .slotdone h => some (.control, packWord 0x2B000000 [(h.toNat, 0)])
  | .unsub d h => some (.control, packWord 0x2C000000 [(d.toNat, 18), (h.toNat, 0)])
  | .seqld a n t => some (.control, packWord 0x30000000 [(a.toNat, 18), (n.toNat, 6), (t.toNat, 0)])
  | .seqgo a s => some (.control, packWord 0x31000000 [(a.toNat, 18), (s.toNat, 6)])
  | .seqwait => some (.control, packWord 0x32000000 [])
  | .gang a m s => some (.control, packWord 0x33000000 [(a.toNat, 18), (m.toNat, 12), (s.toNat, 6)])
  | .spawn d a => some (.control, packWord 0x38000000 [(d.toNat, 18), (a.toNat, 12)])
  | .taskend => some (.control, packWord 0x39000000 [])
  | .trigger => some (.control, packWord 0x3A000000 [])
  | .decide b c => some (.control, packWord 0x3B000000 [(b.toNat, 18), (c.toNat, 12)])
  | .pkadv a i => some (.control, packWord 0x40000000 [(a.toNat, 18), (i.toNat, 0)])
  | .pkset a i => some (.control, packWord 0x41000000 [(a.toNat, 18), (i.toNat, 0)])
  | .waitl a i => some (.control, packWord 0x42000000 [(a.toNat, 18), (i.toNat, 0)])
  | .held => some (.control, packWord 0x48000000 [])
  | .commit s => some (.control, packWord 0x49000000 [(s.toNat, 0)])
  | .squash => some (.control, packWord 0x4A000000 [])
  | .guard d a => some (.control, packWord 0x4B000000 [(d.toNat, 18), (a.toNat, 12)])
  | .symdecl a m => some (.control, packWord 0x50000000 [(a.toNat, 18), (m.toNat, 2)])
  | .symrd d k w => some (.control, packWord 0x51000000 [(d.toNat, 18), (k.toNat, 14), (w.toNat, 12)])
  | .symgen d => some (.control, packWord 0x52000000 [(d.toNat, 18)])
  | .deadline a c => some (.control, packWord 0x58000000 [(a.toNat, 18), (c.toNat, 0)])
  | .stepend d => some (.control, packWord 0x59000000 [(d.toNat, 18)])
  | .rdctl d n => some (.control, packWord 0x60000000 [(d.toNat, 18), (n.toNat, 0)])
  | .wrctl a n => some (.control, packWord 0x61000000 [(a.toNat, 12), (n.toNat, 0)])
  | .coll a t => some (.control, packWord 0x62000000 [(a.toNat, 18), (t.toNat, 0)])
  | .bundleIssue _ => none
  | .yieldWake _ => none
  | .waitTimeout _ => none
  | .barrierTimeout _ => none
  | .globalLoadReturn _ _ _ => none
  | .atomicPerformed _ _ _ => none
  | .publication _ => none
  | .forcedSnapshotBoundary _ => none
  | .copyComplete _ _ => none
  | .chainRecord _ _ => none
  | .cancelAcknowledge _ _ => none
  | .multicastPieceLanding _ _ _ => none
  | .loadBlockFill _ _ _ => none
  | .shuttleFill _ _ => none
  | .shuttlePull _ _ => none
  | .heddleRowArrival _ _ => none
  | .deckLoadComplete _ _ => none
  | .cardVisit _ => none
  | .cardStep _ => none
  | .cardCopyRequest _ => none
  | .collComplete _ _ _ => none
  | .spawnComplete _ => none
  | .dispatch _ _ => none
  | .ringRefill _ => none
  | .contextSave _ => none
  | .resumption _ _ => none
  | .streamTailRead _ => none
  | .launchPacket _ => none
  | .waitsemPacket _ => none
  | .sigsemPacket _ => none
  | .patchPacket _ => none
  | .replayPacket _ => none
  | .fencePacket _ => none
  | .replayComplete _ => none
  | .shootDownComplete _ => none
  | .refreshInterval _ => none
  | .perBankRefresh _ => none
  | .allBankRefresh _ => none
  | .bobbinPauseEnd _ => none
  | .governorEpoch _ _ => none
  | .clockChange _ _ => none
  | .clockSwitchPauseEnd _ => none
  | .deadlineRisk _ _ => none
  | .ballastBundle _ => none
  | .watchdogExpiry => none
  | .dieGate _ => none
  | .ungateComplete _ => none
  | .handoverTimeout => none
  | .ownershipLapse => none
  | .tracePostExpiry _ => none
  | .checkpoint _ => none
  | .fixedLatencyWriteback _ => none
  | .dump _ _ => none
  | .translationWalk _ _ _ _ => none
  | .shootDown _ _ _ _ => none
  | .temperatureRead _ _ => none
  | .patrolScrub _ _ _ => none
  | .sliceScrub _ _ _ => none
  | .bobbinPush _ => none
  | .bobbinHealthFailure _ => none
  | .hostEntryChoice _ _ => none
  | .columnTrimTick _ _ => none
  | .marginAlarm _ _ => none
  | .currentLimit _ _ => none
  | .thermalTrip _ => none
  | .thermalRecovery _ => none
  | .dieUngate _ => none
  | .shrink _ _ => none
  | .grow _ _ => none
  | .packageReset _ _ => none
  | .ownershipClaim _ _ => none
  | .ownerHandover _ _ => none
  | .handoverAcceptance _ => none
  | .controlWindowWrite _ _ _ _ => none
  | .masterRelease _ _ => none
  | .partitionStart _ _ => none
  | .partitionStop _ _ => none
  | .traceStart _ _ _ => none
  | .traceStop _ _ => none
  | .attestation _ => none
  | .firmwareUpdate _ _ => none
  | .hostOrPeerRequest _ _ _ _ => none
  | .translationMemoryEdit _ _ _ _ => none
  | .currentBelowLimit _ _ => none

/-- A row's shape for `decodeTableWord`: the opcode table's own mask and match, the number of bits the mask fixes, and
the class that reads the row. -/
structure TableRow where
  cls : SlotClass
  mask : Nat
  value : Nat
  fixed : Nat
deriving DecidableEq, Repr


def tableRowsScalar : List TableRow := [
  ⟨.scalar, 0xFF00003F, 0x01000000, 14⟩,
  ⟨.scalar, 0xFF00003F, 0x02000000, 14⟩,
  ⟨.scalar, 0xFF00003F, 0x03000000, 14⟩,
  ⟨.scalar, 0xFF00003F, 0x04000000, 14⟩,
  ⟨.scalar, 0xFF00003F, 0x05000000, 14⟩,
  ⟨.scalar, 0xFF00003F, 0x06000000, 14⟩,
  ⟨.scalar, 0xFF00003F, 0x07000000, 14⟩,
  ⟨.scalar, 0xFF00003F, 0x08000000, 14⟩,
  ⟨.scalar, 0xFF00003F, 0x09000000, 14⟩,
  ⟨.scalar, 0xFF00003F, 0x0A000000, 14⟩,
  ⟨.scalar, 0xFF00003F, 0x0B000000, 14⟩,
  ⟨.scalar, 0xFF00003F, 0x0C000000, 14⟩,
  ⟨.scalar, 0xFF00003F, 0x0D000000, 14⟩,
  ⟨.scalar, 0xFF00003F, 0x0E000000, 14⟩,
  ⟨.scalar, 0xFF00003F, 0x0F000000, 14⟩,
  ⟨.scalar, 0xFF00003F, 0x10000000, 14⟩,
  ⟨.scalar, 0xFF00003F, 0x11000000, 14⟩,
  ⟨.scalar, 0xFF00003F, 0x12000000, 14⟩,
  ⟨.scalar, 0xFF00003F, 0x13000000, 14⟩,
  ⟨.scalar, 0xFF00003F, 0x14000000, 14⟩,
  ⟨.scalar, 0xFF000000, 0x15000000, 8⟩,
  ⟨.scalar, 0xFF000FFF, 0x16000000, 20⟩,
  ⟨.scalar, 0xFF000FFF, 0x17000000, 20⟩,
  ⟨.scalar, 0xFF000FFF, 0x18000000, 20⟩,
  ⟨.scalar, 0xFF000FFF, 0x19000000, 20⟩,
  ⟨.scalar, 0xFF00003F, 0x1A000000, 14⟩,
  ⟨.scalar, 0xFF000FFF, 0x1B000000, 20⟩,
  ⟨.scalar, 0xFF000000, 0x20000000, 8⟩,
  ⟨.scalar, 0xFF000000, 0x21000000, 8⟩,
  ⟨.scalar, 0xFF000000, 0x22000000, 8⟩,
  ⟨.scalar, 0xFF000000, 0x23000000, 8⟩,
  ⟨.scalar, 0xFF000FC0, 0x24000000, 14⟩,
  ⟨.scalar, 0xFF000FC0, 0x25000000, 14⟩,
  ⟨.scalar, 0xFF000FC0, 0x26000000, 14⟩,
  ⟨.scalar, 0xFF000000, 0x28000000, 8⟩,
  ⟨.scalar, 0xFF000000, 0x29000000, 8⟩,
  ⟨.scalar, 0xFF000000, 0x30000000, 8⟩,
  ⟨.scalar, 0xFF000000, 0x31000000, 8⟩]

def tableRowsVector : List TableRow := [
  ⟨.vector, 0xFE000000, 0x02000000, 7⟩,
  ⟨.vector, 0xFE000000, 0x04000000, 7⟩,
  ⟨.vector, 0xFE000000, 0x06000000, 7⟩,
  ⟨.vector, 0xFE000000, 0x08000000, 7⟩,
  ⟨.vector, 0xFE000000, 0x0A000000, 7⟩,
  ⟨.vector, 0xFE000000, 0x0C000000, 7⟩,
  ⟨.vector, 0xFE0003F1, 0x0E000000, 14⟩,
  ⟨.vector, 0xFE000000, 0x10000000, 7⟩,
  ⟨.vector, 0xFE000000, 0x12000000, 7⟩,
  ⟨.vector, 0xFE000000, 0x14000000, 7⟩,
  ⟨.vector, 0xFE000000, 0x16000000, 7⟩,
  ⟨.vector, 0xFE000000, 0x18000000, 7⟩,
  ⟨.vector, 0xFE000000, 0x1A000000, 7⟩,
  ⟨.vector, 0xFE000000, 0x1C000000, 7⟩,
  ⟨.vector, 0xFE000000, 0x1E000000, 7⟩,
  ⟨.vector, 0xFE0003F1, 0x20000000, 14⟩,
  ⟨.vector, 0xFE0003F1, 0x22000000, 14⟩,
  ⟨.vector, 0xFE0003F1, 0x24000000, 14⟩,
  ⟨.vector, 0xFE000001, 0x26000000, 8⟩,
  ⟨.vector, 0xFE0003F1, 0x28000000, 14⟩,
  ⟨.vector, 0xFE000000, 0x30000000, 7⟩,
  ⟨.vector, 0xFE000001, 0x32000000, 8⟩,
  ⟨.vector, 0xFE0003F1, 0x34000000, 14⟩,
  ⟨.vector, 0xFE000000, 0x36000000, 7⟩,
  ⟨.vector, 0xFE0003F1, 0x38000000, 14⟩,
  ⟨.vector, 0xFE00000E, 0x3A000000, 10⟩,
  ⟨.vector, 0xFE000001, 0x3C000000, 8⟩,
  ⟨.vector, 0xFE000381, 0x3E000000, 11⟩,
  ⟨.vector, 0xFE000380, 0x40000000, 10⟩,
  ⟨.vector, 0xFE000001, 0x50000000, 8⟩,
  ⟨.vector, 0xFE000001, 0x52000000, 8⟩,
  ⟨.vector, 0xFE000001, 0x54000000, 8⟩,
  ⟨.vector, 0xFE000001, 0x56000000, 8⟩,
  ⟨.vector, 0xFE000001, 0x58000000, 8⟩,
  ⟨.vector, 0xFE000001, 0x5A000000, 8⟩,
  ⟨.vector, 0xFE0003F0, 0x5C000000, 13⟩,
  ⟨.vector, 0xFE000001, 0x5E000000, 8⟩,
  ⟨.vector, 0xFFF8E38F, 0x70000000, 23⟩,
  ⟨.vector, 0xFFF8E38F, 0x72000000, 23⟩,
  ⟨.vector, 0xFFF8E38F, 0x74000000, 23⟩,
  ⟨.vector, 0xFFF8E3FF, 0x76000000, 26⟩,
  ⟨.vector, 0xFFF8E3FF, 0x78000000, 26⟩]

def tableRowsSpecial : List TableRow := [
  ⟨.special, 0xFC000003, 0x04000000, 8⟩,
  ⟨.special, 0xFC000003, 0x08000000, 8⟩,
  ⟨.special, 0xFC000003, 0x0C000000, 8⟩,
  ⟨.special, 0xFC000003, 0x10000000, 8⟩,
  ⟨.special, 0xFC000003, 0x14000000, 8⟩,
  ⟨.special, 0xFC000003, 0x18000000, 8⟩,
  ⟨.special, 0xFC000003, 0x20000000, 8⟩,
  ⟨.special, 0xFC000003, 0x24000000, 8⟩,
  ⟨.special, 0xFC000003, 0x28000000, 8⟩,
  ⟨.special, 0xFC000003, 0x2C000000, 8⟩,
  ⟨.special, 0xFC000003, 0x30000000, 8⟩,
  ⟨.special, 0xFFF03FFF, 0x34000000, 26⟩]

def tableRowsMemory : List TableRow := [
  ⟨.memory, 0xFFC00000, 0x02000000, 10⟩,
  ⟨.memory, 0xFFC00000, 0x04000000, 10⟩,
  ⟨.memory, 0xFE000000, 0x06000000, 7⟩,
  ⟨.memory, 0xFE000000, 0x08000000, 7⟩,
  ⟨.memory, 0xFFC00000, 0x0A000000, 10⟩,
  ⟨.memory, 0xFFC00000, 0x0C000000, 10⟩,
  ⟨.memory, 0xFFC00000, 0x0E000000, 10⟩,
  ⟨.memory, 0xFFC00000, 0x10000000, 10⟩,
  ⟨.memory, 0xFE000000, 0x20000000, 7⟩,
  ⟨.memory, 0xFE000000, 0x22000000, 7⟩,
  ⟨.memory, 0xFFC00000, 0x24000000, 10⟩,
  ⟨.memory, 0xFFC00000, 0x26000000, 10⟩,
  ⟨.memory, 0xFE000001, 0x28000000, 8⟩,
  ⟨.memory, 0xFE000001, 0x2A000000, 8⟩,
  ⟨.memory, 0xFE000000, 0x30000000, 7⟩,
  ⟨.memory, 0xFE000000, 0x32000000, 7⟩,
  ⟨.memory, 0xFFC00001, 0x40000000, 11⟩,
  ⟨.memory, 0xFFC00001, 0x42000000, 11⟩,
  ⟨.memory, 0xFFC00001, 0x44000000, 11⟩,
  ⟨.memory, 0xFFC00001, 0x46000000, 11⟩,
  ⟨.memory, 0xFFC00001, 0x48000000, 11⟩,
  ⟨.memory, 0xFFC00001, 0x4A000000, 11⟩,
  ⟨.memory, 0xFFC00001, 0x4C000000, 11⟩,
  ⟨.memory, 0xFFC0000F, 0x50000000, 14⟩,
  ⟨.memory, 0xFFC00000, 0x52000000, 10⟩,
  ⟨.memory, 0xFFC00000, 0x54000000, 10⟩,
  ⟨.memory, 0xFE000000, 0x56000000, 7⟩]

def tableRowsMatrix : List TableRow := [
  ⟨.matrix, 0xFC0F03C0, 0x04000000, 14⟩,
  ⟨.matrix, 0xFC0FFCFF, 0x04080000, 24⟩,
  ⟨.matrix, 0xFFFFFFFF, 0x08000000, 32⟩,
  ⟨.matrix, 0xFC000000, 0x0C000000, 6⟩,
  ⟨.matrix, 0xFC070000, 0x10000000, 9⟩,
  ⟨.matrix, 0xFC000000, 0x14000000, 6⟩,
  ⟨.matrix, 0xFC00FFC0, 0x18000000, 16⟩,
  ⟨.matrix, 0xFC7F000F, 0x1C000000, 17⟩,
  ⟨.matrix, 0xFCFFFFFF, 0x20000000, 30⟩,
  ⟨.matrix, 0xFC0FFCF0, 0x24000000, 20⟩]

def tableRowsControl : List TableRow := [
  ⟨.control, 0xFF000000, 0x01000000, 8⟩,
  ⟨.control, 0xFF000FFF, 0x02000000, 20⟩,
  ⟨.control, 0xFF000000, 0x03000000, 8⟩,
  ⟨.control, 0xFFFFFFFF, 0x04000000, 32⟩,
  ⟨.control, 0xFF030000, 0x05000000, 10⟩,
  ⟨.control, 0xFF000000, 0x06000000, 8⟩,
  ⟨.control, 0xFFFF0000, 0x07000000, 16⟩,
  ⟨.control, 0xFFFFFFFF, 0x08000000, 32⟩,
  ⟨.control, 0xFF03FFFF, 0x08000000, 26⟩,
  ⟨.control, 0xFF03FFFF, 0x08010000, 26⟩,
  ⟨.control, 0xFF03FFFF, 0x08020000, 26⟩,
  ⟨.control, 0xFF000000, 0x10000000, 8⟩,
  ⟨.control, 0xFF03FFC0, 0x11000000, 20⟩,
  ⟨.control, 0xFF000000, 0x12000000, 8⟩,
  ⟨.control, 0xFFFFFFC0, 0x13000000, 26⟩,
  ⟨.control, 0xFF000FFF, 0x14000000, 20⟩,
  ⟨.control, 0xFFFC0FFF, 0x15000000, 26⟩,
  ⟨.control, 0xFF000FFF, 0x16000000, 20⟩,
  ⟨.control, 0xFFFC0FFF, 0x17000000, 26⟩,
  ⟨.control, 0xFF03FFC0, 0x18000000, 20⟩,
  ⟨.control, 0xFF000FFF, 0x20000000, 20⟩,
  ⟨.control, 0xFF000FFF, 0x21000000, 20⟩,
  ⟨.control, 0xFF03FFFF, 0x22000000, 26⟩,
  ⟨.control, 0xFFFFFFF8, 0x23000000, 29⟩,
  ⟨.control, 0xFFFFFFFF, 0x24000000, 32⟩,
  ⟨.control, 0xFF000FC0, 0x28000000, 14⟩,
  ⟨.control, 0xFF03FFC0, 0x29000000, 20⟩,
  ⟨.control, 0xFFFFFFC0, 0x2A000000, 26⟩,
  ⟨.control, 0xFFFFFFC0, 0x2B000000, 26⟩,
  ⟨.control, 0xFF03FFC0, 0x2C000000, 20⟩,
  ⟨.control, 0xFF03F000, 0x30000000, 14⟩,
  ⟨.control, 0xFF03F03F, 0x31000000, 20⟩,
  ⟨.control, 0xFFFFFFFF, 0x32000000, 32⟩,
  ⟨.control, 0xFF00003F, 0x33000000, 14⟩,
  ⟨.control, 0xFF000FFF, 0x38000000, 20⟩,
  ⟨.control, 0xFFFFFFFF, 0x39000000, 32⟩,
  ⟨.control, 0xFFFFFFFF, 0x3A000000, 32⟩,
  ⟨.control, 0xFF000FFF, 0x3B000000, 20⟩,
  ⟨.control, 0xFF030000, 0x40000000, 10⟩,
  ⟨.control, 0xFF030000, 0x41000000, 10⟩,
  ⟨.control, 0xFF030000, 0x42000000, 10⟩,
  ⟨.control, 0xFFFFFFFF, 0x48000000, 32⟩,
  ⟨.control, 0xFFFFFFF8, 0x49000000, 29⟩,
  ⟨.control, 0xFFFFFFFF, 0x4A000000, 32⟩,
  ⟨.control, 0xFF000FFF, 0x4B000000, 20⟩,
  ⟨.control, 0xFF000003, 0x50000000, 10⟩,
  ⟨.control, 0xFF000FFF, 0x51000000, 20⟩,
  ⟨.control, 0xFF03FFFF, 0x52000000, 26⟩,
  ⟨.control, 0xFF030000, 0x58000000, 10⟩,
  ⟨.control, 0xFF03FFFF, 0x59000000, 26⟩,
  ⟨.control, 0xFF03F000, 0x60000000, 14⟩,
  ⟨.control, 0xFFFC0000, 0x61000000, 14⟩,
  ⟨.control, 0xFF03FFC0, 0x62000000, 20⟩]

/-- Of the rows whose fixed bits `w` holds, the class of the one that fixes the most bits (the first such in the
order S, V, F, M, X, C). A bare 32-bit word names no slot, and the classes share opcode numbers (02 R27). -/
def bestRow (w : Nat) : List TableRow → Option TableRow → Option TableRow
  | [], best => best
  | r :: rs, best =>
    if Nat.land w r.mask = r.value then
      match best with
      | none => bestRow w rs (some r)
      | some b => if b.fixed < r.fixed then bestRow w rs (some r) else bestRow w rs (some b)
    else bestRow w rs best

/-- The class in whose slot a bare word of the opcode table is read. -/
def tableClass (w : Nat) : Option SlotClass :=
  ((((((none |> bestRow w tableRowsScalar) |> bestRow w tableRowsVector) |> bestRow w tableRowsSpecial)
    |> bestRow w tableRowsMemory) |> bestRow w tableRowsMatrix) |> bestRow w tableRowsControl).map (·.cls)

/-- The instruction the decoder reads from a 32-bit row of the opcode table. -/
def decodeTableWord (nbits w : Nat) : Option Instr :=
  if nbits = 32 ∧ w < 2 ^ 32 then
    match tableClass w with
    | some c =>
      match decodeSlot c w with
      | .op i => some i
      | _ => none
    | none => none
  else none

/-- The kinds of bundles; 3 to 15 are reserved (02 R28). -/
inductive BundleKind where
  | plain | tree | marker | reserved
deriving DecidableEq, Repr

/-- One test field of a tree header (02 R31). -/
structure TreeTest where
  reg : BitVec 6
  rel : BitVec 4
deriving DecidableEq, Repr

/-- A decoded bundle (02 R25 to R34): `words` are its sixteen words, `lend` and `path` one entry a slot. -/
structure Bundle where
  kind : BundleKind
  stall : Nat
  sym : Bool
  symidx : Nat
  symoff : Nat
  ew : Nat
  yieldFlag : Bool
  shape : Nat
  tests : List TreeTest
  words : List Nat
  slots : List SlotOp
  lend : List (BitVec 8)
  path : List Nat
  b0 : Nat
  b1 : Nat
deriving DecidableEq, Repr

/-- Word `i` of a bundle. -/
def wordOf (ws : List Nat) (i : Nat) : Nat := ws.getD i 0

/-- The header as a number, bit 0 of word 0 lowest (02 R25). -/
def headerOf (ws : List Nat) : Nat :=
  wordOf ws 0 + wordOf ws 1 * 2 ^ 32 + wordOf ws 2 * 2 ^ 64 + wordOf ws 3 * 2 ^ 96

/-- Bits [hi:lo] of a header. -/
def headerBits (h hi lo : Nat) : Nat := h / 2 ^ lo % 2 ^ (hi + 1 - lo)

def bundleKind (n : Nat) : BundleKind :=
  match n with
  | 0 => .plain | 1 => .tree | 2 => .marker | _ => .reserved

/-- The lend byte of slot `i`; a tree bundle lends none (02 R30). -/
def lendOf (kind : BundleKind) (h i : Nat) : BitVec 8 :=
  match kind with
  | .tree => 0
  | _ => BitVec.ofNat 8 (h / 2 ^ (90 - 8 * i))

/-- The test field at header bits [lo + 9 : lo] (02 R31). -/
def treeTest (h lo : Nat) : TreeTest := ⟨field h (lo + 4) 6, field h lo 4⟩

/-- Decodes sixteen words (02 R53, step 1). -/
def decodeBundle (ws : List Nat) : Bundle :=
  let h := headerOf ws
  let kind := bundleKind (headerBits h 127 124)
  { kind := kind
    stall := headerBits h 123 118
    sym := headerBits h 117 117 = 1
    symidx := headerBits h 116 113
    symoff := headerBits h 112 109
    ew := headerBits h 108 101
    yieldFlag := headerBits h 100 100 = 1
    shape := headerBits h 57 55
    tests := [treeTest h 88, treeTest h 78, treeTest h 68, treeTest h 58]
    words := ws
    slots := (List.range 10).map fun i => decodeSlot (slotClass i) (wordOf ws (4 + i))
    lend := (List.range 10).map fun i => lendOf kind h i
    path := (List.range 10).map fun i =>
      match kind with
      | .tree => headerBits h (54 - 5 * i) (50 - 5 * i)
      | _ => 31
    b0 := wordOf ws 14
    b1 := wordOf ws 15 }

/-- The sixteen words of a plain bundle that holds one slot word and no other operation. -/
def oneSlotWords (slot w : Nat) : List Nat :=
  (List.range 16).map fun i => if i = 4 + slot then w else 0

/-- The value of a widened signed field of width `n` (03 R56). -/
def lendImm (f n : Nat) (e : BitVec 8) : Int :=
  let top := f / 2 ^ (n - 1) % 2
  let hi := if top = 1 then 255 - e.toNat else e.toNat
  let v := hi * 2 ^ n + f
  if v < 2 ^ (n + 7) then (v : Int) else (v : Int) - 2 ^ (n + 8)

/-- The 64-bit image of an integer. -/
def ofInt (x : Int) : BitVec 64 := BitVec.ofInt 64 x

/-- The four bytes of a word, lowest first (00 R5). -/
def bytesLE (n v : Nat) : List (BitVec 8) :=
  (List.range n).map fun i => BitVec.ofNat 8 (v / 2 ^ (8 * i))

/-- The number that bytes hold, lowest first (00 R5). -/
def ofBytesLE : List (BitVec 8) → Nat
  | [] => 0
  | b :: bs => b.toNat + 256 * ofBytesLE bs

end Sys2Proof
end

