-- ==== Sys2Proof/Machine/State.lean ====
section
/-! DEFINITION. The state of a QN-9 package as plain data, its outcome types and the state after reset.
Units that come in numbers (contexts, cores, dies, channels, partitions) are sparse tables: a unit that is not listed
has its reset value. A context is named by x = 8 × package core number + context number. Memories are canonical lists of
cells: rising addresses, no zero byte listed. -/

namespace Sys2Proof.Machine

/-- No meaning of this model faults: the spec gives every slot operation and event an effect or a trap. The type has one
constructor because the host asks for a closed inductive; nothing raises it, and that is safe. -/
inductive Fault where
  /-- Raised by no meaning (safe). -/
  | never
deriving DecidableEq, Repr

/-- Refusals. -/
inductive Refusal where
  /-- Raised by an arm of `exec` that has no meaning yet; no arm of this model raises it (safe). -/
  | notModelled (mnemonic : String)
deriving DecidableEq, Repr

/-- Bytes by address, in canonical form (see `Memory.wf` in Ops). -/
abbrev Memory := List Host.Cell

/-- The states of a context (04 R88). -/
inductive Phase where
  | free | eligible | running | waiting | stopped | saved
deriving DecidableEq, Repr

/-- How a trap that stops is delivered (14 R284). -/
inductive Delivery where
  | bundle | precise | deferred | boundary
deriving DecidableEq, Repr

/-- A trap with the contents of its record (14 R285). -/
structure Trap where
  code : Nat
  slot : Nat
  fa : BitVec 64
  info : BitVec 64
  delivery : Delivery
deriving DecidableEq, Repr

/-- An exact binary number m × 2^e. -/
structure Dyadic where
  m : Int
  e : Int
deriving DecidableEq, Repr

/-- What one beat adds to one accumulator word (07 R173): a NaN, infinities, the exact sum, and whether every product
is minus zero. -/
structure BeatTerm where
  nan : Bool
  pinf : Bool
  ninf : Bool
  sum : Dyadic
  negZero : Bool
deriving DecidableEq, Repr

/-- A fixed-latency result on its way (02 R38). Vector registers, masks and scalars are of the issuing context; the other
results are of the core; `freeRows` leaves undefined rows, by free-value number (09 R229). -/
inductive Write where
  | scalar (r : Nat) (v : BitVec 64)
  | vector (r : Nat) (mask : BitVec 1024) (data : BitVec 8192)
  | mask (r : Nat) (bits data : BitVec 1024)
  | ctl (num : Nat) (v : BitVec 64)
  | beat (row : Nat) (cols : List BeatTerm)
  | plane (bank group nb : Nat) (rows : List (List Int))
  | scaled (row : Nat) (cols : List Dyadic)
  | rows (row : Nat) (data : List (BitVec 2048))
  | zeroRows (bank row cnt : Nat)
  | freeRows (row n k : Nat)
  | xstore (parts : List (Nat × List (BitVec 8)))
  | wstore (parts : List (Nat × List (BitVec 8)))
  | shadow (q : Nat) (row : BitVec 1024) (poison : BitVec 4)
  | flip
  | inUse (g0 n : Nat) (on : Bool) (holder : Nat)
deriving DecidableEq, Repr

/-- One scheduled landing: its cycle, its issue order on the core, its context, the flags it ORs into ctl.fpf. -/
structure Landing where
  cycle : Nat
  seq : Nat
  ctx : Nat
  flags : BitVec 5
  what : Write
deriving DecidableEq, Repr

/-- Where an unpublished write of a context stands: the store buffer; as a private version, a version way or the spill area
(`strays` those of an engine's writes in the area); or a held buffer (12 R266, R268, R274, 17 R330, 22 R383). -/
inductive WriteHome where
  | buffer | spilled | area | engine | strays | held
deriving DecidableEq, Repr

/-- Bytes of one 128-byte line: its physical and virtual line addresses, the mask, the data, and the poison of its four
sectors as an engine wrote them (08 R182, R193). -/
structure LineWrite where
  home : WriteHome
  line : Nat
  vline : Nat
  mask : BitVec 128
  data : BitVec 1024
  poison : BitVec 4
deriving DecidableEq, Repr

/-- What follows a publication: a snapshot (phase), the rest of a taskend, a trigger or a commit, or a guard's result
(12 R278, 16 R316, R317, 17 R331, R337); or the posted update of a barrier in global memory that takes its place: a barinit or
a bararr, by the barrier's virtual and physical address and its operand; or a decide, by its winner and its object (10 R246,
12 R265, 17 R334). -/
inductive After where
  | nothing | snap | ending | trigger | commit
  | guard (d : Nat)
  | arm (va pa n : Nat)
  | arrive (va pa n : Nat)
  | decide (w va pa : Nat)
deriving DecidableEq, Repr

/-- A publication that waits (12 R266, R271, R280): its scope, its lines, the doubleword of a strel, whether its versions
carry a release, whether the context waits for it, what follows it, and the number of accesses issued before it. -/
structure Pending where
  scope : Nat
  lines : List LineWrite
  word : Option Nat
  release : Bool
  blocks : Bool
  after : After
  seq : Nat
deriving DecidableEq, Repr

/-- One place of the epoch order at which a version is visible: the epoch, the scope and its instance (12 R265, R267). -/
structure Visible where
  eo : Nat
  scope : Nat
  unit : Nat
deriving DecidableEq, Repr

/-- A release whose sequence a version belongs to (12 R272, R273): its place in the epoch order, its scope, its core, the
versions that happen before it, the scope instances of the read-modify-writes since, and the bytes of the version that carry it;
every one where none are named. -/
structure Release where
  eo : Nat
  scope : Nat
  core : Nat
  knows : List Nat
  via : List (Nat × Nat)
  bytes : Option (List Nat)
deriving DecidableEq, Repr

/-- A published version of bytes of a line: its first epoch, its writer by serial number (0 for hardware and hosts), where
it is visible, the releases it carries, and for each byte its address and the byte before it (12 R271). The bytes now are
in memory. -/
structure Version where
  eo : Nat
  writer : Nat
  seen : List Visible
  rels : List Release
  old : List (Nat × BitVec 8)
deriving DecidableEq, Repr

/-- The read-modify-writes of 12 R281 and 16 R323, and ldacq (12 R280). -/
inductive HomeOp where
  | add | min | max | xchg | cas | fadd | chunk | acquire
deriving DecidableEq, Repr

/-- One piece of an access: n bytes at a virtual address, its physical address, and its place in the register. -/
structure Piece where
  va : Nat
  n : Nat
  pa : Nat
  off : Nat
deriving DecidableEq, Repr

/-- A global access in flight (02 R40, 08 R189 to R191, 12 R279), or a spawn. A load carries its pieces, its size code
(7 for a vector, 8 for a spawn, 9 for symdecl's records), its result, fixed at issue by the snapshot (a spawn's is the
handle), and the first byte its context's own writes hold poisoned; a home operation is performed when it arrives. `order` is
the fence count at issue. -/
structure MemOp where
  id : Nat
  home : Option HomeOp
  scope : Nat
  dest : Nat
  va : Nat
  pa : Nat
  sectors : List Nat
  vas : List Nat
  pieces : List Piece
  size : Nat
  ownBad : Option Nat
  mask : BitVec 1024
  value : BitVec 8192
  operand : BitVec 64
  compare : BitVec 64
  issued : Nat
  slot : Nat
  order : Nat
  chunked : Bool
deriving DecidableEq, Repr

/-- An arrival tag (10 R231 to R234). -/
structure Tag where
  ready : Bool
  st : Nat
  pend : Nat
  fa : BitVec 64
deriving DecidableEq, Repr

/-- A latency symbol (19 R342, R343); `src` 0 is undeclared. -/
structure Symbol where
  min : Nat
  max : Nat
  src : Nat
  win : Nat
  pol : Nat
  window : List Nat
  b : Nat
  db : Nat
  floor : Option Nat
  request : Bool
deriving DecidableEq, Repr

/-- Who ends a context's held mode (17 R330, R331). -/
inductive Governor where
  | held | decision | pair
deriving DecidableEq, Repr

/-- A held buffer in use (17 R330): governor, lines, and what a decision has made of its task: the winner, or of a saved
task the loser (17 R334, R338). -/
structure HeldMode where
  gov : Governor
  lines : List LineWrite
  decided : Option Bool
deriving DecidableEq, Repr

/-- The operand latch of one undone slot (14 R286): values by designator, and the fetched word with its lend byte. -/
structure Latched where
  slot : Nat
  regs : List (Nat × BitVec 8192)
deriving DecidableEq, Repr

/-- A stop of a context: its delivery, the bundle it stopped in, the slots done, and what completes it (14 R286, R293).
`rep`, `repSet` and `jumped` are what the committed C slot gave the continuation (02 R46, R47). `before` is there when the
bundle had issued and a breakpoint stopped it (23 R401): its draft start and draft time before that issue, and `syms` its
symbols and their generation before its cut (19 R350). -/
structure Stop where
  delivery : Delivery
  words : List Nat
  pc : BitVec 58
  done : BitVec 10
  leaf : Nat
  latch : List Latched
  deferred : Option MemOp
  skipWhole : Bool
  skipSlots : BitVec 10
  rep : Option Nat
  repSet : Option Nat
  jumped : Bool
  before : Option (Bool × Nat)
  syms : Option (Tab Symbol × BitVec 64)
deriving DecidableEq, Repr

/-- A shadow entry (14 R296): the result and its offset from the save. -/
structure Shadow where
  offset : Nat
  landing : Landing
deriving DecidableEq, Repr

/-- A pending fixed-latency write in draft time (02 R41), or a scheduled accumulator writeback (02 R51). -/
structure DraftWrite where
  reg : Nat
  lands : Nat
deriving DecidableEq, Repr

/-- The task a context runs (16 R304, R308, 14 R289); of a pick, with its weft's stage table (17 R324). -/
structure Task where
  part : Nat
  slot : Nat
  gen : Nat
  tmpl : Nat
  handler : Bool
  stab : Nat
deriving DecidableEq, Repr

/-- The memory side of a context (12). `me` is its serial number as a writer, kept over saves; `carry` holds the versions
that happen before its next event, those its reads returned among them, each with the number of the next free value as it
came, which tells the snapshots opened since (12 R266, R269). `holding` holds, for each other context whose publication this
one's snapshot holds back, the cycle of that context's core from which it has, and `kept` the lines of which a version is
retained for this context's own snapshot, with whether it stands in a version way (12 R271). `landed` holds the global writes of engine
operations that have landed and are not joined yet, and `engineReads` the versions such operations read, each with its
completion object (12 R274): tag t as t, card copies of tag t as 128 + t, slot j of ring h as 256 + 64 h + j; those of
operations forked in held mode at 2,048 more. `entering` is there while the context waits for the held buffer with which
its task starts or resumes (17 R330). -/
structure CtxMem where
  me : Nat
  view : Option Nat
  snap : Nat
  unpub : List LineWrite
  landed : List (Nat × LineWrite)
  engineReads : List (Nat × Nat)
  pubs : List Pending
  carry : Tab Nat
  holding : Tab Nat
  kept : List (Nat × Bool)
  ops : List MemOp
  nextId : Nat
  fences : Nat
  held : Option HeldMode
  entering : Option HeldMode
deriving DecidableEq, Repr

/-- What a waiting bundle waits for: its stall cause, the trap of its timeout (0 for none, 0x17, or 0x0B at a barrier
with the barrier's address), and the phase a barwait read first (10 R242, R246). -/
structure WaitFor where
  cause : Nat
  timed : Nat
  addr : BitVec 64
  phase : Option Bool
deriving DecidableEq, Repr

/-- The issue side of a context (02 R35 to R41, 04 R88, R103). `saving` is set while a save is under way: whether the
context is saved alone (14 R295, R299); `behind` holds the contexts of its core that were eligible at its level when it woke
from a yield and have not been served since (04 R103). `ending` says that the last publication of its task has been made, and
the task ends when it is served next (04 R88, 16 R316). -/
structure CtxIssue where
  phase : Phase
  fresh : Bool
  pred : Nat
  sleepUntil : Option Nat
  waitFrom : Option Nat
  waitLimit : Nat
  wait : Option WaitFor
  dtime : Nat
  started : Bool
  board : List DraftWrite
  backs : List DraftWrite
  icyc : Nat
  elapsed : Nat
  firstCyc : Option Nat
  cause : Nat
  saving : Option Bool
  behind : List Nat
  ending : Bool
deriving DecidableEq, Repr

/-- The trap side of a context (14); `stopTime` is package time at its last stop (14 R289), and `shadows` are the results
that a save under way has diverted (14 R295, R296). `failed` holds the failed accesses with their pending traps (14 R293);
`served` says that the boundary the context is at has delivered a pending trap (14 R287), and `owed` holds the issues that the
bundle a light trap interrupted still owes, with whether its first is among them (02 R47; log entry 68). `redo` is there
while a snapshot that the context takes waits for its earlier publications and atomics, with the failed access that it then
performs again (12 R265, R270, R271, 14 R293). -/
structure CtxTrap where
  pending : List Trap
  stop : Option Stop
  rerun : Option Stop
  lightInfo : BitVec 64
  riskInfo : BitVec 64
  boundPending : Bool
  failed : List (Trap × MemOp)
  stopTime : BitVec 64
  shadows : List Shadow
  served : Bool
  owed : Option (Nat × Bool)
  redo : Option (Option MemOp)
deriving DecidableEq, Repr

/-- A hardware context (04 R86). `k` holds k1 to k7, cluster c at bits 128c; `ctl` holds the control registers that are
not computed, by number, at their reset value where not listed. -/
structure Ctx where
  pc : BitVec 58
  s : Tab (BitVec 64)
  k : Tab (BitVec 1024)
  blocks : List Nat
  ctl : Tab (BitVec 64)
  tags : Tab Tag
  syms : Tab Symbol
  symgen : BitVec 64
  iss : CtxIssue
  mem : CtxMem
  trap : CtxTrap
  task : Option Task
deriving DecidableEq, Repr

/-- The stores and the array of a core (08 R175, R181, R194, 09 R200). The check code of a sector that is not good is kept
by sector number: 1 poisoned, 2 a single-bit error, 3 uncorrectable (08 R181); those of pool register i at 32 i. -/
structure CoreStore where
  pool : Tab (BitVec 8192)
  xstore : Memory
  wstore : Memory
  xpoison : Memory
  wpoison : Memory
  acc : Tab (BitVec 2048)
  accPoison : Memory
  counts : Tab Nat
  shadow : Tab (BitVec 1024)
  active : Tab (BitVec 1024)
  shadowPoison : Memory
  activePoison : Memory
  vpoison : Memory
  inUse : BitVec 192
  holders : Tab Nat
deriving DecidableEq, Repr

/-- The progress of a multicast landing in one receiver (10 R250, R251, 11 R260): bytes landed, granules accepted and
refused, whether the last arrival met an armed barrier, the cycle of the last piece (08 R176), and the sectors of the next
piece that have landed (08 R197). -/
structure Landed where
  done : Nat
  accepted : List Nat
  refused : List Nat
  armed : Option Bool
  last : Option Nat
  sectors : List Nat
deriving DecidableEq, Repr

/-- What an engine operation of the copy channel does (10, 21 R373). -/
inductive EngineKind where
  | copy (dst src len : Nat)
  | chain (record : Nat)
  | multicast (base len mask boff : Nat) (at_ : BitVec 64) (landed : Tab Landed)
  | deck (addr n : Nat)
  | block (base lines : Nat)
  | coll (desc : Nat)
deriving DecidableEq, Repr

/-- An engine operation in flight (12 R274): its forking context, tag, view, the epoch and the issuer's own writes at the fork,
the data it read at the fork with the offsets that came from poisoned sectors, whether it was forked in held mode, its
worst status so far, whether a cancel is asked, and its start. `reads` lists the versions its reads returned; `started` says
that the current record of a chain has been read, and `sectors` lists the destination sectors of the current move, counted
from its first, that have landed (08 R197). `stores` holds, for a chain, the local stores of the quad as they stood at the
fork, with what the chain itself has landed in them since (08 R196). `knows` lists the versions that happen before it, and
`result` holds, for a collective that lands in a local store, its skew and the pieces that it lands: address, bytes and the
offsets of poisoned ones; 65,536 j + i stands in `sectors` for sector i of piece j (08 R197, 21 R373). -/
structure EngineOp where
  id : Nat
  ctx : Nat
  tag : Nat
  kind : EngineKind
  data : List (BitVec 8)
  poison : List Nat
  view : Option Nat
  snap : Nat
  eo : Nat
  own : List LineWrite
  held : Bool
  status : Nat
  fa : BitVec 64
  cancel : Bool
  issued : Nat
  fromCard : Bool
  reads : List Nat
  started : Bool
  sectors : List Nat
  stores : Tab CoreStore
  knows : List Nat
  result : Option (Nat × List (Nat × List (BitVec 8) × List Nat))
deriving DecidableEq, Repr

/-- A heddle stream (09 R213 to R217): its rows as the fork read them, with their lines; `pos` rows have been taken,
`arrived` rows have arrived, and `asked` holds the times of the requests that have not. `cold` lists the lines that come from memory at their first
row, `loose` the lines that found
the 8 ways of their set taken and are delivered unpinned (22 R382). -/
structure Stream where
  opened : Bool
  base : Nat
  count : Nat
  stride : Int
  keep : Bool
  pos : Nat
  arrived : Nat
  asked : List Nat
  rows : List (BitVec 1024 × BitVec 4)
  lines : List Nat
  loose : List Nat
  cold : List Nat
  owner : Nat
deriving DecidableEq, Repr

/-- A shuttle ring (10 R255 to R259). `head` counts the tiles consumed or produced by the program, `moved` the tiles
filled or pulled. `freed` is when a slot was freed; view, eo, own and held are the fork's; `queued` holds the done slots of
an output ring as they stood at their slotdone, with the offsets of poisoned sectors; `filling` holds the tile that an input
ring is landing and `sectors` its sectors that have landed (08 R197). -/
structure Ring where
  owner : Option Nat
  base : Nat
  wstore : Bool
  output : Bool
  count : Nat
  ssize : Nat
  recAddr : Nat
  read : Bool
  vbase : Nat
  rstride : Int
  tstride : Int
  rowb : Nat
  rows : Nat
  tiles : Nat
  head : Nat
  moved : Nat
  poisoned : List Nat
  failed : Option (Nat × Nat × BitVec 64)
  worst : Nat
  freed : Tab Nat
  view : Option Nat
  snap : Nat
  eo : Nat
  own : List LineWrite
  held : Bool
  queued : List (List (BitVec 8) × List Nat)
  filling : Option (List (BitVec 8) × List Nat)
  sectors : List Nat
deriving DecidableEq, Repr

/-- The card sequencer (09 R218 to R229): the card store, the running deck and its counters; `stepDone` and `copied` say
what of the current visit is done, `drained` and `lastDrain` what its drains wrote and when the last one lands, and `fin`
that this member of a gang has finished. `copyWait` is the cycle from which its card's copy has waited for an entry of the
copy channel (10 R236). -/
structure Sequencer where
  cards : List (BitVec 512)
  usable : Bool
  loading : Option Nat
  loader : Nat
  running : Bool
  owner : Nat
  a : Tab (BitVec 32)
  c : Tab (BitVec 16)
  card : Nat
  stepDone : Bool
  copied : Bool
  selv : BitVec 64
  gang : Nat
  leader : Nat
  boff : Nat
  drained : Nat
  lastDrain : Nat
  fin : Bool
  visits : Nat
  halted : Bool
  savePending : Bool
  notBefore : Nat
  copyWait : Option Nat
deriving DecidableEq, Repr

/-- What the bundle issued in a cycle leaves to the card sequencer (09 R222): whether its X slot is occupied, its store
accesses, the banks it accesses, and whether its C slot holds a copy, copych, copymc or cancel. -/
structure Used where
  x : Bool
  xst : Nat
  wst : Nat
  banks : List Nat
  copy : Bool
deriving DecidableEq, Repr

/-- A trace entry (23 R392). -/
structure TraceEntry where
  pc : Nat
  ctx : Nat
  valid : BitVec 10
  done : BitVec 10
  cause : Nat
  seq : Bool
  ballast : Bool
  ccyc : Nat
  drift : Option Int
deriving DecidableEq, Repr

/-- The issue unit of a core (04 R89, 21 R359 to R361, 23 R394, R400). `tried` is the cycle for which the unit has done
its choice, `lastIssue` the cycle of the last issue and `last` its trace entry; `backs` holds the writebacks scheduled in
actual time, by landing cycle and bank (02 R51); `used` is what the bundle issued at `lastIssue` left, `dampCyc` the cycle of the last damping stall (21 R359). -/
structure CoreIssue where
  running : Option Nat
  heldSince : Nat
  served : Tab Nat
  tried : Option Nat
  lastIssue : Option Nat
  last : Option TraceEntry
  ballastCyc : Option Nat
  backs : List (Nat × Nat)
  used : Used
  weights : List (Nat × Nat)
  profile : Nat
  slew : Nat
  breaks : Tab (BitVec 64)
  events : Tab Nat
  seq : Nat
  stepCyc : Option Nat
  copyCyc : Option Nat
  dampCyc : Option Nat
deriving DecidableEq, Repr

/-- A core (01 R18). `arriving` holds the completion arrivals of gangs: cycle, barrier, bytes and owner (09 R228). `joins` holds, for
a barrier in its X-store, the versions that happen before a barwait which joins the engine operations it counted (10 R246). -/
structure Core where
  st : CoreStore
  iss : CoreIssue
  landings : List Landing
  engines : List EngineOp
  nextId : Nat
  streams : Tab Stream
  rings : Tab Ring
  seq : Sequencer
  bobbin : List (BitVec 64)
  bobbinCyc : Nat
  bobbinPause : Option Nat
  drawn : Nat
  stray : BitVec 32
  arriving : List (Nat × Nat × Nat × Nat)
  joins : Tab (List Nat)
  cache : List (Nat × Nat × BitVec 64)
deriving DecidableEq, Repr

/-- An open step (21 R363, R364). -/
structure StepEntry where
  part : Nat
  slot : Nat
  member : Nat
  cls : Nat
  deadline : BitVec 64
  startTime : BitVec 64
  startCyc : Nat
  icyc0 : Nat
  weights : Nat
  tracked : Bool
  risk : Bool
deriving DecidableEq, Repr

/-- A compute die (01 R15, R20, 16 R310, 21 R365 to R371, 22 R386, 23 R391). `quiet` counts, for its cores that have held
nothing, the cycles of each stall cause by column × 32 + cause (23 R394), `drained` is the cycle of its last gating
(07 R159), and `sliceScrub` and `scrubPos` are the cycle of the last scrub of its slices and its place (22 R390). -/
structure Die where
  gated : Bool
  ungateAt : Option Nat
  cyc : Nat
  phase : Nat
  mhz : Nat
  entry : Nat
  table : Tab (BitVec 64)
  supply : Tab Nat
  trimAt : Tab Nat
  limited : Tab Bool
  pauseEnd : Option Nat
  lastSafe : Nat
  disturbed : Bool
  tripped : Bool
  traceWord : BitVec 64
  trace : List TraceEntry
  traceLeft : Option Nat
  walks : List (Nat × Nat × BitVec 64)
  steps : List StepEntry
  placedCyc : Option Nat
  quiet : Tab Nat
  drained : Nat
  sliceScrub : Nat
  scrubPos : Nat
deriving DecidableEq, Repr

/-- A memory channel (22 R378 to R381). `waiting` lists the requests that it holds, oldest first: bank, unit and number;
`window` and `bursts` count the bursts of the microsecond under a cap, `tempAt` and `scrub` are the times of the last
temperature reading and scrub read, and `scrubPos` the scrubbing's place. -/
structure Channel where
  temp : Nat
  rate : Nat
  newRate : Nat
  cap : Nat
  owed : Nat
  abr : Nat
  next : Nat
  busy : List (Nat × Nat)
  blocked : Nat
  interval : Nat
  waiting : List (Nat × Nat × Nat)
  window : Nat
  bursts : Nat
  tempAt : Nat
  scrub : Nat
  scrubPos : Nat
deriving DecidableEq, Repr

/-- A line in a general way of an L2 slice, die × 48 + slice, and whether it is dirty (22 R382). -/
structure L2Line where
  line : Nat
  slice : Nat
  dirty : Bool
deriving DecidableEq, Repr

/-- A live load-block (10 R253, R254): the slice that holds it, its context and tag, and its lines. -/
structure Block where
  slice : Nat
  ctx : Nat
  tag : Nat
  base : Nat
  lines : Nat
  pas : List Nat
deriving DecidableEq, Repr

/-- A weft in progress (17 R325): its stage table, size, shed and scope, the picks that hold a slot with that slot, the
picks ended, the core of pick 0, and whether an end_task stopped it. -/
structure Weft where
  id : Nat
  stab : Nat
  picks : Nat
  shed : Nat
  dieScope : Bool
  ended : List Nat
  live : List (Nat × Nat)
  place : Option Nat
  stopped : Bool
deriving DecidableEq, Repr

/-- An open guarded-surrogate pair (17 R335): slots of the surrogate and its check, the surrogate template's scope, and
the exact id and tolerance of its kind fields. -/
structure Pair where
  surrogate : Nat
  check : Nat
  scope : Nat
  exact : Nat
  tol : BitVec 32
deriving DecidableEq, Repr

/-- A parked held buffer (17 R332): the slot it stands under, its die, its task's context and core, serial number as a writer, scope
and what happened before its end, and its lines. -/
structure Parked where
  slot : Nat
  die : Nat
  writer : Nat
  core : Nat
  me : Nat
  knows : List Nat
  scope : Nat
  lines : List LineWrite
deriving DecidableEq, Repr

/-- A queued handle with the level it stands in (16 R310). -/
structure Queued where
  slot : Nat
  gen : Nat
deriving DecidableEq, Repr

/-- A saved context (14 R297) with the core it left and, when it was saved with its core, that core's record. -/
structure SaveRecord where
  part : Nat
  core : Nat
  ctxnum : Nat
  alone : Bool
  stopped : Bool
  waiting : Bool
  ctx : Ctx
  vregs : List (BitVec 8192)
  shadows : List Shadow
  rings : Tab Ring
  deck : Option Sequencer
  addr : Nat
deriving DecidableEq, Repr

/-- A core save record (14 R298). -/
structure CoreSave where
  part : Nat
  core : Nat
  st : CoreStore
  stray : BitVec 32
  bobbin : List (BitVec 64)
  streams : Tab Stream
  seq : Sequencer
  events : Tab Nat
  /-- Whether the core was saved for a shrink, after which it never goes back to its die (21 R372). -/
  off : Bool
  addr : Nat
deriving DecidableEq, Repr

/-- A partition table entry (24 R403). -/
structure PartEntry where
  state : Nat
  quads : BitVec 192
  groups : BitVec 96
  fronts : BitVec 64
  tmplBase : Nat
  tmplCount : Nat
  taskBase : Nat
  taskN : Nat
  ringBase : Nat
  ringSize : Nat
  ringHead : Nat
  ringTail : Nat
  deferred : Nat
  shares : Tab Nat
  handler : Nat
  saveBase : Nat
  saveSize : Nat
  root : Nat
  tmem : List (Nat × Nat)
  editBase : Nat
  editSize : Nat
  editOver : Nat
  sampBase : Nat
  sampSize : Nat
  sampMask : Nat
  sampCount : Nat
  energy : Nat
  shrink : Nat
deriving DecidableEq, Repr

/-- A partition at work (16 R308 to R313, 17, 21 R372): queues by die × 16 + level, pass counts likewise, the deferred
list, memory mapped from elsewhere, wefts, pairs, parked buffers, the dies it is shrunk off, the edit log position, the trap messages that wait for a slot, the slots of
handler tasks, and whether its page walks are in host-assisted mode (22 R387, 24 R411). -/
structure Partition where
  ent : PartEntry
  queues : Tab (List Queued)
  pass : Tab Nat
  deferred : List Queued
  mapped : List (Nat × Nat)
  wefts : List Weft
  pairs : List Pair
  parked : List Parked
  shrunk : List Nat
  editNext : Nat
  handlers : List (List (BitVec 8))
  hslots : List Nat
  hostWalks : Bool
deriving DecidableEq, Repr

/-- A LAUNCH in progress (16 R319). -/
structure Launch where
  tmpl : Nat
  origin : Nat
  extent : Nat
  next : Nat
  prio : Nat
  hflag : Bool
  kind : Nat
  fields : List (BitVec 8)
  payload : List (BitVec 8)
  weft : Option Nat
deriving DecidableEq, Repr

/-- A running or pending replay of a graph object (16 R320, R321). -/
structure Replay where
  graph : Nat
  part : Nat
  pos : Nat
  block : Nat
  tasks : List Queued
  launch : Option Launch
  pending : Bool
deriving DecidableEq, Repr

/-- A stream front end (16 R318): owner, control block, running or halted, the head it has reached, the tail it has
read, the tasks its earlier packets produced, its launch and its replay. -/
structure Front where
  part : Nat
  block : Nat
  bound : Bool
  halted : Bool
  code : Nat
  head : Nat
  tail : Nat
  tasks : List Queued
  launch : Option Launch
  replays : List Replay
  view : Nat
deriving DecidableEq, Repr

/-- A shoot-down in progress (22 R388). -/
structure ShootDown where
  part : Nat
  va : Nat
  len : Nat
  core : Nat
  stalled : Nat
  waits : List (Nat × Nat)
  engines : List (Nat × Nat)
deriving DecidableEq, Repr

/-- A master's request held while it is frozen (24 R407). -/
structure HeldRequest where
  addr : Nat
  len : Nat
  data : Option (List (BitVec 8))
  window : Bool
deriving DecidableEq, Repr

/-- A master of the control window (24 R405, R407, R408), a function with the base and size of its device-memory aperture. -/
structure Master where
  frozen : Bool
  requests : List HeldRequest
  part : Option Nat
  vectors : List Nat
  answers : List (List (BitVec 8))
  errors : Nat
  base : Nat
  size : Nat
deriving DecidableEq, Repr

/-- A record of the device error log (24 R404). -/
structure LogRecord where
  ptime : BitVec 64
  source : Nat
  code : Nat
  part : Nat
  addr : Nat
deriving DecidableEq, Repr

/-- A write record of a dump (14 R300). -/
structure DumpWrite where
  kind : Nat
  ctxid : BitVec 64
  line : LineWrite
deriving DecidableEq, Repr

/-- A dump image (14 R300). -/
structure DumpImage where
  part : Nat
  published : List (Nat × List (BitVec 8))
  contexts : List SaveRecord
  cores : List CoreSave
  writes : List DumpWrite
deriving DecidableEq, Repr

/-- The package block, the clock of package time and what the package keeps once (24 R402, R405 to R412, 21 R366). -/
structure Package where
  now : Nat
  number : Nat
  eo : Nat
  epoch : Nat
  /-- When the present epoch of the governor began, in ps (21 R366, R370). -/
  epochAt : Nat
  bootState : Nat
  chain : BitVec 512
  open_ : Bool
  serial : Nat
  owner : Option Nat
  ownerSince : Nat
  target : Option (Nat × Nat)
  hostGovernor : Bool
  hostRefill : Bool
  hostLog : Bool
  hostUpdate : Bool
  hostCheckpoint : Bool
  cap : Option Nat
  grants : Tab Nat
  watchdog : Bool
  updating : Bool
  firmware : List Nat
  house : Nat
  logBase : Nat
  logSize : Nat
  checkpoints : List Nat
  pushed : Option Nat
deriving DecidableEq, Repr

/-- The records the package keeps outside memory: histories, logs, saves, answers. `log` holds the records of the
error log that its ring still has, and `logged` how many have been written; `messages` holds the trap messages that
entered the error log, each after its context (14 R289). `moves` says to which quad the cores of
a saved quad of a partition resume: partition, old quad, new quad; `usage` what each account has used of each die and
stack in this epoch, by account × 32 + unit (dies 0 to 7, stacks 8 to 19): energy weights at the entry's voltage, and bytes
moved (21 R375). -/
structure Records where
  reports : Tab (List (Nat × Nat))
  skews : Tab (List (Nat × Bool))
  freed : List (Nat × Nat)
  lastReport : Option (Nat × Nat × Nat × Nat × Int)
  log : List LogRecord
  logged : Nat
  messages : List (Nat × List (BitVec 8))
  saves : List SaveRecord
  coreSaves : List CoreSave
  moves : List (Nat × Nat × Nat)
  dumps : List DumpImage
  notices : List (Nat × Nat)
  tier : List (Nat × Memory)
  answers : List Nat
  usage : Tab (Nat × Nat)
  walks : Tab (List Nat)
deriving DecidableEq, Repr

/-- The slot operation being issued, or the bundle: the model's own record of what 02 R53 fixes at an issue. `live` is
true inside BUNDLE_ISSUE; `latch` holds the operand latch of a slot that is completed (14 R293), `symsAt` the symbols and
their generation before the cut of the bundle, a marker (19 R350), `reads` the versions that an engine's
reads have returned and no operation has taken yet, `walked` the lines that translation walks read from memory for it (22
R386), `forks` the load-blocks that begin once the slots have run (00 R8), `posted` how many events its context had posted
before the bundle (12 R265), and `least` the lowest stall cause among the waits of its slots (23 R393). -/
structure Issue where
  core : Nat
  ctx : Nat
  slot : Nat
  kind : BundleKind
  lend : BitVec 8
  word : Nat
  pc : BitVec 58
  live : Bool
  card : Option Nat
  latch : List (Nat × BitVec 8192)
  faults : List Trap
  target : Option (BitVec 58)
  repNext : Option Nat
  repSet : Option Nat
  retry : Option WaitFor
  sleep : Option Nat
  ended : Bool
  symsAfter : List (Nat × Symbol)
  symsAt : Option (Tab Symbol × BitVec 64)
  reads : List Nat
  walked : List Nat
  forks : List EngineOp
  posted : Nat
  least : Nat
deriving DecidableEq, Repr

/-- The machine. `poison` lists the poisoned sectors of memory by number, `versions` the published versions, newest
first, `blocks` the live load-blocks, `near` the lines homed in near memory, `l2` the lines that the slices hold,
most recently used first, `nearCache` the counter lines that each stack's base die caches,
likewise, `agenda` the events that come next; `cur` is the issue record and `free` the count of free values taken. -/
structure State where
  pkg : Package
  recs : Records
  ctxs : Tab Ctx
  cores : Tab Core
  dies : Tab Die
  channels : Tab Channel
  parts : Tab Partition
  fronts : Tab Front
  masters : Tab Master
  mem : Memory
  poison : Memory
  versions : List Version
  blocks : List Block
  near : List Nat
  l2 : List L2Line
  nearCache : Tab (List Nat)
  shoots : List ShootDown
  cur : Issue
  agenda : List Instr
  free : Nat
deriving DecidableEq, Repr

namespace State

/-- A context that holds no task (04 R88): the values a package reset leaves, which no rule states (log entry 1). -/
def resetCtx : Ctx where
  pc := 0
  s := []
  k := []
  blocks := []
  ctl := []
  tags := []
  syms := []
  symgen := 0
  iss :=
    { phase := .free, fresh := true, pred := 0, sleepUntil := none, waitFrom := none,
      waitLimit := 0, wait := none, dtime := 0, started := false, board := [], backs := [], icyc := 0, elapsed := 0,
      firstCyc := none, cause := 16, saving := none, behind := [], ending := false }
  mem :=
    { me := 0, view := none, snap := 0, unpub := [], landed := [], engineReads := [], pubs := [], carry := [], holding := [], kept := [], ops := [], nextId := 0, fences := 0,
      held := none, entering := none }
  trap :=
    { pending := [], stop := none, rerun := none, lightInfo := 0, riskInfo := 0,
      boundPending := false, failed := [], stopTime := 0, shadows := [], served := false, owed := none, redo := none }
  task := none

def resetTag : Tag := { ready := false, st := 0, pend := 0, fa := 0 }

/-- An undeclared symbol: bound 0, minimum 0, source none (19 R342). -/
def resetSymbol : Symbol :=
  { min := 0, max := 0, src := 0, win := 0, pol := 0, window := [], b := 0, db := 0, floor := none,
    request := false }

def resetStream : Stream :=
  { opened := false, base := 0, count := 0, stride := 0, keep := false, pos := 0, rows := [], arrived := 0,
    asked := [], lines := [], loose := [], cold := [], owner := 0 }

def resetRing : Ring :=
  { owner := none, base := 0, wstore := false, output := false, count := 0, ssize := 0, recAddr := 0,
    read := false, vbase := 0, rstride := 0, tstride := 0, rowb := 0, rows := 0, tiles := 0, head := 0,
    moved := 0, poisoned := [], failed := none, worst := 0, freed := [], view := none, snap := 0, eo := 0, own := [],
    held := false, queued := [], filling := none, sectors := [] }

def resetSequencer : Sequencer :=
  { cards := [], usable := false, loading := none, loader := 0, running := false, owner := 0, a := [], c := [], card := 0,
    stepDone := false, copied := false, selv := 0, gang := 0, leader := 0, boff := 0, drained := 0, lastDrain := 0, fin := false, visits := 0,
    halted := false, savePending := false, notBefore := 0, copyWait := none }

/-- Stores cleared, as 08 R178 and 09 R230 leave them when a quad is assigned. -/
def resetStore : CoreStore :=
  { pool := [], xstore := [], wstore := [], xpoison := [], wpoison := [], acc := [], accPoison := [],
    counts := [], shadow := [], active := [], shadowPoison := [], activePoison := [], vpoison := [], inUse := 0, holders := [] }

/-- A core after package reset; the profile is the default of 21 R370 (log entry 3). -/
def resetCore : Core where
  st := resetStore
  iss :=
    { running := none, heldSince := 0, served := [], tried := none, lastIssue := none, last := none, ballastCyc := none,
      backs := [], used := ⟨false, 0, 0, [], false⟩, weights := [], profile := 8192,
      slew := 16320, breaks := [], events := [], seq := 0, stepCyc := none, copyCyc := none, dampCyc := none }
  landings := []
  engines := []
  nextId := 0
  streams := []
  rings := []
  seq := resetSequencer
  bobbin := []
  bobbinCyc := 0
  bobbinPause := none
  drawn := 0
  stray := 0
  arriving := []
  joins := []
  cache := []

/-- A die after package reset: clocked at the entry whose fmhz is 1,600 (21 R365). The firmware's table is entry 0
alone, 1,600 MHz with supplies of 950 to 420 mV (log entry 3). -/
def resetDie : Die :=
  { gated := false, ungateAt := none, cyc := 0, phase := 0, mhz := 1600, entry := 0,
    table := [(0, BitVec.ofNat 64 (1600 + 950 * 2 ^ 16 + 420 * 2 ^ 26))], supply := [], trimAt := [],
    limited := [], pauseEnd := none, lastSafe := 0, disturbed := false, tripped := false, traceWord := 0,
    trace := [], traceLeft := none, walks := [], steps := [], placedCyc := none, quiet := [], drained := 0, sliceScrub := 0, scrubPos := 0 }

def resetChannel : Channel :=
  { temp := 0, rate := 0, newRate := 0, cap := 0, owed := 0, abr := 0, next := 0, busy := [], blocked := 0,
    interval := 0, waiting := [], window := 0, bursts := 0, tempAt := 0, scrub := 0, scrubPos := 0 }

def resetEntry : PartEntry :=
  { state := 0, quads := 0, groups := 0, fronts := 0, tmplBase := 0, tmplCount := 0, taskBase := 0, taskN := 0,
    ringBase := 0, ringSize := 0, ringHead := 0, ringTail := 0, deferred := 0, shares := [], handler := 0,
    saveBase := 0, saveSize := 0, root := 0, tmem := [], editBase := 0, editSize := 0, editOver := 0,
    sampBase := 0, sampSize := 0, sampMask := 0, sampCount := 0, energy := 0, shrink := 0 }

def resetPart : Partition :=
  { ent := resetEntry, queues := [], pass := [], deferred := [], mapped := [], wefts := [], pairs := [],
    parked := [], shrunk := [], editNext := 0, handlers := [], hslots := [], hostWalks := false }

def resetFront : Front :=
  { part := 0, block := 0, bound := false, halted := false, code := 0, head := 0, tail := 0, tasks := [],
    launch := none, replays := [], view := 0 }

def resetMaster : Master :=
  { frozen := false, requests := [], part := none, vectors := [], answers := [], errors := 0, base := 0, size := 2 ^ 36 }

def resetPackage : Package :=
  { now := 0, number := 0, eo := 1, epoch := 0, epochAt := 0, bootState := 0, chain := 0, open_ := false, serial := 1, owner := none,
    ownerSince := 0, target := none, hostGovernor := false, hostRefill := false,
    hostLog := false, hostUpdate := false, hostCheckpoint := false, cap := none, grants := [], watchdog := false,
    updating := false, firmware := [], house := 0, logBase := 0, logSize := 0, checkpoints := [], pushed := none }

def resetRecords : Records :=
  { reports := [], skews := [], freed := [], lastReport := none, log := [], logged := 0, messages := [], saves := [], coreSaves := [], moves := [], dumps := [],
    notices := [], tier := [], answers := [], usage := [], walks := [] }

def resetIssue : Issue :=
  { core := 0, ctx := 0, slot := 0, kind := .plain, lend := 0, word := 0, pc := 0, live := false,
    card := none, latch := [], faults := [], target := none, repNext := none, repSet := none, retry := none, sleep := none,
    ended := false, symsAfter := [], symsAt := none, reads := [], walked := [], forks := [], posted := 0, least := 31 }

/-- The machine right after package reset (24 R409, 04 R110): every unit at its reset value, memory with nothing
listed, no owner, no partition. -/
def reset : State :=
  { pkg := resetPackage, recs := resetRecords, ctxs := [], cores := [], dies := [], channels := [], parts := [],
    fronts := [], masters := [], mem := [], poison := [], versions := [], blocks := [], near := [], l2 := [], nearCache := [],
    shoots := [], cur := resetIssue, agenda := [], free := 0 }

end State
end Sys2Proof.Machine
end

