-- ==== Sys2Proof/Machine/Formats.lean ====
section
/-! DEFINITION. Number formats, exact values and rounding (07 R150 to R156, R164, R166, R173). Values are exact binary
numbers; a value no binary number holds (a quotient, a root, an exponential) is cut far below any rounding point with
a mark that something nonzero was cut off, which is all that rounding to nearest, to a direction or with 16 random bits
can see. -/

namespace Sys2Proof.Machine

/-- A floating format: mantissa bits, exponent bits, and whether it has infinities (07 R150). -/
structure Fmt where
  p : Nat
  eb : Nat
  hasInf : Bool
deriving DecidableEq, Repr

def fmtF32 : Fmt := ⟨23, 8, true⟩
def fmtF16 : Fmt := ⟨10, 5, true⟩
def fmtBf16 : Fmt := ⟨7, 8, true⟩
def fmtE4m3 : Fmt := ⟨3, 4, false⟩
def fmtE5m2 : Fmt := ⟨2, 5, true⟩

def Fmt.bias (f : Fmt) : Int := 2 ^ (f.eb - 1) - 1
/-- The exponent of the smallest normal. -/
def Fmt.emin (f : Fmt) : Int := 1 - f.bias
def Fmt.expMax (f : Fmt) : Nat := 2 ^ f.eb - 1
def Fmt.bits (f : Fmt) : Nat := f.p + f.eb + 1

/-- The largest finite value as mantissa and exponent (07 R150). -/
def Fmt.maxf (f : Fmt) : Nat × Int :=
  if f.hasInf then (2 ^ (f.p + 1) - 1, f.bias - f.p) else (14, 5)

/-- The canonical NaN (07 R150). -/
def Fmt.nan (f : Fmt) : Nat :=
  if f.hasInf then f.expMax * 2 ^ f.p + 2 ^ (f.p - 1) else 127

/-- A value before rounding: `m` × 2^`e`, and `more` when the value lies strictly between m and m + 1 of these. -/
inductive Exact where
  | nan (signalling : Bool)
  | inf (neg : Bool)
  | num (neg : Bool) (m : Nat) (e : Int) (more : Bool)
deriving DecidableEq, Repr

/-- The value of encoding `w` (07 R150, R151). -/
def Fmt.value (f : Fmt) (w : Nat) : Exact :=
  let neg : Bool := w / 2 ^ (f.p + f.eb) % 2 = 1
  let ex := w / 2 ^ f.p % 2 ^ f.eb
  let man := w % 2 ^ f.p
  if ex = f.expMax ∧ f.hasInf then
    if man = 0 then .inf neg else .nan (man / 2 ^ (f.p - 1) = 0)
  else if ex = f.expMax ∧ man = 2 ^ f.p - 1 then .nan false
  else if ex = 0 then .num neg man (f.emin - f.p) false
  else .num neg (2 ^ f.p + man) ((ex : Int) - f.bias - f.p) false

/-- Rounding modes (07 R157); SR carries its sixteen bits. -/
inductive Rounding where
  | rn | rz | rd | ru | rna
  | sr (b : Nat)
deriving DecidableEq, Repr

def flagInv : BitVec 5 := 1
def flagDz : BitVec 5 := 2
def flagOvf : BitVec 5 := 4
def flagUnf : BitVec 5 := 8
def flagInx : BitVec 5 := 16

/-- Floor of the base-2 logarithm, 0 at 0. -/
def ilog2 (m : Nat) : Nat := Nat.log2 m

/-- Whether the kept part t rounds up, with `rem` of 2^sh cut off and `more` below that (07 R154). -/
def roundsUp (mode : Rounding) (neg : Bool) (t rem sh : Nat) (more : Bool) : Bool :=
  let half := 2 ^ sh
  match mode with
  | .rn => decide (2 * rem > half) || (decide (2 * rem = half) && (more || decide (t % 2 = 1)))
  | .rna => decide (2 * rem ≥ half)
  | .rz => false
  | .ru => (decide (rem > 0) || more) && !neg
  | .rd => (decide (rem > 0) || more) && neg
  | .sr b => decide (rem * 65536 / half + b ≥ 65536)

/-- The parts of a rounding to spacing 2^qe: the kept part, whether it rounds up, whether anything was cut off. -/
def cut (mode : Rounding) (neg : Bool) (m : Nat) (e qe : Int) (more : Bool) : Nat × Bool × Bool :=
  if qe ≤ e then (m * 2 ^ (e - qe).toNat, false, more)
  else
    let sh := (qe - e).toNat
    let t := m / 2 ^ sh
    let rem := m % 2 ^ sh
    (t, roundsUp mode neg t rem sh more, decide (rem ≠ 0) || more)

/-- The encoding of t × 2^qe with sign, t at most 2^(p+1) and qe the spacing at t. -/
def Fmt.pack (f : Fmt) (neg : Bool) (t : Nat) (qe : Int) : Nat :=
  let sg := if neg then 2 ^ (f.p + f.eb) else 0
  if t < 2 ^ f.p then sg + t
  else sg + (qe + f.p + f.bias).toNat * 2 ^ f.p + (t - 2 ^ f.p)

def Fmt.infinity (f : Fmt) (neg : Bool) : Nat :=
  (if neg then 2 ^ (f.p + f.eb) else 0) + f.expMax * 2 ^ f.p

def Fmt.maxEnc (f : Fmt) (neg : Bool) : Nat :=
  let sg := if neg then 2 ^ (f.p + f.eb) else 0
  if f.hasInf then sg + f.expMax * 2 ^ f.p - 1 else sg + 126

/-- t × 2^qe exceeds the largest finite value. -/
def Fmt.exceeds (f : Fmt) (t : Nat) (qe : Int) : Bool :=
  let (mm, me) := f.maxf
  if me ≤ qe then decide (t * 2 ^ (qe - me).toNat > mm) else decide (t > mm * 2 ^ (me - qe).toNat)

/-- The overflowed result (07 R155); `kept` says whether the part cut at the rounding point is still finite. -/
def Fmt.overflow (f : Fmt) (mode : Rounding) (neg kept : Bool) : Nat :=
  if f.hasInf = false then f.maxEnc neg
  else match mode with
    | .rn | .rna => f.infinity neg
    | .rz => f.maxEnc neg
    | .ru => if neg then f.maxEnc neg else f.infinity neg
    | .rd => if neg then f.infinity neg else f.maxEnc neg
    | .sr _ => if kept then f.maxEnc neg else f.infinity neg

/-- round_mode to a floating format, with the flags of 07 R154 to R156. -/
def Fmt.round (f : Fmt) (mode : Rounding) (x : Exact) : Nat × BitVec 5 :=
  match x with
  | .nan sig => (f.nan, if sig then flagInv else 0)
  | .inf neg => if f.hasInf then (f.infinity neg, 0) else (f.maxEnc neg, flagInv)
  | .num neg m e more =>
    if m = 0 ∧ more = false then (f.pack neg 0 0, 0)
    else
      let top : Int := (ilog2 m : Int) + e
      let qe := max top f.emin - f.p
      let (t, up, inx) := cut mode neg m e qe more
      let r := if up then t + 1 else t
      if f.exceeds r qe then (f.overflow mode neg (!f.exceeds t qe), flagOvf ||| flagInx)
      else
        (f.pack neg r qe,
          (if inx then flagInx else 0) ||| (if inx && decide (top < f.emin) then flagUnf else 0))

/-- round_mode to an integer without bounds: the integer, and whether it differs from the value (07 R154). -/
def roundInt (mode : Rounding) (neg : Bool) (m : Nat) (e : Int) (more : Bool) : Int × Bool :=
  let (t, up, inx) := cut mode neg m e 0 more
  let r := if up then t + 1 else t
  (if neg then -(r : Int) else (r : Int), inx)

/-- A signed exact number as a value; zero is plus zero. -/
def Dyadic.exact (d : Dyadic) : Exact := .num (decide (d.m < 0)) d.m.natAbs d.e false

def Dyadic.zero : Dyadic := ⟨0, 0⟩

def Dyadic.add (a b : Dyadic) : Dyadic :=
  if a.m = 0 then b else if b.m = 0 then a
  else if a.e ≤ b.e then ⟨a.m + b.m * 2 ^ (b.e - a.e).toNat, a.e⟩
  else ⟨a.m * 2 ^ (a.e - b.e).toNat + b.m, b.e⟩

def Dyadic.mul (a b : Dyadic) : Dyadic := ⟨a.m * b.m, a.e + b.e⟩

/-- The number of a finite value. -/
def signedNum (neg : Bool) (m : Nat) (e : Int) : Dyadic := ⟨if neg then -(m : Int) else m, e⟩

/-- Round to nearest even in a format (00 R10, 07 R153). -/
def Fmt.roundRn (f : Fmt) (x : Exact) : Nat := (f.round .rn x).1

def satI8 (x : Int) : Int := min (max x (-128)) 127
def satI32 (x : Int) : Int := min (max x (-2147483648)) 2147483647

/-- sext of the low n bits (07 R153). -/
def sextN (x n : Nat) : Int :=
  let v := x % 2 ^ n
  if v < 2 ^ (n - 1) then (v : Int) else (v : Int) - 2 ^ n

/-- The low n bits of an integer in two's complement. -/
def lowBits (x : Int) (n : Nat) : Nat := (x % (2 ^ n : Int)).toNat

/-- Mixed random bits of element i from queue word w (07 R164). -/
def bobbinBits (w : BitVec 64) (i : Nat) : Nat :=
  let x0 : BitVec 64 := w ^^^ BitVec.ofNat 64 (i * 0x9E3779B97F4A7C15)
  let x1 := x0 ^^^ (x0 >>> 30)
  let x2 : BitVec 64 := x1 * 0xBF58476D1CE4E5B9#64
  let x3 := x2 ^^^ (x2 >>> 27)
  let x4 : BitVec 64 := x3 * 0x94D049BB133111EB#64
  let x5 := x4 ^^^ (x4 >>> 31)
  x5.toNat % 65536

/-- Whether an exact number is minus zero. -/
def Exact.isNegZero : Exact → Bool
  | .num true 0 _ false => true
  | _ => false

def Exact.isZero : Exact → Bool
  | .num _ 0 _ false => true
  | _ => false

def Exact.isNan : Exact → Bool
  | .nan _ => true
  | _ => false

def Exact.signalling : Exact → Bool
  | .nan b => b
  | _ => false

/-- An exact sum with the zero rule of 06 R147: an exact zero is plus zero, but minus zero under RD or when every term
is minus zero. -/
def zeroSign (mode : Rounding) (allNeg : Bool) (d : Dyadic) : Exact :=
  if d.m = 0 then .num (allNeg || decide (mode = .rd)) 0 0 false else d.exact

/-- x + y before rounding, with invalid (06 R146, R147). -/
def exactAdd (mode : Rounding) (x y : Exact) : Exact × BitVec 5 :=
  match x, y with
  | .nan a, y => (.nan false, if a || y.signalling then flagInv else 0)
  | _, .nan b => (.nan false, if b then flagInv else 0)
  | .inf a, .inf b => if a = b then (.inf a, 0) else (.nan false, flagInv)
  | .inf a, _ => (.inf a, 0)
  | _, .inf b => (.inf b, 0)
  | .num a m e _, .num b n g _ =>
    (zeroSign mode (x.isNegZero && y.isNegZero) ((signedNum a m e).add (signedNum b n g)), 0)

/-- The value with its sign inverted. -/
def Exact.negate : Exact → Exact
  | .nan b => .nan b
  | .inf a => .inf (!a)
  | .num a m e r => .num (!a) m e r

/-- x × y before rounding; a zero product carries the exclusive or of the signs (06 R147). -/
def exactMul (x y : Exact) : Exact × BitVec 5 :=
  match x, y with
  | .nan a, y => (.nan false, if a || y.signalling then flagInv else 0)
  | _, .nan b => (.nan false, if b then flagInv else 0)
  | .inf a, .inf b => (.inf (a != b), 0)
  | .inf a, .num b n _ _ => if n = 0 then (.nan false, flagInv) else (.inf (a != b), 0)
  | .num a m _ _, .inf b => if m = 0 then (.nan false, flagInv) else (.inf (a != b), 0)
  | .num a m e _, .num b n g _ => (.num (a != b) (m * n) (e + g) false, 0)

/-- x × y + z with one rounding to come (06 R147). -/
def exactFma (mode : Rounding) (x y z : Exact) : Exact × BitVec 5 :=
  match exactMul x y with
  | (p, fl) =>
    let (r, fl2) := exactAdd mode p z
    (r, fl ||| fl2)

/-- Order of two numbers that are no NaN: x < y, with equal zeros equal. -/
def exactLt (x y : Exact) : Bool :=
  match x, y with
  | .inf a, .inf b => a && !b
  | .inf a, _ => a
  | _, .inf b => !b
  | .num a m e _, .num b n g _ => decide (((signedNum a m e).add (signedNum (!b) n g)).m < 0)
  | _, _ => false

def exactEq (x y : Exact) : Bool :=
  match x, y with
  | .inf a, .inf b => a == b
  | .num a m e _, .num b n g _ => decide (((signedNum a m e).add (signedNum (!b) n g)).m = 0)
  | _, _ => false

/-- Integer square root by bits, from bit `fuel` down. -/
def isqrtFrom : Nat → Nat → Nat → Nat
  | 0, _, r => r
  | fuel + 1, n, r =>
    let r' := r + 2 ^ fuel
    if r' * r' ≤ n then isqrtFrom fuel n r' else isqrtFrom fuel n r

def isqrt (n : Nat) : Nat := isqrtFrom (ilog2 n / 2 + 1) n 0

/-- 1 ÷ (m × 2^e) cut to 96 bits. -/
def exactRecip (neg : Bool) (m : Nat) (e : Int) : Exact :=
  let sh : Nat := ilog2 m + 96
  let q := 2 ^ sh / m
  .num neg q (-e - sh) (decide (2 ^ sh % m ≠ 0))

/-- √(m × 2^e) cut to at least 96 bits. -/
def exactSqrt (m : Nat) (e : Int) : Exact :=
  let sh : Nat := 200 + (if (e - 200) % 2 = 0 then 0 else 1)
  let n := m * 2 ^ sh
  let r := isqrt n
  .num false r ((e - sh) / 2) (decide (r * r ≠ n))

/-- 1 ÷ √(m × 2^e) cut to at least 96 bits. -/
def exactRsqrt (m : Nat) (e : Int) : Exact :=
  let sh : Nat := 2 * (ilog2 m) + 240 + (if e % 2 = 0 then 0 else 1)
  let n := 2 ^ sh / m
  let r := isqrt n
  .num false r ((-e - sh) / 2) (decide (r * r * m ≠ 2 ^ sh))

/-- Working precision of the transcendental functions, in fraction bits. -/
def workBits : Nat := 512

/-- ln 2 × 2^512, from the series of 1 / (k 2^k). -/
def ln2Fixed : Nat :=
  (List.range 520).foldl (fun acc i => acc + 2 ^ (workBits + 16) / ((i + 1) * 2 ^ (i + 1))) 0 / 2 ^ 16

/-- e^y × 2^512 for y given × 2^512, 0 ≤ y < 2, by its power series. -/
def expFixed (y : Nat) : Nat :=
  ((List.range 140).foldl (fun (s : Nat × Nat) i =>
    let t := s.2 * y / 2 ^ workBits / (i + 1)
    (s.1 + t, t)) (2 ^ workBits, 2 ^ workBits)).1

/-- A number cut to `keep` bits, with the mark of what was cut. -/
def trim (neg : Bool) (m : Nat) (e : Int) (keep : Nat) : Exact :=
  let l := ilog2 m
  if l < keep then .num neg m e true
  else .num neg (m / 2 ^ (l - keep)) (e + ((l - keep : Nat) : Int)) true

/-- 2^x (07 R166); exact at integers. -/
def exactExp2 (neg : Bool) (m : Nat) (e : Int) : Exact :=
  if m = 0 then .num false 1 0 false
  else if 0 ≤ e ∨ m % 2 ^ (-e).toNat = 0 then
    let v := if 0 ≤ e then m * 2 ^ (min e 20).toNat else m / 2 ^ (-e).toNat
    let c := min v 100000
    .num false 1 (if neg then -(c : Int) else c) false
  else
    let d := (-e).toNat
    let ip := min (m / 2 ^ d) 100000
    let fr := m % 2 ^ d
    let fx := fr * 2 ^ workBits / 2 ^ d
    let down := if neg then 2 ^ workBits - fx else fx
    let base : Int := if neg then -(ip : Int) - 1 else ip
    if fx = 0 then
      -- |x| below 2^-512 of an integer: just beside a power of two
      if neg then .num false (2 ^ 96 - 1) (base + 1 - 96) true else .num false (2 ^ 96) (base - 96) true
    else trim false (expFixed (ln2Fixed * down / 2 ^ workBits)) (base - (workBits : Int)) 96

/-- log2 of a fixed-point number in [1, 2) by repeated squaring: `n` fraction bits. -/
def logBits : Nat → Nat → Nat → Nat
  | 0, _, acc => acc
  | n + 1, y, acc =>
    let y2 := y * y / 2 ^ workBits
    if 2 ^ (workBits + 1) ≤ y2 then logBits n (y2 / 2) (2 * acc + 1) else logBits n y2 (2 * acc)

/-- log2 x of a positive number (07 R166); exact at powers of two. -/
def exactLog2 (m : Nat) (e : Int) : Exact :=
  let l := ilog2 m
  let ip : Int := (l : Int) + e
  if m = 2 ^ l then .num (decide (ip < 0)) ip.natAbs 0 false
  else
    let fr := logBits 160 (m * 2 ^ workBits / 2 ^ l) 0
    let v : Int := ip * 2 ^ 160 + fr
    if 0 ≤ v then .num false v.natAbs (-160) true
    else .num true (v.natAbs - 1) (-160) true

/-- tanh x of a nonzero number (07 R166). -/
def exactTanh (neg : Bool) (m : Nat) (e : Int) : Exact :=
  let top : Int := (ilog2 m : Int) + e
  if top < -40 then .num neg (m * 2 ^ 96 - 1) (e - 96) true
  else if 6 ≤ top then .num neg (2 ^ 96 - 1) (-96) true
  else
    -- y = 2|x| / ln 2 = n + f, e^(2|x|) = 2^n e^(f ln 2)
    let up : Nat := workBits + 1 + (max e 0).toNat
    let dn : Nat := (-(min e 0)).toNat
    let x2 : Nat := m * 2 ^ up / 2 ^ dn
    let n := x2 / ln2Fixed
    let ex := expFixed (x2 % ln2Fixed) * 2 ^ n
    let q := (ex - 2 ^ workBits) * 2 ^ workBits / (ex + 2 ^ workBits)
    trim neg q (-(workBits : Int)) 96

end Sys2Proof.Machine
end

