-- ==== Sys2Proof/Machine/Ops.lean ====
section
/-! DEFINITION. The named operations over the state: units, memories, registers, landings, the memory model,
translation, taking a trap and returning from one. -/

namespace Sys2Proof.Machine

/-- The number by which the lines of a request's walks are kept. -/
def walksKey (u id : Nat) : Nat := u + 16384 * id

/-- The channel of a physical address: 32 × stack + 4 × group + offset[8:7], and its bank (22 R376). -/
def channelOf (pa : Nat) : Nat := pa / 2 ^ 36 % 16 * 32 + pa / 2 ^ 33 % 8 * 4 + pa / 128 % 4
def bankOf (pa : Nat) : Nat := Config.bankHash (pa / 512 % 2 ^ 24) % 32

/-! ### Memories -/

/-- The byte at an address; an unlisted address reads 0 (log entry 2). -/
def Memory.get : Memory → Nat → BitVec 8
  | [], _ => 0
  | (j, b) :: t, a => if j = a then b else Memory.get t a

/-- Writes one byte and keeps the canonical form. -/
def Memory.set : Memory → Nat → BitVec 8 → Memory
  | [], a, v => if v = 0 then [] else [(a, v)]
  | (j, b) :: t, a, v =>
    if a < j then (if v = 0 then (j, b) :: t else (a, v) :: (j, b) :: t)
    else if j = a then (if v = 0 then t else (a, v) :: t)
    else (j, b) :: Memory.set t a v

/-- Every cell lies above `lo` and holds no zero, and addresses rise. -/
def Memory.wfFrom : Nat → Memory → Bool
  | _, [] => true
  | lo, (j, b) :: t => decide (lo ≤ j) && (b != 0) && Memory.wfFrom (j + 1) t

/-- The canonical form. -/
def Memory.wf (m : Memory) : Bool := Memory.wfFrom 0 m

/-- Writes bytes at consecutive addresses. -/
def Memory.write (m : Memory) (a : Nat) : List (BitVec 8) → Memory
  | [] => m
  | b :: bs => Memory.write (Memory.set m a b) (a + 1) bs

def Memory.read (m : Memory) (a n : Nat) : List (BitVec 8) := (List.range n).map fun i => m.get (a + i)

/-- The little-endian number of n bytes (00 R5). -/
def Memory.readNat (m : Memory) (a n : Nat) : Nat := ofBytesLE (m.read a n)

/-- Bytes as a bit vector, the lowest address lowest. -/
def bytesToBits (n : Nat) (bs : List (BitVec 8)) : BitVec n := BitVec.ofNat n (ofBytesLE bs)

/-- The first n bytes of a bit vector. -/
def bitsToBytes (n : Nat) {w : Nat} (v : BitVec w) : List (BitVec 8) := bytesLE n v.toNat

/-- n undefined bytes, by the free-value count. -/
def freeBytes (k n : Nat) : List (BitVec 8) := (List.range n).map fun i => Config.freeByte k i

/-- Sectors of 32 bytes that n bytes at a touch (08 R181). -/
def sectorsOf (a n : Nat) : List Nat :=
  if n = 0 then [] else (List.range ((a + n - 1) / 32 - a / 32 + 1)).map (· + a / 32)

/-- Whether a sector is poisoned or uncorrectable. The codes are 0 good, 1 poisoned, 2 a single-bit error that no read has
met yet, 3 uncorrectable and not marked poisoned yet (08 R181). -/
def badSector (p : Memory) (i : Nat) : Bool := (p.get i).getLsbD 0

/-- The first poisoned or uncorrectable sector that n bytes at a touch. -/
def firstPoison (p : Memory) (a n : Nat) : Option Nat := (sectorsOf a n).find? (badSector p)

/-- Whether byte i of a sector lies in one of some ranges: address and length. -/
def coversByte (ranges : List (Nat × Nat)) (a : Nat) : Bool := ranges.any fun r => decide (r.1 ≤ a ∧ a < r.1 + r.2)

/-- Whether ranges written together cover a sector whole. -/
def coversSector (ranges : List (Nat × Nat)) (i : Nat) : Bool := (List.range 32).all fun j => coversByte ranges (32 * i + j)

/-- A write clears the poison of the sectors it covers whole, and leaves an uncorrectable sector that it covers in part
poisoned (08 R183). -/
def rangesPoison (p : Memory) (ranges : List (Nat × Nat)) : Memory :=
  if p.isEmpty then p
  else (ranges.flatMap fun r => sectorsOf r.1 r.2).foldl (fun m i =>
    if m.get i = 0 then m else if coversSector ranges i || m.get i = 2 then m.set i 0 else m.set i 1) p

/-- What a write of n bytes at a does to the poison of its sectors (08 R183). -/
def clearPoison (p : Memory) (a n : Nat) : Memory := rangesPoison p [(a, n)]

def setPoison (p : Memory) (sectors : List Nat) : Memory := sectors.foldl (fun m i => m.set i 1) p

namespace State

/-! ### Units -/

def ctx (s : State) (x : Nat) : Ctx := s.ctxs.get resetCtx x
def setCtx (s : State) (x : Nat) (c : Ctx) : State := { s with ctxs := s.ctxs.put x c }
def die (s : State) (d : Nat) : Die := s.dies.get resetDie d

/-- A core that has held nothing since reset: its event counters and its generator have gone on with its die
(07 R159, 23 R394). -/
def quietCore (s : State) (n : Nat) : Core :=
  let v := s.die (n / 96)
  { resetCore with
    bobbinCyc := v.drained
    iss := { resetCore.iss with
      events := (v.quiet.filter fun q => decide (q.1 / 32 = n % 96 / 8)).map fun q => (q.1 % 32, q.2) } }

def core (s : State) (n : Nat) : Core := s.cores.get (s.quietCore n) n
def setCore (s : State) (n : Nat) (c : Core) : State := { s with cores := s.cores.put n c }
def setDie (s : State) (d : Nat) (v : Die) : State := { s with dies := s.dies.put d v }
def part (s : State) (p : Nat) : Partition := s.parts.get resetPart p
def setPart (s : State) (p : Nat) (v : Partition) : State := { s with parts := s.parts.put p v }
def front (s : State) (f : Nat) : Front := s.fronts.get resetFront f
def setFront (s : State) (f : Nat) (v : Front) : State := { s with fronts := s.fronts.put f v }
def channel (s : State) (ch : Nat) : Channel := s.channels.get resetChannel ch
def setChannel (s : State) (ch : Nat) (v : Channel) : State := { s with channels := s.channels.put ch v }
def master (s : State) (m : Nat) : Master := s.masters.get resetMaster m
def setMaster (s : State) (m : Nat) (v : Master) : State := { s with masters := s.masters.put m v }

def modCtx (s : State) (x : Nat) (f : Ctx → Ctx) : State := s.setCtx x (f (s.ctx x))
def modCore (s : State) (n : Nat) (f : Core → Core) : State := s.setCore n (f (s.core n))
def modDie (s : State) (d : Nat) (f : Die → Die) : State := s.setDie d (f (s.die d))
def modPart (s : State) (p : Nat) (f : Partition → Partition) : State := s.setPart p (f (s.part p))
def modFront (s : State) (f : Nat) (g : Front → Front) : State := s.setFront f (g (s.front f))
def modMaster (s : State) (m : Nat) (g : Master → Master) : State := s.setMaster m (g (s.master m))
def modStore (s : State) (n : Nat) (f : CoreStore → CoreStore) : State :=
  s.modCore n fun c => { c with st := f c.st }
def modMem (s : State) (x : Nat) (f : CtxMem → CtxMem) : State := s.modCtx x fun c => { c with mem := f c.mem }
def modIss (s : State) (x : Nat) (f : CtxIssue → CtxIssue) : State := s.modCtx x fun c => { c with iss := f c.iss }
def modTrap (s : State) (x : Nat) (f : CtxTrap → CtxTrap) : State := s.modCtx x fun c => { c with trap := f c.trap }
def modCur (s : State) (f : Issue → Issue) : State := { s with cur := f s.cur }

/-- The core of a context, its die and its quad (01 R16). -/
def coreOf (x : Nat) : Nat := x / 8
def dieOf (n : Nat) : Nat := n / 96
def quadOf (n : Nat) : Nat := n / 4

/-- The cycle count of a core's die: ctl.ccyc and ctl.qcyc (01 R14, 04 R110). -/
def cyc (s : State) (n : Nat) : Nat := (s.die (dieOf n)).cyc

/-- Package time in ns (04 R110). -/
def ptime (s : State) : BitVec 64 := BitVec.ofNat 64 (s.pkg.now / 1000)

/-! ### Control registers -/

/-- Reset values of the control registers a context holds (02, 07 to 10, 14, 17, 19, 23; each in its chapter). -/
def ctlReset (num : Nat) : BitVec 64 :=
  if num = 0x020 then 0x80 else if num = 0x021 then 0x00802040 else if num = 0x023 then 0x1000000
  else if num = 0x030 then 4 else 0

/-- A stored control register of context x. -/
def ctl (s : State) (x num : Nat) : BitVec 64 := (s.ctx x).ctl.get (ctlReset num) num

def setCtl (s : State) (x num : Nat) (v : BitVec 64) : State :=
  s.modCtx x fun c => { c with ctl := c.ctl.put num v }

/-- Bits [hi:lo] of a value. -/
def bits {w : Nat} (v : BitVec w) (hi lo : Nat) : Nat := v.toNat / 2 ^ lo % 2 ^ (hi + 1 - lo)

/-- The vector register grant of context x (04 R108). -/
def grant (s : State) (x : Nat) : Nat := bits (s.ctl x 0x001) 18 12

/-- ctl.ctxid of place x in partition p of this package (04 R107). -/
def ctxid (s : State) (x p : Nat) : BitVec 64 :=
  BitVec.ofNat 64 (x % 8 + (x / 8 % 96) * 2 ^ 3 + (x / 768) * 2 ^ 10 + s.pkg.number * 2 ^ 13 + p * 2 ^ 19)

/-- The partition of context x. -/
def partOf (s : State) (x : Nat) : Nat := bits (s.ctl x 0x000) 23 19

/-- ctl.ab: bit t is tag t's ready bit (10 R234). -/
def arrivals (s : State) (x : Nat) : BitVec 64 :=
  BitVec.ofNat 64 ((List.range 64).foldl
    (fun acc t => if ((s.ctx x).tags.get resetTag t).ready then acc + 2 ^ t else acc) 0)

/-- ctl.icyc: cycles holding the issue unit (04 R110). -/
def icyc (s : State) (x : Nat) : Nat :=
  let c := (s.ctx x).iss
  let k := (s.core (coreOf x)).iss
  if k.running = some (x % 8) then c.icyc + (s.cyc (coreOf x) - k.heldSince) else c.icyc

/-- The elapsed-cycle count (23 R395). -/
def elapsed (s : State) (x : Nat) : Nat :=
  match (s.ctx x).iss.firstCyc with
  | none => (s.ctx x).iss.elapsed
  | some f => (s.ctx x).iss.elapsed + (s.cyc (coreOf x) - f)

/-! ### Register designators (02 R43) -/

def sReg (r : Nat) : Nat := r
def vReg (r : Nat) : Nat := 0x1000 + r
def kReg (r : Nat) : Nat := 0x2000 + r
def accReg (bank row : Nat) : Nat := 0x3000 + bank * 64 + row
def shadowReg : Nat := 0x4000
def activeReg : Nat := 0x4001
def ctlReg (num : Nat) : Nat := 0x5000 + num

/-! ### Reading registers -/

/-- s[r] of context x; s0 reads 0 (05 R113). -/
def regS (s : State) (x r : Nat) : BitVec 64 := if r = 0 then 0 else (s.ctx x).s.get 0 r

/-- The pool register that holds v r of context x (06 R129). -/
def poolIndex (s : State) (x r : Nat) : Nat := (s.ctx x).blocks.getD (r / 8) 0 * 8 + r % 8

def regV (s : State) (x r : Nat) : BitVec 8192 := (s.core (coreOf x)).st.pool.get 0 (s.poolIndex x r)

/-- k r of context x in all clusters; k0 reads all ones (06 R132). -/
def regK (s : State) (x r : Nat) : BitVec 1024 :=
  if r = 0 then BitVec.allOnes 1024 else (s.ctx x).k.get 0 r

/-- A value of the operand latch (14 R293). -/
def latched (l : List (Nat × BitVec 8192)) (reg : Nat) : Option (BitVec 8192) :=
  (l.find? fun p => p.1 = reg).map (·.2)

/-- The issuing slot's scalar operand: the latch of a completed slot, else the register (00 R8, 14 R293). -/
def readS (s : State) (r : BitVec 6) : BitVec 64 :=
  if r = 0 then 0 else match latched s.cur.latch (sReg r.toNat) with
  | some v => v.setWidth 64
  | none => s.regS s.cur.ctx r.toNat

def readV (s : State) (r : Nat) : BitVec 8192 :=
  match latched s.cur.latch (vReg r) with
  | some v => v
  | none => s.regV s.cur.ctx r

/-- A stored control register that a slot reads at its issue: the latch of a completed slot, else the register
(14 R286, R293). -/
def readC (s : State) (num : Nat) : BitVec 64 :=
  match latched s.cur.latch (ctlReg num) with
  | some v => v.setWidth 64
  | none => s.ctl s.cur.ctx num

def readK (s : State) (r : Nat) : BitVec 1024 :=
  if r = 0 then BitVec.allOnes 1024 else match latched s.cur.latch (kReg r) with
  | some v => v.setWidth 1024
  | none => s.regK s.cur.ctx r

/-! ### Fixed-latency landings (02 R38, R39) -/

/-- Keeps landings in order of cycle, then issue. -/
def insertLanding (l : Landing) : List Landing → List Landing
  | [] => [l]
  | a :: t => if l.cycle < a.cycle then l :: a :: t else a :: insertLanding l t

/-- Schedules a result of the issuing slot `lat` cycles on (02 R38). -/
def schedule (s : State) (lat : Nat) (flags : BitVec 5) (w : Write) : State :=
  s.modCore s.cur.core fun c =>
    { c with
      landings := insertLanding ⟨s.cyc s.cur.core + lat, c.iss.seq, s.cur.ctx % 8, flags, w⟩ c.landings
      iss := { c.iss with seq := c.iss.seq + 1 } }

/-- Schedules a scalar result; a write of s0 is discarded (05 R113). -/
def writeS (s : State) (r : BitVec 6) (lat : Nat) (v : BitVec 64) : State :=
  if r = 0 then s else s.schedule lat 0 (.scalar r.toNat v)

def setRegS (s : State) (x r : Nat) (v : BitVec 64) : State :=
  if r = 0 then s else s.modCtx x fun c => { c with s := c.s.put r v }

/-- Old bytes where the mask is 0, new bytes where it is 1: the mask has one bit a byte. -/
def mergeBytes (mask : BitVec 1024) (old data : BitVec 8192) : BitVec 8192 :=
  if mask = BitVec.allOnes 1024 then data
  else
    let spread := (List.range 1024).foldl
      (fun acc i => if mask.getLsbD i then acc + 255 * 2 ^ (8 * i) else acc) 0
    let m : BitVec 8192 := BitVec.ofNat 8192 spread
    (old &&& ~~~m) ||| (data &&& m)

/-- The check codes of a pool register's 32 sectors after a write of masked bytes (08 R183, R198; log entry 65). -/
def poolCodes (codes : Memory) (i : Nat) (mask : BitVec 1024) : Memory :=
  if codes.isEmpty then codes
  else (List.range 32).foldl (fun m k =>
    if mask.toNat / 2 ^ (32 * k) % 2 ^ 32 = 2 ^ 32 - 1 then m.set (32 * i + k) 0 else m) codes

def setRegV (s : State) (x r : Nat) (mask : BitVec 1024) (data : BitVec 8192) : State :=
  let i := s.poolIndex x r
  s.modStore (coreOf x) fun st => { st with
    pool := st.pool.put i (mergeBytes mask (st.pool.get 0 i) data), vpoison := poolCodes st.vpoison i mask }

def setRegK (s : State) (x r : Nat) (sel data : BitVec 1024) : State :=
  if r = 0 then s
  else s.modCtx x fun c => { c with k := c.k.put r ((c.k.get 0 r &&& ~~~sel) ||| (data &&& sel)) }

def accRow (st : CoreStore) (row : Nat) : BitVec 2048 := st.acc.get 0 row

/-- Word n of an accumulator row. -/
def accWord (row : BitVec 2048) (n : Nat) : Nat := row.toNat / 2 ^ (32 * n) % 2 ^ 32

/-- A row with its first words replaced. -/
def putWords (row : BitVec 2048) (ws : List Nat) : BitVec 2048 :=
  let keep := row.toNat / 2 ^ (32 * ws.length) * 2 ^ (32 * ws.length)
  BitVec.ofNat 2048 (keep + ws.foldr (fun w acc => w % 2 ^ 32 + 2 ^ 32 * acc) 0)

/-- matrix_sum: old word plus the beat's exact sum, one rounding (07 R173). -/
def matrixSum (old : Nat) (t : BeatTerm) : Nat :=
  match fmtF32.value old with
  | .nan _ => fmtF32.nan
  | .inf neg =>
    if t.nan || (if neg then t.pinf else t.ninf) then fmtF32.nan else fmtF32.infinity neg
  | .num neg m e r =>
    if t.nan || (t.pinf && t.ninf) then fmtF32.nan
    else if t.pinf then fmtF32.infinity false
    else if t.ninf then fmtF32.infinity true
    else
      let d := (signedNum neg m e).add t.sum
      fmtF32.roundRn
        (if d.m = 0 then .num (t.negZero && (Exact.num neg m e r).isNegZero) 0 0 false else d.exact)

/-- scacc's write of one word (08 R198). -/
def scaleSum (old : Nat) (d : Dyadic) : Nat :=
  match fmtF32.value old with
  | .nan _ => fmtF32.nan
  | .inf neg => fmtF32.infinity neg
  | .num neg m e r =>
    let t := (signedNum neg m e).add d
    fmtF32.roundRn
      (if t.m = 0 then .num ((Exact.num neg m e r).isNegZero && decide (d.m = 0)) 0 0 false else t.exact)

def putBytes (store : Memory) (parts : List (Nat × List (BitVec 8))) : Memory :=
  parts.foldl (fun m p => m.write p.1 p.2) store

def partsPoison (poison : Memory) (parts : List (Nat × List (BitVec 8))) : Memory :=
  rangesPoison poison (parts.map fun p => (p.1, p.2.length))

/-- Poison of an accumulator row's eight sectors after a write of its first n words: sector index row × 8 + i
(08 R181, R183). -/
def wordsPoison (p : Memory) (row n : Nat) : Memory := rangesPoison p [(256 * row, 4 * n)]

def clearRowPoison (p : Memory) (row : Nat) : Memory := wordsPoison p row 64

/-- The stores after one landing of the core (02 R38, R39). -/
def landStore (st : CoreStore) (w : Write) : CoreStore :=
  match w with
  | .beat row cols =>
    let old := accRow st row
    { st with
      acc := st.acc.put row (putWords old ((List.range cols.length).map fun n =>
        matrixSum (accWord old n) (cols.getD n ⟨false, false, false, .zero, true⟩)))
      accPoison := wordsPoison st.accPoison row cols.length }
  | .plane bank group nb rows =>
    let acc := (List.range nb).foldl (fun a j =>
      let row := bank * 64 + 16 * group + j
      let old := a.get 0 row
      let cs := rows.getD j []
      a.put row (putWords old ((List.range cs.length).map fun n =>
        lowBits (satI32 (sextN (accWord old n) 32 + cs.getD n 0)) 32))) st.acc
    { st with
      acc := acc
      accPoison := (List.range nb).foldl (fun p j => wordsPoison p (bank * 64 + 16 * group + j) (rows.getD j []).length) st.accPoison
      counts := st.counts.put (bank * 4 + group) (max (st.counts.get 0 (bank * 4 + group)) nb) }
  | .scaled row cols =>
    let old := accRow st row
    { st with
      acc := st.acc.put row (putWords old ((List.range cols.length).map fun n =>
        scaleSum (accWord old n) (cols.getD n .zero)))
      accPoison := wordsPoison st.accPoison row cols.length }
  | .rows row data =>
    (List.range data.length).foldl (fun st j =>
      { st with acc := st.acc.put (row + j) (data.getD j 0), accPoison := clearRowPoison st.accPoison (row + j) }) st
  | .zeroRows bank row cnt =>
    let st := (List.range cnt).foldl (fun st j =>
      { st with acc := st.acc.put (bank * 64 + row + j) 0, accPoison := clearRowPoison st.accPoison (bank * 64 + row + j) }) st
    { st with counts := (List.range 4).foldl (fun c g =>
        if row < 16 * g + 16 ∧ 16 * g < row + cnt then c.put (bank * 4 + g) 0 else c) st.counts }
  | .freeRows row n k =>
    (List.range n).foldl (fun st j =>
      { st with
        acc := st.acc.put (row + j) (bytesToBits 2048 (freeBytes (k + j) 256))
        accPoison := (List.range 8).foldl (fun m i =>
          m.set (8 * (row + j) + i) (if (Config.freeByte (k + j) (256 + i)).getLsbD 0 then 1 else 0)) st.accPoison }) st
  | .xstore parts => { st with xstore := putBytes st.xstore parts, xpoison := partsPoison st.xpoison parts }
  | .wstore parts => { st with wstore := putBytes st.wstore parts, wpoison := partsPoison st.wpoison parts }
  | .shadow q row poison =>
    { st with
      shadow := st.shadow.put q row
      shadowPoison := (List.range 4).foldl (fun m i =>
        m.set (q * 4 + i) (if poison.getLsbD i then 1 else 0)) st.shadowPoison }
  | .flip =>
    { st with shadow := st.active, active := st.shadow, shadowPoison := st.activePoison,
              activePoison := st.shadowPoison }
  | .inUse g0 n on holder =>
    { st with
      inUse := (List.range n).foldl (fun b i =>
        if on then b ||| (1#192 <<< (g0 + i)) else b &&& ~~~(1#192 <<< (g0 + i))) st.inUse
      holders := if on then (List.range n).foldl (fun h i => h.put (g0 + i) holder) st.holders else st.holders }
  | _ => st

/-- ORs flags into ctl.fpf of context x (07 R158). -/
def orFlags (s : State) (x : Nat) (f : BitVec 5) : State :=
  if f = 0 then s else s.setCtl x 0x019 (s.ctl x 0x019 ||| f.setWidth 64)

/-! ### Latency symbols: what a change of clock, window or hysteresis asks for (19 R345, R347, R348) -/

/-- A duration in ps as cycles at F MHz (19 R345). -/
def cycOf (mhz d : Nat) : Nat := (d * mhz + 999999) / 1000000

def insertSorted (v : Nat) : List Nat → List Nat
  | [] => [v]
  | a :: t => if v ≤ a then v :: a :: t else a :: insertSorted v t

def sortNat (l : List Nat) : List Nat := l.foldr insertSorted []

/-- The sample a symbol's candidate is made from (19 R347). -/
def candSample (y : Symbol) : Nat :=
  if y.window.isEmpty then y.db
  else if y.pol = 0 then y.window.foldl max 0
  else (sortNat y.window).getD ((99 * y.window.length + 99) / 100 - 1) 0

def cand (mhz : Nat) (y : Symbol) : Nat := min (max (cycOf mhz (candSample y)) y.min) y.max

/-- Sets the request when the candidate has left the hysteresis (19 R348). -/
def reconsider (mhz hys : Nat) (y : Symbol) : Symbol :=
  let c := cand mhz y
  if y.src ≠ 0 ∧ hys ≤ (max c y.b - min c y.b) then { y with request := true } else y

/-- The comparisons of context x's symbols with its hysteresis made anew (19 R348, R349). -/
def reconsiderAll (s : State) (x : Nat) : State :=
  let mhz := (s.die (dieOf (coreOf x))).mhz
  let hys := bits (s.ctl x 0x030) 15 0
  s.modCtx x fun c => { c with syms := c.syms.map fun y => (y.1, reconsider mhz hys y.2) }

/-- A stored control register gets its value: a new hysteresis is compared with from then on (19 R349). -/
def landCtl (s : State) (x num : Nat) (v : BitVec 64) : State :=
  let s := s.setCtl x num v
  if num = 0x030 then s.reconsiderAll x else s

/-! ### Errors in the local stores (08 R181 to R183) -/

/-- What carries check bits in a core. -/
inductive Space where
  | wstore | xstore | acc | shadow | active | vregs
deriving DecidableEq, Repr

def Space.codes (sp : Space) (st : CoreStore) : Memory :=
  match sp with
  | .wstore => st.wpoison
  | .xstore => st.xpoison
  | .acc => st.accPoison
  | .shadow => st.shadowPoison
  | .active => st.activePoison
  | .vregs => st.vpoison

def Space.put (sp : Space) (st : CoreStore) (m : Memory) : CoreStore :=
  match sp with
  | .wstore => { st with wpoison := m }
  | .xstore => { st with xpoison := m }
  | .acc => { st with accPoison := m }
  | .shadow => { st with shadowPoison := m }
  | .active => { st with activePoison := m }
  | .vregs => { st with vpoison := m }

/-- Notifies the owner of a partition event: the vector of each function bound to the partition (24 R405, R408). -/
def notice (s : State) (p vector : Nat) : State :=
  { s with
    recs := { s.recs with notices := s.recs.notices ++ [(p, vector)] }
    masters := s.masters.map fun m =>
      if m.2.part = some p ∧ 1 ≤ m.1 ∧ m.1 ≤ 32 then (m.1, { m.2 with vectors := m.2.vectors ++ [vector] }) else m }

/-- A record enters the device error log, a ring of the size its owner set: past it the oldest is overwritten. With host-assisted
logging a notice goes with it (24 R404, R411). -/
def logRecord (s : State) (r : LogRecord) : State :=
  let l := s.recs.log ++ [r]
  let s := { s with recs := { s.recs with log := l.drop (l.length - s.pkg.logSize / 32), logged := s.recs.logged + 1 } }
  if s.pkg.hostLog then s.notice r.part 66 else s

def log (s : State) (source code p addr : Nat) : State := s.logRecord ⟨s.ptime, source, code, p, addr⟩

/-- The partition that holds core n's quad; 32 for none. -/
def holderOf (s : State) (n : Nat) : Nat :=
  ((s.parts.find? fun q => q.2.ent.quads.getLsbD (quadOf n)).map (·.1)).getD 32

/-- A record enters the device error log for core n's store: event 1 a corrected error, 8 an uncorrectable one (08 R181,
R183, 24 R404; the codes: log entry 30). -/
def logStore (s : State) (n code sector : Nat) : State := s.log n code (s.holderOf n) (32 * sector)

/-- A read of sectors corrects their single-bit errors, writes them back and logs each (08 R181). -/
def mend (s : State) (n : Nat) (sp : Space) (secs : List Nat) : State :=
  if (Space.codes sp (s.core n).st).all fun e => decide (e.2 ≠ 2) then s
  else secs.foldl (fun (s : State) i =>
    if (Space.codes sp (s.core n).st).get i = 2 then
      (s.modStore n fun st => Space.put sp st ((Space.codes sp st).set i 0)).logStore n 1 i
    else s) s

/-- What a write of ranges finds in the sectors it covers in part: an uncorrectable one is logged, a single-bit error is
corrected and logged (08 R183). -/
def noteWrite (s : State) (n : Nat) (sp : Space) (ranges : List (Nat × Nat)) : State :=
  let codes := Space.codes sp (s.core n).st
  if codes.all fun e => decide (e.2 = 1) then s
  else (ranges.flatMap fun r => sectorsOf r.1 r.2).foldl (fun (s : State) i =>
    if coversSector ranges i then s
    else if codes.get i = 3 then s.logStore n 8 i
    else if codes.get i = 2 then s.logStore n 1 i else s) s

/-- The part of a landing that writes a local store: the space and the ranges. -/
def Write.ranges : Write → Option (Space × List (Nat × Nat))
  | .xstore parts => some (.xstore, parts.map fun p => (p.1, p.2.length))
  | .wstore parts => some (.wstore, parts.map fun p => (p.1, p.2.length))
  | .beat row cols => some (.acc, [(256 * row, 4 * cols.length)])
  | .scaled row cols => some (.acc, [(256 * row, 4 * cols.length)])
  | .plane bank group nb rows =>
    some (.acc, (List.range nb).map fun j => (256 * (bank * 64 + 16 * group + j), 4 * (rows.getD j []).length))
  | _ => none

/-- The accumulator sectors whose old words a landing reads: it adds to them (08 R181, 09 R208, R209). -/
def Write.reads (w : Write) : List Nat :=
  match w with
  | .beat _ _ | .plane _ _ _ _ | .scaled _ _ => match Write.ranges w with
    | some q => q.2.flatMap fun r => sectorsOf r.1 r.2
    | none => []
  | _ => []

/-- One landing takes effect on core n: registers of its context, or the core's stores, then its flags. -/
def land (s : State) (n : Nat) (l : Landing) : State :=
  let x := 8 * n + l.ctx
  let s := match l.what with
    | .scalar r v => s.setRegS x r v
    | .vector r mask data => s.setRegV x r mask data
    | .mask r sel data => s.setRegK x r sel data
    | .ctl num v => s.landCtl x num v
    | w =>
      let s := s.mend n .acc (Write.reads w)
      let s := match Write.ranges w with
        | some q => s.noteWrite n q.1 q.2
        | none => s
      s.modStore n fun st => landStore st w
  s.orFlags x l.flags

/-- Lands, in order, every result of core n that is due by its present cycle. -/
def landDue (s : State) (n : Nat) : State :=
  let now := s.cyc n
  let due := (s.core n).landings.filter fun l => l.cycle ≤ now
  let rest := (s.core n).landings.filter fun l => ¬ l.cycle ≤ now
  if due.isEmpty then s
  else due.foldl (fun s l => s.land n l) (s.modCore n fun c => { c with landings := rest })

/-- A number for the next free value. -/
def fresh (s : State) : Nat × State := (s.free, { s with free := s.free + 1 })

/-! ### Epochs, versions and snapshots (12) -/

/-- The unit of a scope that holds core n (01 R11, 12 R263). -/
def unitOf (scope n : Nat) : Nat :=
  match scope with
  | 0 => n
  | 1 => n / 4
  | 2 => n / 96
  | _ => 0

def Visible.holds (v : Visible) (n : Nat) : Bool := decide (unitOf v.scope n = v.unit)

/-- A reader under a snapshot: its serial number as a writer, its core, the snapshot's number and epoch, the epoch below
which its own writes are its own, and the versions that happen before its reads. -/
structure Viewer where
  me : Nat
  core : Nat
  snap : Nat
  view : Nat
  lim : Nat
  known : List Nat
deriving DecidableEq, Repr

/-- The viewer of context x under a snapshot: what came to happen before it later than the snapshot is not in it (12 R269). -/
def viewer (s : State) (x snap lim view : Nat) : Viewer :=
  let m := (s.ctx x).mem
  ⟨m.me, coreOf x, snap, view, lim, (m.carry.filter fun p => p.2 ≤ snap).map (·.1)⟩

/-- Whether a version is visible to a viewer: its own write, one published at a scope that holds it, one that happens before
its snapshot, or, by a free value for the whole snapshot, one published narrower (12 R267, R269, R277). -/
def sees (w : Viewer) (v : Version) : Bool :=
  let before := v.seen.filter fun p => p.eo < w.view
  (decide (w.me ≠ 0 ∧ v.writer = w.me ∧ v.eo < w.lim)) || before.any (fun p => Visible.holds p w.core)
    || (!before.isEmpty && (w.known.contains v.eo || Config.narrowSeen w.snap v.eo w.me))

/-- The byte at a under a view: the published byte now, with the versions not seen taken back, newest first. -/
def viewByte (see : Version → Bool) (a : Nat) : List Version → BitVec 8 → BitVec 8
  | [], cur => cur
  | v :: vs, cur =>
    match v.old.find? (fun p => p.1 = a) with
    | none => viewByte see a vs cur
    | some p => if see v then cur else viewByte see a vs p.2

/-- A byte a line write holds. -/
def lineByte (a : Nat) (l : LineWrite) : Option (BitVec 8) :=
  if a / 128 = l.line ∧ l.mask.getLsbD (a % 128) then some (BitVec.ofNat 8 (l.data.toNat / 2 ^ (8 * (a % 128))))
  else none

/-- The byte the first line write that holds it gives. -/
def ownByte (a : Nat) : List LineWrite → Option (BitVec 8)
  | [] => none
  | l :: ls => match lineByte a l with
    | some b => some b
    | none => ownByte a ls

/-- Whether the first line write that holds the byte holds it poisoned; none where no line write holds it. -/
def ownPoison (a : Nat) : List LineWrite → Option Bool
  | [] => none
  | l :: ls => match lineByte a l with
    | some _ => some (l.poison.getLsbD (a % 128 / 32))
    | none => ownPoison a ls

/-- Whether a read of the byte with these own writes meets poison (08 R182). -/
def poisonedByte (s : State) (own : List LineWrite) (a : Nat) : Bool :=
  match ownPoison a own with
  | some b => b
  | none => s.poison.get (a / 32) != 0

/-- The events of the epoch order that context x has posted in earlier bundles: those of the bundle that issues now are not
before its slots (00 R8, 12 R264). -/
def postedBefore (s : State) (x : Nat) : List Pending :=
  let ps := (s.ctx x).mem.pubs
  if s.cur.live && decide (s.cur.ctx = x) then ps.take s.cur.posted else ps

/-- The object that a posted update at the home names, by its address (10 R246, 17 R334). -/
def After.object : After → Option Nat
  | .arm va _ _ => some va
  | .arrive va _ _ => some va
  | .decide _ va _ => some va
  | _ => none

/-- Whether n bytes at va share a line with an atomic, an ldacq or a posted update of an earlier bundle of context x that has
still to be performed. DEDUCED (log entry 10): coherence orders accesses of one context to one location (12 R277). -/
def homeMeets (s : State) (x va n : Nat) : Bool :=
  let meets := fun (a : Nat) => decide (va / 128 ≤ a / 128 ∧ a / 128 ≤ (va + n - 1) / 128 ∧ n ≠ 0)
  ((s.ctx x).mem.ops.any fun o => o.home.isSome && decide (o.issued < s.pkg.now) && meets o.va)
    || (s.postedBefore x).any fun p => (After.object p.after).any meets

/-- Whether an access issued before a fence of context x has still to be performed: later ones wait (12 R279). -/
def fenced (s : State) (x : Nat) : Bool :=
  let m := (s.ctx x).mem
  m.ops.any fun o => decide (o.order < m.fences)

/-- Whether accesses of context x to ranges are held back: by an access before a fence or by an ldacq of an earlier bundle
(12 R279), or by an atomic or a posted update of one that has still to reach a line of theirs. -/
def homeAheadOf (s : State) (x : Nat) (reqs : List (Nat × Nat × Nat)) : Bool :=
  s.fenced x || ((s.ctx x).mem.ops.any fun o => decide (o.home = some .acquire ∧ o.issued < s.pkg.now))
    || reqs.any fun r => s.homeMeets x r.1 r.2.1

def homeAhead (s : State) (reqs : List (Nat × Nat × Nat)) : Bool := s.homeAheadOf s.cur.ctx reqs

/-- Whether an atomic or ldacq of an earlier bundle has still to be performed: a fork whose ranges the engine finds later
waits for it, so that the engine sees its write (12 R277). -/
def homeOut (s : State) : Bool :=
  (s.ctx s.cur.ctx).mem.ops.any fun o => o.home.isSome && decide (o.issued < s.pkg.now)

/-- Whether a fork whose ranges the engine finds later waits: for an access before a fence (12 R279), or as `homeOut` says. -/
def forkHeld (s : State) : Bool := s.homeOut || s.fenced s.cur.ctx

/-- Whether an event of the issuing context that takes its place in the epoch order at once would come before one of its past:
an event posted in an earlier bundle, or an atomic or ldacq of one (12 R265). -/
def outOfTurn (s : State) : Bool := !(s.postedBefore s.cur.ctx).isEmpty || s.homeOut

/-- The held mode of a context, entered or awaited. -/
def heldModeOf (m : CtxMem) : Option HeldMode := m.held.orElse fun _ => m.entering

/-- The held writes of a context, and for the check of an open pair the surrogate's parked writes, which come before its
unpublished writes (17 R329, R335). -/
def heldWrites (s : State) (x : Nat) : List LineWrite :=
  (match heldModeOf (s.ctx x).mem with | some h => h.lines | none => [])
    ++ (match (s.ctx x).task with
        | some t => ((s.part t.part).pairs.filter fun p => p.check = t.slot).flatMap fun p =>
            ((s.part t.part).parked.filter fun k => k.slot = p.surrogate).flatMap (·.lines)
        | none => [])

/-- Its unpublished writes, and those of publications that wait, the newer first (12 R266, R269). -/
def laterWrites (m : CtxMem) : List LineWrite := m.unpub ++ m.pubs.reverse.flatMap (·.lines)

/-- Every unpublished or held write of a context, the ones to be preferred first (12 R269, 17 R329). -/
def ownWrites (s : State) (x : Nat) : List LineWrite :=
  let m := (s.ctx x).mem
  s.heldWrites x ++ m.landed.map (·.2) ++ laterWrites m

/-- The same without the writes of engines that it has not joined, as ldacq takes them (12 R280). -/
def joinedWrites (s : State) (x : Nat) : List LineWrite := s.heldWrites x ++ laterWrites (s.ctx x).mem

/-- The byte at physical address a that a plain read with these own writes, published before `lim` or not yet, and this
snapshot returns (12 R269). -/
def plainByte (s : State) (x : Nat) (own : List LineWrite) (snap lim : Nat) (view : Option Nat) (a : Nat) : BitVec 8 :=
  match ownByte a own with
  | some b => b
  | none => match view with
    | some n => viewByte (sees (s.viewer x snap lim n)) a s.versions (s.mem.get a)
    | none => s.mem.get a

/-- A plain read of context x at physical address a. -/
def loadByte (s : State) (x a : Nat) : BitVec 8 :=
  s.plainByte x (s.ownWrites x) (s.ctx x).mem.snap s.pkg.eo (s.ctx x).mem.view a

/-- Whether a version is visible everywhere. -/
def Version.everywhere (v : Version) : Bool := v.seen.any fun p => decide (5 ≤ p.scope)

/-- The versions, not visible everywhere, that reads of bytes with these own writes return (12 R266, R269). -/
def readVersions (s : State) (x : Nat) (own : List LineWrite) (snap lim : Nat) (view : Option Nat) (as_ : List Nat) :
    List Nat :=
  if s.versions.all Version.everywhere then []
  else
    let see := fun v => match view with | some n => sees (s.viewer x snap lim n) v | none => true
    as_.foldl (fun acc a =>
      if (ownByte a own).isSome then acc
      else match s.versions.find? fun v => v.old.any (fun p => p.1 = a) && see v with
        | some v => if Version.everywhere v || acc.contains v.eo then acc else v.eo :: acc
        | none => acc) []

/-- Versions come to happen before the next event of context x (12 R266). -/
def learn (s : State) (x : Nat) (es : List Nat) : State :=
  if es.isEmpty then s
  else s.modMem x fun m => { m with
    carry := es.foldl (fun acc e => if acc.any fun p => p.1 = e then acc else (e, s.free) :: acc) m.carry }

/-- Plain reads of context x at bytes: the versions they return are its own to carry. -/
def learnReads (s : State) (x : Nat) (as_ : List Nat) : State :=
  let m := (s.ctx x).mem
  s.learn x (s.readVersions x (s.ownWrites x) m.snap s.pkg.eo m.view as_)

/-- Opens a snapshot of context x (12 R266, R270). -/
def snapshot (s : State) (x : Nat) : State :=
  ({ s with free := s.free + 1 }).modMem x fun m =>
    { m with view := some s.pkg.eo, snap := s.free, holding := [], kept := [] }

/-- Ends the snapshot of context x: what it held back and the versions retained for it go (12 R270, R271). -/
def dropSnapshot (s : State) (x : Nat) : State := s.modMem x fun m => { m with view := none, holding := [], kept := [] }

/-- The bytes of a line write: address and value. -/
def lineCells (l : LineWrite) : List (Nat × BitVec 8) :=
  (List.range 128).filterMap fun i =>
    if l.mask.getLsbD i then some (128 * l.line + i, BitVec.ofNat 8 (l.data.toNat / 2 ^ (8 * i))) else none

/-! ### Requests at the memory channels (22 R377 to R380) -/

/-- Whether a channel holds a request at a physical address now: it is stopped or blocked, or the line's bank refreshes
(22 R378, R380). -/
def channelHolds (s : State) (pa : Nat) : Bool :=
  let c := s.channel (channelOf pa)
  decide (pa / 2 ^ 40 = s.pkg.number) && (decide (c.cap = 3) || decide (s.pkg.now < c.blocked)
    || c.busy.any fun b => decide (s.pkg.now < b.2) && decide (b.1 = bankOf pa))

/-- Bursts of 128 bytes that a channel gives in a microsecond under its cap, of the 800 that 102.4 GB/s makes (01 R17,
22 R380; log entry 69). -/
def burstLimit (cap : Nat) : Nat := 200 * (4 - cap)

/-- Whether the cap of a channel is spent for this microsecond. -/
def capSpent (s : State) (ch : Nat) : Bool :=
  let c := s.channel ch
  decide (1 ≤ c.cap) && decide (c.window = s.pkg.now / 1000000) && decide (burstLimit c.cap ≤ c.bursts)

/-- Whether the request of a unit still stands: an access of context u, an engine operation of core u − 8,000, a ring's
transfer of core u − 9,000, a row of core u − 10,000, the oldest held request of master u − 11,000, what front end u − 13,000
reads, or the dispatcher of die u − 14,000 for a partition, with 15 for its ring; a line written back stands until it is
served. -/
def requestLives (s : State) (u id : Nat) : Bool :=
  if u < 8000 then (s.ctx u).mem.ops.any fun o => decide (o.id = id)
  else if u < 9000 then (s.core (u - 8000)).engines.any fun e => decide (e.id = id)
  else if u < 10000 then ((s.core (u - 9000)).rings.get resetRing id).owner.isSome
  else if u < 11000 then ((s.core (u - 10000)).streams.get resetStream id).opened
  else if u < 12000 then !(s.master (u - 11000)).requests.isEmpty
  else if u < 13000 then true
  else if u < 14000 then (s.front (u - 13000)).bound && !(s.front (u - 13000)).halted
  else if u < 14008 then (s.part id).queues.any fun q => decide (q.1 / 16 = u - 14000) && !q.2.isEmpty
  else decide ((s.part id).ent.ringHead ≠ (s.part id).ent.ringTail)

/-- Whether a request for a line is served at its channel now: nothing holds it there, and none for its bank is older
(22 R377, R378). -/
def lineReady (s : State) (u id line : Nat) : Bool :=
  let ch := channelOf (128 * line)
  !s.channelHolds (128 * line) && !s.capSpent ch
    && match (s.channel ch).waiting.find? fun w => decide (w.1 = bankOf (128 * line)) && s.requestLives w.2.1 w.2.2 with
      | some w => decide (w.2 = (u, id))
      | none => true

/-- A request joins the queue of its line's bank. -/
def queueLine (u id : Nat) (s : State) (line : Nat) : State :=
  let ch := channelOf (128 * line)
  let c := s.channel ch
  let w := (bankOf (128 * line), u, id)
  if c.waiting.contains w then s
  else s.setChannel ch { c with waiting := (c.waiting.filter fun v => s.requestLives v.2.1 v.2.2) ++ [w] }

/-- A request is served: it leaves the queue, and its burst counts. -/
def serveLine (u id : Nat) (s : State) (line : Nat) : State :=
  let ch := channelOf (128 * line)
  let c := s.channel ch
  if c.waiting.isEmpty ∧ c.cap = 0 then s
  else
    let now := s.pkg.now / 1000000
    s.setChannel ch { c with
      waiting := c.waiting.filter fun v => decide (v.2 ≠ (u, id))
      window := now, bursts := (if c.window = now then c.bursts else 0) + 1 }

/-- The lines that walks read for a request of unit u are kept until it is served (22 R386). -/
def keepWalks (s : State) (u id : Nat) : State :=
  if s.cur.walked.isEmpty then s
  else
    let k := walksKey u id
    let live : Tab (List Nat) := s.recs.walks.filter fun q => s.requestLives (q.1 % 16384) (q.1 / 16384)
    ({ s with recs := { s.recs with walks := live.put k (s.recs.walks.get [] k ++ s.cur.walked) } } : State).modCur fun c => { c with walked := [] }

/-- The lines that walks read are not waited for. -/
def forgetWalks (s : State) : State := if s.cur.walked.isEmpty then s else s.modCur fun c => { c with walked := [] }

/-- The request has been served. -/
def dropWalks (s : State) (u id : Nat) : State :=
  if (s.recs.walks.get [] (walksKey u id)).isEmpty then s
  else { s with recs := { s.recs with walks := s.recs.walks.filter fun q => ¬ q.1 = walksKey u id } }

/-- A dirty line leaves its slice: its write waits at its channel as any request does (22 R377, R380, R382). -/
def queueBack (s : State) (line : Nat) : State := queueLine 12000 line s line

/-- The lines written back that a channel can take now are served, each in its turn. -/
def drainBacks (s : State) (ch : Nat) : State :=
  ((s.channel ch).waiting.filter fun w => decide (w.2.1 = 12000)).foldl (fun (s : State) w =>
    if s.lineReady w.2.1 w.2.2 w.2.2 then serveLine w.2.1 w.2.2 s w.2.2 else s) s

/-! ### The L2 slices (01 R20, 22 R377, R382, R383) -/

def poweredDies (s : State) : List Nat := (List.range 8).filter fun d => !(s.die d).gated

/-- Whether a line of a physical address is cached in this package's slices: device memory of the package that is not
homed in near memory, while a die is powered (01 R20, 16 R322, 22 R377). -/
def cacheable (s : State) (line : Nat) : Bool :=
  !s.poweredDies.isEmpty && decide (line / 2 ^ 33 % 64 = s.pkg.number) && decide (line / 2 ^ 44 % 2 = 0) && !s.near.contains line

/-- The home slice of a line, die × 48 + slice: that of its live load-block, else the hash's choice (01 R20, 10 R254). -/
def homeSlice (s : State) (line : Nat) : Nat :=
  match s.blocks.find? fun b => b.pas.contains line with
  | some b => b.slice
  | none =>
    let ds := s.poweredDies
    let h := Config.homeHash (ds.foldl (fun m d => m + 2 ^ d) 0) line % (48 * max 1 ds.length)
    48 * ds.getD (h / 48) 0 + h % 48

/-- Whether line m has its home in the set that a line falls into in a slice (22 R382). -/
def inSlice (s : State) (slice line m : Nat) : Bool := decide (m % 512 = line % 512) && decide (s.homeSlice m = slice)

/-- Whether line m has its home in the set of a line. -/
def inSetOf (s : State) (line m : Nat) : Bool :=
  decide (m % 512 = line % 512) && (decide (m = line) || decide (s.homeSlice m = s.homeSlice line))

/-- Whether an L2 slice holds a line. -/
def inL2 (s : State) (line : Nat) : Bool := s.cacheable line && s.l2.any fun e => decide (e.line = line)

/-- The lines the streams of core c pin in the slices. -/
def corePins (c : Core) : List Nat :=
  c.streams.flatMap fun v =>
    if v.2.opened then ((if v.2.keep then v.2.lines else v.2.lines.drop v.2.pos).filter fun l => !v.2.loose.contains l) else []

/-- The lines of a set, which `mine` tells, that are never evicted: those of live load-blocks, and the pinned ones. -/
def fixedIn (s : State) (mine : Nat → Bool) : List Nat :=
  let ls := ((s.blocks.flatMap (·.pas)) ++ s.cores.flatMap fun c => corePins c.2).filter mine
  ls.foldl (fun acc l => if acc.contains l then acc else l :: acc) []

/-- The line of a version. -/
def Version.touches (v : Version) (line : Nat) : Bool := v.old.any fun p => decide (p.1 / 128 = line)

/-- Whether a ring still holds the snapshot of its fork (12 R270). -/
def Ring.holds (r : Ring) : Bool :=
  r.owner.isSome && r.failed.isNone && !(r.read && decide (r.tiles ≤ r.moved))

/-- The viewer of context x's own snapshot, where it holds one. -/
def ownView (s : State) (x : Nat) : Option Viewer :=
  (s.ctx x).mem.view.map (s.viewer x (s.ctx x).mem.snap s.pkg.eo)

/-- The held snapshots but that of context x: contexts', engines' and rings' (12 R270, R271). DESIGN CHOICE (log entry 66): an
open stream holds back no publication, since later values of its lines are allowed (09 R217). -/
def heldViews (s : State) (x : Nat) : List Viewer :=
  (((s.ctxs.map (·.1)).filter fun y => decide (y ≠ x)).filterMap s.ownView)
    ++ s.cores.flatMap fun c =>
      (c.2.engines.filterMap fun e => e.view.map (s.viewer e.ctx e.snap e.eo))
        ++ c.2.rings.filterMap fun r => match r.2.owner with
          | some y => if Ring.holds r.2 then r.2.view.map (s.viewer y r.2.snap r.2.eo) else none
          | none => none

/-- Whether a snapshot needs a version older than v, a line's current one: it lies before v and does not return it (12 R271). -/
def Viewer.older (w : Viewer) (v : Version) : Bool := decide (w.view ≤ v.eo) && !sees w v

/-- A line's current version. -/
def currentOf (s : State) (line : Nat) : Option Version := s.versions.find? fun v => Version.touches v line

/-- The lines of a set whose prior version a held snapshot needs (12 R271). -/
def priorsIn (s : State) (x : Nat) (mine : Nat → Bool) : List Nat :=
  let views := s.heldViews x
  if views.isEmpty then []
  else
    let ls := s.versions.foldl (fun acc v => v.old.foldl (fun acc p =>
      let l := p.1 / 128
      if acc.contains l || !mine l || !s.cacheable l then acc else l :: acc) acc) []
    ls.filter fun l => (s.currentOf l).any fun v => views.any fun w => Viewer.older w v

/-- The lines of a context with a private version in a version way. -/
def privateLines (m : CtxMem) : List Nat :=
  (m.unpub ++ m.pubs.flatMap (·.lines) ++ m.landed.map (·.2)).foldl (fun acc w =>
    if (w.home = .spilled ∨ w.home = .engine) ∧ w.line ∉ acc then w.line :: acc else acc) []

/-- Private and retained versions that stand in the version ways of a set, those that engines wrote among them (12 R268, R271,
R274, 22 R383). -/
def privatesIn (s : State) (mine : Nat → Bool) : Nat :=
  s.ctxs.foldl (fun acc c => acc + ((privateLines c.2.mem ++ (c.2.mem.kept.filter (·.2)).map (·.1)).filter mine).length) 0

/-- The general ways of a set that prior versions have taken (22 R383). -/
def overflowIn (s : State) (mine : Nat → Bool) : Nat := (s.priorsIn 8000 mine).length + s.privatesIn mine - 2

/-- Whether the prior versions that a publication of lines by context x makes find ways (22 R383). -/
def versionWays (s : State) (x : Nat) (lines : List Nat) : Bool :=
  (s.heldViews x).isEmpty || (lines.filter s.cacheable).all fun l =>
    let mine := s.inSetOf l
    let ls := (lines.filter mine).foldl (fun acc k => if acc.contains k then acc else k :: acc) (s.priorsIn x mine)
    decide (ls.length + s.privatesIn mine - 2 + (s.fixedIn mine).length ≤ 12)

/-- The general ways of a set within its room: the least recently used line that may be evicted goes first; a dirty one is
written back, which memory already shows. -/
def evict (fixed : List Nat) : Nat → Nat → List L2Line → List L2Line
  | 0, _, ls => ls
  | fuel + 1, room, ls =>
    if ls.length ≤ room then ls
    else match ls.reverse.find? fun e => !fixed.contains e.line with
      | some e => evict fixed fuel room (ls.filter fun k => k.line ≠ e.line)
      | none => ls

/-- A line is used in its home slice: filled if absent, and first in the order of use; a dirty line that gives way is written
back (22 R382). -/
def touchL2 (s : State) (line : Nat) (dirty : Bool) : State :=
  if s.cacheable line then
    let mine := s.inSetOf line
    let was := s.l2.any fun e => decide (e.line = line) && e.dirty
    let ls := ⟨line, s.homeSlice line, dirty || was⟩ :: s.l2.filter fun e => e.line ≠ line
    let set := ls.filter fun e => mine e.line
    let kept := evict (s.fixedIn mine) 16 (12 - s.overflowIn mine) set
    let gone := set.filter fun e => !kept.any fun k => decide (k.line = e.line)
    (gone.filter (·.dirty)).foldl (fun (s : State) e => s.queueBack e.line)
      { s with l2 := ls.filter fun e => !gone.any fun g => decide (g.line = e.line) }
  else s

def touchLines (s : State) (ls : List Nat) (dirty : Bool) : State := ls.foldl (fun (s : State) l => s.touchL2 l dirty) s

/-- A line leaves its slice, written back where it is dirty. -/
def dropL2 (s : State) (line : Nat) : State :=
  let s1 : State := { s with l2 := s.l2.filter fun e => e.line ≠ line }
  if s.l2.any (fun e => decide (e.line = line) && e.dirty) then s1.queueBack line else s1

/-- The slices of the dies that are powered no longer hold what the new hash homes elsewhere; a gated die's hold nothing.
Dirty lines are written back (01 R20; log entry 64). -/
def rehash (s : State) : State :=
  let ds := s.poweredDies
  let s : State := { s with blocks := s.blocks.filter fun b => ds.contains (b.slice / 48) }
  let stays := fun (e : L2Line) => s.cacheable e.line && decide (s.homeSlice e.line = e.slice)
  ((s.l2.filter fun e => e.dirty && !stays e).map (·.line)).foldl queueBack { s with l2 := s.l2.filter stays }

/-- The distinct lines of bytes. -/
def linesOfCells (cells : List (Nat × BitVec 8)) : List Nat :=
  cells.foldl (fun acc c => if acc.contains (c.1 / 128) then acc else (c.1 / 128) :: acc) []

/-- Publishes bytes at one epoch point (12 R265). A publication that writes nothing makes no version. -/
def publishCells (s : State) (writer scope unit : Nat) (cells : List (Nat × BitVec 8)) : State :=
  if cells.isEmpty then { s with pkg := { s.pkg with eo := s.pkg.eo + 1 } }
  else
    let old := cells.map fun c => (c.1, s.mem.get c.1)
    ({ s with
      mem := cells.foldl (fun m c => m.set c.1 c.2) s.mem
      versions := ⟨s.pkg.eo, writer, [⟨s.pkg.eo, scope, unit⟩], [], old⟩ :: s.versions
      pkg := { s.pkg with eo := s.pkg.eo + 1 } } : State).touchLines (linesOfCells cells) true

/-- The version just published carries a release. -/
def addRelease (s : State) (r : Release) : State :=
  match s.versions with
  | v :: vs => { s with versions := { v with rels := v.rels ++ [r] } :: vs }
  | [] => s

/-- Sectors of a line whose 32 bytes a mask covers. -/
def wholeSectors (mask : BitVec 128) : BitVec 4 :=
  BitVec.ofNat 4 ((List.range 4).foldl (fun acc i => if mask.toNat / 2 ^ (32 * i) % 2 ^ 32 = 2 ^ 32 - 1 then acc + 2 ^ i else acc) 0)

/-- The sectors a line write brings poisoned. -/
def poisonSectors (l : LineWrite) : List Nat :=
  ((List.range 4).filter fun i => l.poison.getLsbD i).map fun i => 4 * l.line + i

/-- Poison of sectors a publication covers whole is cleared (08 R183). -/
def repairPoison (s : State) (cells : List (Nat × BitVec 8)) : State :=
  if s.poison.isEmpty then s
  else { s with poison := s.poison.filter fun p =>
    ¬ ((List.range 32).all fun i => cells.any fun c => decide (c.1 = 32 * p.1 + i)) }

/-- A publishing agent: its serial number as a writer, its core, and the versions that happen before its next event. -/
structure Agent where
  me : Nat
  core : Nat
  knows : List Nat
deriving DecidableEq, Repr

def agent (s : State) (x : Nat) : Agent := ⟨(s.ctx x).mem.me, coreOf x, (s.ctx x).mem.carry.map (·.1)⟩

/-- The release of an agent at a place of the epoch order and a scope, as versions carry it: what happens before it, at every
byte or at those of a strel's doubleword (12 R272, R273). -/
def Agent.release (g : Agent) (eo scope : Nat) (word : Option Nat) : Release :=
  ⟨eo, scope, g.core, g.knows, [], word.map fun a => (List.range 8).map (a / 8 * 8 + ·)⟩

/-- Widens the versions that happen before a publication of an agent, those its reads returned among them, to a scope
(12 R266). A release begins a sequence at each write it makes visible (12 R273). -/
def widen (s : State) (g : Agent) (scope : Nat) (release : Bool) : State :=
  if g.knows.isEmpty then s
  else { s with versions := s.versions.map fun v =>
    if !g.knows.contains v.eo || v.seen.any (fun p => decide (p.scope ≥ scope) && Visible.holds p g.core) then v
    else { v with
      seen := v.seen ++ [⟨s.pkg.eo, scope, unitOf scope g.core⟩]
      rels := if release then v.rels ++ [Agent.release g s.pkg.eo scope none] else v.rels } }

/-- A publication of lines by an agent, with the widening it carries (12 R266). A release is carried by everything it makes
visible, that of a strel by its own store alone (12 R273). -/
def publishAs (s : State) (g : Agent) (scope : Nat) (lines : List LineWrite) (release : Bool) (word : Option Nat) : State :=
  let cells := lines.reverse.flatMap lineCells
  let g' : Agent := { g with knows := if cells.isEmpty then g.knows else s.pkg.eo :: g.knows }
  let r := Agent.release g' s.pkg.eo scope word
  let s := ((s.widen g' scope (release && word.isNone)).publishCells g.me scope (unitOf scope g.core) cells).repairPoison cells
  let s := if release && !cells.isEmpty then s.addRelease r else s
  let bad := lines.flatMap poisonSectors
  if bad.isEmpty then s else { s with poison := setPoison s.poison bad }

/-- Whether a private version of a line finds a version way of its set, beside `more` other new ones (12 R268, 22 R383). -/
def wayFree (s : State) (line more : Nat) : Bool :=
  let mine := s.inSetOf line
  decide ((s.priorsIn 8000 mine).length + s.privatesIn mine + more < 2)

/-- Before context x makes a new version of lines, the versions that its own snapshot needs and that the prior one kept will
not be are retained for it, in a version way or the spill area (12 R271). -/
def retain (s : State) (x : Nat) (lines : List Nat) : State :=
  match s.ownView x with
  | none => s
  | some w => lines.foldl (fun (s : State) l =>
      if s.cacheable l && !((s.ctx x).mem.kept.any fun k => decide (k.1 = l)) && (s.currentOf l).any (Viewer.older w) then
        let way := s.wayFree l 0
        s.modMem x fun m => { m with kept := (l, way) :: m.kept }
      else s) s

/-- publish(ctx, S) of the given lines (12 R266). The publication happens before the context's next event. -/
def publishLines (s : State) (x scope : Nat) (lines : List LineWrite) (release : Bool) (word : Option Nat) : State :=
  let s := s.retain x (lines.map (·.line))
  (s.publishAs (s.agent x) scope lines release word).learn x (if lines.isEmpty then [] else [s.pkg.eo])

/-- Whether a release synchronises with an acquire at scope `sc` on core n that reads a write of its sequence: each is of the
other's scope, and the read-modify-writes since all hold the core (12 R272, R273). -/
def Release.meets (r : Release) (n sc : Nat) : Bool :=
  decide (unitOf r.scope r.core = unitOf r.scope n ∧ unitOf sc n = unitOf sc r.core) && r.via.all fun q => unitOf q.1 n = q.2

/-- What context x learns where it acquires at scope `sc` by reading a version (12 R272, R273). -/
def acquired (x sc pa : Nat) (v : Version) : List Nat :=
  v.eo :: v.rels.flatMap fun r => if Release.meets r (coreOf x) sc && r.bytes.all (·.contains pa) then r.knows else []

/-- The newest version of a byte. -/
def newestAt (s : State) (pa : Nat) : Option Version := s.versions.find? fun v => v.old.any fun p => p.1 = pa

/-- Context x reads the newest versions of bytes at the home: it learns them, and what it acquires where `acq` is a scope
(12 R266, R272, R273). -/
def readHome (s : State) (x : Nat) (as_ : List Nat) (acq : Option Nat) : State :=
  s.learn x (as_.flatMap fun pa => match s.newestAt pa with
    | none => []
    | some v => match acq with | some sc => acquired x sc pa v | none => [v.eo])

/-- The n bytes at an address. -/
def bytesFrom (a n : Nat) : List Nat := (List.range n).map (a + ·)

/-- The releases that the newest versions of bytes carry, each at the bytes that carry it. -/
def releasesAt (s : State) (as_ : List Nat) : List Release :=
  (s.versions.filter fun v => as_.any fun a => (s.newestAt a).any fun u => decide (u.eo = v.eo)).flatMap fun v =>
    let mine := as_.filter fun a => (s.newestAt a).any fun u => decide (u.eo = v.eo)
    v.rels.filterMap fun r =>
      match mine.filter fun a => r.bytes.all (·.contains a) with
      | [] => none
      | bs => some { r with bytes := some bs }

/-- The newest version is the write of a read-modify-write at a scope: it goes on the release sequences of the version it
read, for acquirers inside its own scope instance (12 R273). -/
def carryOn (s : State) (rels : List Release) (scope n : Nat) : State :=
  match s.versions with
  | v :: vs => { s with versions :=
      { v with rels := v.rels ++ rels.map fun r => { r with via := (scope, unitOf scope n) :: r.via } } :: vs }
  | [] => s

/-- A read-modify-write of context x at a home: it reads the newest versions of its bytes, and they are published at its scope,
the next write of the release sequences that it read (12 R267, R273, R281). -/
def homeUpdate (s : State) (x scope : Nat) (cells : List (Nat × BitVec 8)) : State :=
  let n := coreOf x
  let s := s.retain x (linesOfCells cells)
  let rels := s.releasesAt (cells.map (·.1))
  let s1 := ((s.readHome x (cells.map (·.1)) none).publishCells (s.ctx x).mem.me scope (unitOf scope n) cells).repairPoison cells
  (if rels.isEmpty then s1 else s1.carryOn rels scope n).learn x [s.pkg.eo]

/-- Hardware writes bytes at physical addresses at .sys, as an atomic or a system write does. -/
def sysWrite (s : State) (a : Nat) (bs : List (BitVec 8)) : State :=
  let cells := (List.range bs.length).map fun i => (a + i, bs.getD i 0)
  (s.publishCells 0 5 0 cells).repairPoison cells

/-- Version pressure for a line (12 R271): another held snapshot needs a version older than the current one, which a new version
leaves as the prior one kept. -/
def pressed (s : State) (x line : Nat) : Bool :=
  (s.currentOf line).any fun v => (s.heldViews x).any fun w => Viewer.older w v

/-- The contexts whose snapshots hold back publications of a line by context x. -/
def holders (s : State) (x line : Nat) : List Nat :=
  match s.currentOf line with
  | none => []
  | some v => (s.ctxs.map (·.1)).filter fun y => decide (y ≠ x) && (s.ownView y).any fun w => Viewer.older w v

/-! ### Unpublished writes (08 R193, 12 R268) -/

def clearMask (l : LineWrite) (line : Nat) (mask : BitVec 128) : LineWrite :=
  if l.line = line then { l with mask := l.mask &&& ~~~mask, poison := l.poison &&& ~~~wholeSectors mask } else l

/-- A line's data with masked bytes replaced. -/
def mergeLine (l : LineWrite) (mask : BitVec 128) (data : BitVec 1024) (poison : BitVec 4) : LineWrite :=
  let spread := (List.range 128).foldl (fun acc i => if mask.getLsbD i then acc + 255 * 2 ^ (8 * i) else acc) 0
  let m : BitVec 1024 := BitVec.ofNat 1024 spread
  { l with mask := l.mask ||| mask, data := (l.data &&& ~~~m) ||| (data &&& m)
           poison := (l.poison &&& ~~~wholeSectors mask) ||| poison }

/-- Adds bytes to the entry of one home for a line, or a new entry; the same bytes leave the entries of other homes. -/
def addLine (ls : List LineWrite) (w : LineWrite) : List LineWrite :=
  if ls.any (fun l => decide (l.line = w.line ∧ l.home = w.home)) then
    ls.map fun l => if l.line = w.line ∧ l.home = w.home then mergeLine l w.mask w.data w.poison else clearMask l w.line w.mask
  else w :: (ls.map fun l => clearMask l w.line w.mask)

/-- Store-buffer entries in use on core n, those of publications that wait among them (08 R193, 12 R266). -/
def bufferUse (s : State) (n : Nat) : Nat :=
  (List.range 8).foldl (fun acc c =>
    let m := (s.ctx (8 * n + c)).mem
    acc + ((m.unpub ++ m.pubs.flatMap (·.lines)).filter fun l => decide (l.home = .buffer)).length) 0

/-- Where a private version of a line goes: a version way of its set, or the partition's spill area (12 R268, 22 R383). -/
def privateHome (s : State) (line : Nat) : WriteHome := if s.wayFree line 0 then .spilled else .area

/-- Where an engine's write of context x to a line goes, beside those placed already with it (12 R274, 22 R383). -/
def engineHome (s : State) (x : Nat) (placed : List LineWrite) (line : Nat) : WriteHome :=
  let mates := placed.filter fun w => decide (w.home = .engine)
  if (privateLines (s.ctx x).mem).contains line || mates.any (fun w => decide (w.line = line)) then .engine
  else if s.wayFree line (mates.filter fun w => s.inSetOf line w.line).length then .engine
  else .strays

/-- The oldest buffer entry of a list, which keeps the newest first, becomes a private version (12 R268); none where it has no
buffer entry. -/
def spillFrom (s : State) (ls : List LineWrite) : Option (List LineWrite) :=
  (ls.reverse.find? fun l => decide (l.home = .buffer)).map fun o =>
    ls.map fun l => if l = o then { l with home := s.privateHome o.line } else l

/-- The oldest buffer entry of a context becomes a private version: those of the publications that wait are older than the
unpublished ones (12 R266, R268). -/
def spillOldest (s : State) (m : CtxMem) : Option CtxMem :=
  match m.pubs.findIdx? fun p => p.lines.any fun l => decide (l.home = .buffer) with
  | some i => some { m with pubs := m.pubs.modify i fun p => { p with lines := (s.spillFrom p.lines).getD p.lines } }
  | none => (s.spillFrom m.unpub).map fun ls => { m with unpub := ls }

/-- Whether the store buffer of context x's core has no entry for some of its lines: each merges into its context's entry of
that line or takes a free one (08 R193). -/
def bufferShort (s : State) (x : Nat) (ls : List LineWrite) : Bool :=
  let m := (s.ctx x).mem
  let new := (ls.map (·.line)).foldl (fun acc l =>
    if acc.contains l || m.unpub.any (fun e => decide (e.line = l ∧ e.home = .buffer)) then acc else l :: acc) []
  !new.isEmpty && decide (256 < s.bufferUse (coreOf x) + new.length)

/-- Enters the bytes of one line into the store buffer, or the held buffer in held mode (08 R193, 17 R329). With no
free entry the context's oldest entry is written home first (12 R268); with none of its own the bytes themselves go home
as a private version (log entry 15). -/
def enterLine (s : State) (x : Nat) (w : LineWrite) : State :=
  let m := (s.ctx x).mem
  match m.held with
  | some h => s.modMem x fun m => { m with held := some { h with lines := addLine h.lines { w with home := .held } } }
  | none =>
    if m.unpub.any (fun l => decide (l.line = w.line ∧ l.home = .buffer)) ∨ s.bufferUse (coreOf x) < 256 then
      s.modMem x fun m => { m with unpub := addLine m.unpub w }
    else match s.spillOldest m with
      | some m' => s.modMem x fun _ => { m' with unpub := addLine m'.unpub w }
      | none => s.modMem x fun m => { m with unpub := addLine m.unpub { w with home := s.privateHome w.line } }

/-- The line writes of n bytes at physical address a. -/
def linesOf (home : WriteHome) (va a : Nat) (bs : List (BitVec 8)) : List LineWrite :=
  if bs.isEmpty then []
  else
    (List.range ((a + bs.length - 1) / 128 - a / 128 + 1)).map fun i =>
      let line := a / 128 + i
      let idx := (List.range 128).filter fun j => decide (a ≤ 128 * line + j ∧ 128 * line + j < a + bs.length)
      { home := home, line := line, vline := (va - va % 128) / 128 + i
        poison := 0
        mask := BitVec.ofNat 128 (idx.foldl (fun acc j => acc + 2 ^ j) 0)
        data := BitVec.ofNat 1024 (idx.foldl (fun acc j =>
          acc + (bs.getD (128 * line + j - a) 0).toNat * 2 ^ (8 * j)) 0) }

def storeBytes (s : State) (x va a : Nat) (bs : List (BitVec 8)) : State :=
  (linesOf .buffer va a bs).foldl (fun s l => s.enterLine x l) s

/-- Lines a held buffer would hold after more writes (17 R330). -/
def heldLines (ls : List LineWrite) (more : List Nat) : Nat :=
  (more.foldl (fun acc l => if acc.contains l then acc else l :: acc) (ls.map (·.line))).length

/-! ### Translation (22 R376, R384 to R386) -/

inductive Access where
  | read | write | fetch
deriving DecidableEq, Repr

/-- A leaf found: its entry, its page bits, and the entry's own address. -/
structure Leaf where
  entry : BitVec 64
  size : Nat
  addr : Nat
deriving DecidableEq, Repr

def entryBit (e : BitVec 64) (i : Nat) : Bool := e.getLsbD i
def entryPa (e : BitVec 64) : Nat := bits e 51 12 * 4096

/-- Walks from level `lvl` with the table at `table` (22 R384, R385); none is an invalid entry. -/
def walkFrom (mem : Memory) (va : Nat) : Nat → Nat → Option Leaf
  | 0, _ => none
  | fuel + 1, table =>
    let lvl := 4 - fuel
    let shift := 43 - 9 * (lvl - 1)
    let addr := table + 8 * (va / 2 ^ shift % 512)
    let e : BitVec 64 := BitVec.ofNat 64 (mem.readNat addr 8)
    if !entryBit e 0 || decide (bits e 8 7 ≥ 2) then none
    else if lvl ≤ 2 then (if entryBit e 1 then none else walkFrom mem va fuel (entryPa e))
    else if lvl = 3 ∧ entryBit e 1 = false then walkFrom mem va fuel (entryPa e)
    else
      let size := if lvl = 3 then 25 else 16
      if entryPa e % 2 ^ size ≠ 0 then none else some ⟨e, size, addr⟩

/-- The entries a walk reads from a table on: the page bits of each and its address. -/
def walkReads (mem : Memory) (va : Nat) : Nat → Nat → List (Nat × Nat)
  | 0, _ => []
  | fuel + 1, table =>
    let z := 43 - 9 * (3 - fuel)
    let addr := table + 8 * (va / 2 ^ z % 512)
    let e : BitVec 64 := BitVec.ofNat 64 (mem.readNat addr 8)
    if entryBit e 0 && !(entryBit e 1) then (z, addr) :: walkReads mem va fuel (entryPa e) else [(z, addr)]

/-- The first uncorrectable entry of some. -/
def badOf (s : State) (es : List (Nat × Nat)) : Option Nat :=
  if s.poison.isEmpty then none else (es.find? fun e => s.poison.get (e.2 / 32) != 0).map (·.2)

/-- The first uncorrectable entry that a walk from the root reads. -/
def badEntry (s : State) (p va : Nat) : Option Nat := s.badOf (walkReads s.mem va 4 (s.part p).ent.root)

/-- A walk of partition p's tables from the root; an uncorrectable entry fails it (22 R386). -/
def walk (s : State) (p va : Nat) : Option Leaf :=
  if (s.badEntry p va).isSome then none else walkFrom s.mem va 4 (s.part p).ent.root

/-- A walk that reads an uncorrectable entry logs its sector (22 R386). -/
def logWalk (s : State) (p va : Nat) : State :=
  match s.badEntry p va with
  | some a => s.log 0 0x06 p a
  | none => s

/-- Whether a device address lies in the partition's channel groups (01 R24, 22 R376). -/
def inGroups (s : State) (p pa : Nat) : Bool :=
  decide (pa / 2 ^ 40 % 64 = s.pkg.number) && decide (pa / 2 ^ 36 % 16 < 12)
    && (s.part p).ent.groups.getLsbD ((pa / 2 ^ 36 % 16) * 8 + pa / 2 ^ 33 % 8)

/-- Whether a device address lies in the partition's groups or mappings (01 R24, 22 R376). -/
def permitted (s : State) (p pa : Nat) : Bool :=
  s.inGroups p pa || (s.part p).mapped.any fun r => decide (r.1 ≤ pa ∧ pa < r.1 + r.2)

/-- The first of n bytes of a page at a physical address that the partition may not reach: a mapping may end in the page, a
channel group not (01 R24, 22 R376). -/
def denied (s : State) (p pa n : Nat) : Option Nat :=
  if pa / 2 ^ 51 % 2 = 1 ∨ s.inGroups p pa = true ∨ (s.part p).mapped.any (fun r => decide (r.1 ≤ pa ∧ pa + n ≤ r.1 + r.2)) = true then none
  else (List.range n).find? fun i => !s.permitted p (pa + i)

/-- The check of an entry for an access: trap 0x07 where it fails (22 R376, R385). -/
def entryAllows (s : State) (p va : Nat) (k : Access) (l : Leaf) : Bool :=
  let pa := entryPa l.entry + va % 2 ^ l.size
  let perm := match k with
    | .read => entryBit l.entry 2
    | .write => entryBit l.entry 3
    | .fetch => entryBit l.entry 4
  let host := decide (pa / 2 ^ 51 % 2 = 1)
  let mtype := bits l.entry 8 7
  perm && (if host then decide (mtype = 1)
    else decide (mtype = 0) && decide (pa / 2 ^ 46 % 32 = 0) && decide (pa / 2 ^ 36 % 16 < 12) && s.permitted p pa)

/-- The cached leaf that covers va and serves the access: a clean entry serves no write (22 R386). -/
def cached (c : List (Nat × Nat × BitVec 64)) (va : Nat) (k : Access) : Option Leaf :=
  (c.find? fun e => decide (va / 2 ^ e.2.1 = e.1) && (decide (k ≠ .write) || entryBit e.2.2 6)).map
    fun e => ⟨e.2.2, e.2.1, 0⟩

/-- Puts an entry first in a cache, keeping the newest `cap` of its size (22 R386; replacement: log entry 16). -/
def cachePut (cap va : Nat) (l : Leaf) (c : List (Nat × Nat × BitVec 64)) : List (Nat × Nat × BitVec 64) :=
  let others := c.filter fun e => ¬ (e.1 = va / 2 ^ l.size ∧ e.2.1 = l.size)
  let same := others.filter fun e => e.2.1 = l.size
  let rest := others.filter fun e => ¬ e.2.1 = l.size
  (va / 2 ^ l.size, l.size, l.entry) :: (same.take (cap - 1) ++ rest)

/-- Whether an entry of some page bits maps pages, not a table. -/
def mapsPages (z : Nat) (e : BitVec 64) : Bool := decide (z = 16) || entryBit e 1

/-- The leaf of partition p that die translation unit keeps for va and that serves the access (22 R386). -/
def dieCached (s : State) (n p va : Nat) (k : Access) : Option Leaf :=
  ((s.die (dieOf n)).walks.find? fun e => mapsPages e.2.1 e.2.2 && decide (p * 2 ^ 40 + va / 2 ^ e.2.1 = e.1)
    && (decide (k ≠ .write) || entryBit e.2.2 6)).map fun e => ⟨e.2.2, e.2.1, 0⟩

/-- Where a walk of die d's unit begins: the levels left and their table, by the deepest entry it keeps, else the root
(22 R386). -/
def walkStart (s : State) (d p va : Nat) : Nat × Nat :=
  ([(1, 25), (2, 34), (3, 43)].findSome? fun q =>
    ((s.die d).walks.find? fun e => decide (e.2.1 = q.2 ∧ e.1 = p * 2 ^ 40 + va / 2 ^ q.2) && !mapsPages q.2 e.2.2).map
      fun e => (q.1, entryPa e.2.2)).getD (4, (s.part p).ent.root)

/-- The entries that a walk of die d's unit reads. -/
def walkPath (s : State) (d p va : Nat) : List (Nat × Nat) :=
  walkReads s.mem va (s.walkStart d p va).1 (s.walkStart d p va).2

/-- A walk of die d's unit; an uncorrectable entry fails it (22 R386). -/
def dieWalk (s : State) (d p va : Nat) : Option Leaf :=
  if (s.badOf (s.walkPath d p va)).isSome then none else walkFrom s.mem va (s.walkStart d p va).1 (s.walkStart d p va).2

/-- Puts an entry first in a die's cache of 2,048 (22 R386; replacement: log entry 16). -/
def keepWalk (p va : Nat) (l : Leaf) (ws : List (Nat × Nat × BitVec 64)) : List (Nat × Nat × BitVec 64) :=
  let key := p * 2 ^ 40 + va / 2 ^ l.size
  ((key, l.size, l.entry) :: ws.filter fun w => ¬ (w.1 = key ∧ w.2.1 = l.size)).take 2048

/-- Puts the entries that a walk read first in a die's cache, the deepest first of all. -/
def keepPath (mem : Memory) (p va : Nat) (es : List (Nat × Nat)) (ws : List (Nat × Nat × BitVec 64)) :
    List (Nat × Nat × BitVec 64) :=
  es.foldl (fun ws e => keepWalk p va ⟨BitVec.ofNat 64 (mem.readNat e.2 8), e.1, e.2⟩ ws) ws

/-- The lines of entries that no slice holds: a walk reads them from memory. -/
def coldLines (s : State) (es : List (Nat × Nat)) : List Nat := (es.map (·.2 / 128)).filter fun l => s.cacheable l && !s.inL2 l

/-- A walk reads entries at their homes; the access that needs it waits for those that come from memory (22 R382, R386). -/
def readPath (s : State) (es : List (Nat × Nat)) : State :=
  let cold := s.coldLines es
  (s.touchLines (es.map (·.2 / 128)) false).modCur fun c => { c with walked := c.walked ++ cold }

/-- The walker sets acc, and dirty on a write, by an update at .sys: the leaf as it then stands (22 R386). -/
def markLeaf (s : State) (l : Leaf) (wr : Bool) : Leaf × State :=
  let e : BitVec 64 := l.entry ||| 0x20 ||| (if wr then 0x40 else 0)
  ({ l with entry := e }, if e = l.entry then s else s.sysWrite l.addr (bitsToBytes 8 e))

/-- A walk of die d's unit that found a leaf which serves the access: the leaf with its marks, and the unit keeps what it read
(22 R386). -/
def walked (s : State) (d p va : Nat) (wr : Bool) (l : Leaf) : Leaf × State :=
  let es := s.walkPath d p va
  let q := (s.readPath es).markLeaf l wr
  (q.1, q.2.modDie d fun v => { v with walks := keepWalk p va q.1 (keepPath s.mem p va es v.walks) })

/-- Whether a translation needs a walk that reads an entry whose channel holds it now (22 R378, R380, R386). -/
def walkHeld (s : State) (n p va : Nat) (k : Access) : Bool :=
  (cached (s.core n).cache va k).isNone && (s.dieCached n p va k).isNone
    && (s.coldLines (s.walkPath (dieOf n) p va)).any fun l => s.channelHolds (128 * l) || s.capSpent (channelOf (128 * l))

/-- A translation: the physical address, and the state after the walk it needed, if any; or trap 0x06 or 0x07. The core's
cache serves it, else the die's, else a walk, which sets acc, and dirty on a write, at .sys (22 R386). -/
def translate (s : State) (n p va : Nat) (k : Access) : Except Nat (Nat × State) :=
  if 2 ^ 52 ≤ va then .error 0x06
  else match cached (s.core n).cache va k with
  | some l => if s.entryAllows p va k l then .ok (entryPa l.entry + va % 2 ^ l.size, s) else .error 0x07
  | none =>
    let keep := fun (l : Leaf) (s : State) =>
      (entryPa l.entry + va % 2 ^ l.size,
        s.modCore n fun c => { c with cache := cachePut (if l.size = 16 then 128 else 32) va l c.cache })
    match s.dieCached n p va k, s.dieWalk (dieOf n) p va with
    | some l, _ =>
      if s.entryAllows p va k l then .ok (keep l (s.modDie (dieOf n) fun d => { d with walks := keepWalk p va l d.walks }))
      else .error 0x07
    | none, none => .error 0x06
    | none, some l =>
      if s.entryAllows p va k l then
        let q := s.walked (dieOf n) p va (decide (k = .write)) l
        .ok (keep q.1 q.2)
      else .error 0x07

/-- The bytes from va on that lie in its 64 KiB page and before an address. -/
def bytesInPage (va stop : Nat) : Nat := min (va / 65536 * 65536 + 65536) stop - va

/-- Translates every page of the bytes before an address: the physical address of each 64 KiB piece, or the code and the lowest
failing address. -/
def translatePages (n p : Nat) (k : Access) (stop : Nat) : List Nat → State → Except (Nat × Nat) (List (Nat × Nat) × State)
  | [], s => .ok ([], s)
  | va :: vas, s =>
    match s.translate n p va k with
    | .error c => .error (c, va)
    | .ok (pa, s1) =>
      match s.denied p pa (bytesInPage va stop) with
      | some i => .error (0x07, va + i)
      | none => match translatePages n p k stop vas s1 with
        | .error e => .error e
        | .ok (l, s2) => .ok ((va, pa) :: l, s2)

/-- The first address of each 64 KiB page that n bytes at va touch. -/
def pagesOf (va n : Nat) : List Nat :=
  if n = 0 then []
  else (List.range ((va + n - 1) / 65536 - va / 65536 + 1)).map fun i =>
    if i = 0 then va else (va / 65536 + i) * 65536

/-- The physical address of va by the pages translated. -/
def physOf (pages : List (Nat × Nat)) (va : Nat) : Nat :=
  match pages.find? fun q => decide (q.1 / 65536 = va / 65536) with
  | some q => q.2 - q.1 % 65536 + va % 65536
  | none => 0

def translateRange (s : State) (cn p va n : Nat) (k : Access) : Except (Nat × Nat) (List (Nat × Nat) × State) :=
  translatePages cn p k (va + n) (pagesOf va n) s

/-- Whether a physical range lies in the partition's translation memory (22 R387). -/
def inTmem (s : State) (p pa n : Nat) : Bool :=
  (s.part p).ent.tmem.any fun r => decide (r.1 < pa + n ∧ pa < r.1 + r.2)

/-- Whether a physical range lies in the translation memory of any partition: no write of a context reaches it (22 R387). -/
def inAnyTmem (s : State) (pa n : Nat) : Bool := s.parts.any fun q => s.inTmem q.1 pa n

/-- The physical address of a partition's byte that hardware acting for the partition accesses: translated and checked as
any access of its agents is, and written outside translation memory (01 R24, 22 R376, R385, R387); nothing where it fails. -/
def hwPhys (s : State) (p va : Nat) (k : Access) : Option Nat :=
  match s.walk p va with
  | none => none
  | some l =>
    let pa := entryPa l.entry + va % 2 ^ l.size
    if s.entryAllows p va k l && !(decide (k = .write) && s.inAnyTmem pa 1) then some pa else none

/-- The walks of hardware that acts for a partition and accesses n bytes: their marks, the lines they use, and the
uncorrectable entries they log (22 R382, R386). -/
def hwWalks (s : State) (p va n : Nat) (k : Access) : State :=
  (pagesOf va n).foldl (fun (s : State) va =>
    match s.walk p va with
    | none => s.logWalk p va
    | some l =>
      if s.entryAllows p va k l && !(decide (k = .write) && s.inAnyTmem (entryPa l.entry + va % 2 ^ l.size) 1) then
        ((s.touchLines ((walkReads s.mem va 4 (s.part p).ent.root).map (·.2 / 128)) false).markLeaf l (decide (k = .write))).2
      else s) s

/-- Reads n bytes of partition memory as a .sys acquire. -/
def hwRead (s : State) (p va n : Nat) : Option (List (BitVec 8)) :=
  (List.range n).foldr (fun i acc =>
    match s.hwPhys p (va + i) .read, acc with
    | some a, some l => some (s.mem.get a :: l)
    | _, _ => none) (some [])

/-- The lines that hardware acting for a partition reads where it reads n bytes at va. -/
def hwLines (s : State) (p va n : Nat) : List Nat :=
  if n = 0 then []
  else (List.range ((va + n - 1) / 128 - va / 128 + 1)).filterMap fun i =>
    (s.hwPhys p (if i = 0 then va else (va / 128 + i) * 128) .read).map (· / 128)

def hwNat (s : State) (p va n : Nat) : Option Nat := (s.hwRead p va n).map ofBytesLE

/-- The cells that bytes written at va name: those whose page may be written. -/
def hwCells (s : State) (p va : Nat) (bs : List (BitVec 8)) : List (Nat × BitVec 8) :=
  (List.range bs.length).filterMap fun i => (s.hwPhys p (va + i) .write).map fun a => (a, bs.getD i 0)

/-- Writes bytes of partition memory at .sys; a byte whose page may not be written is lost and logged. DESIGN CHOICE (log entry
75): what hardware records on its own account waits for no version pressure (12 R271). -/
def hwWrite (s : State) (p va : Nat) (bs : List (BitVec 8)) : State :=
  let s := s.hwWalks p va bs.length .write
  let cells := s.hwCells p va bs
  let s1 := (s.publishCells 0 5 0 cells).repairPoison cells
  if cells.length = bs.length then s1 else s1.log 0 0x06 p va

/-! ### The sample buffer (23 R397 to R399) -/

/-- Writes one record of words: a filler to the end where it does not fit, the record, then the count. -/
def sample (s : State) (p : Nat) (words : List Nat) : State :=
  let e := (s.part p).ent
  let cap := e.sampSize / 4
  if cap = 0 then s
  else
    let off := e.sampCount % cap
    let left := cap - off
    let put := fun (s : State) (o : Nat) (ws : List Nat) => s.hwWrite p (e.sampBase + 4 * o) (ws.flatMap (bytesLE 4))
    let len := words.length
    let (s1, o, used) :=
      if left < len then
        (put s off ((0xA0000000 + (left - 1) * 2 ^ 25) :: List.replicate (left - 1) 0), 0, left + len)
      else (s, off, len)
    let s2 := put s1 o words
    s2.modPart p fun q => { q with ent := { q.ent with sampCount := (q.ent.sampCount + used) % 2 ^ 64 } }

/-- The header word of a record of context x (23 R398). -/
def sampleHeader (len type x : Nat) : Nat :=
  0xA0000000 + (len - 1) * 2 ^ 25 + type * 2 ^ 20 + x % 8 * 2 ^ 17 + x / 768 * 2 ^ 14 + x / 8 % 96 * 2 ^ 7

/-- A four-word record with its time and two words of body. -/
def sampleRecord (s : State) (p type x w2 w3 : Nat) : State :=
  s.sample p [sampleHeader 4 type x, s.ptime.toNat % 2 ^ 32, w2 % 2 ^ 32, w3 % 2 ^ 32]

/-- A record that is written only when the mask enables its type (23 R397). -/
def sampleIf (s : State) (p type x w2 w3 : Nat) : State :=
  if (s.part p).ent.sampMask / 2 ^ type % 2 = 1 then s.sampleRecord p type x w2 w3 else s

/-! ### Tags (10 R232, R233) -/

def statusRank (st : Nat) : Nat :=
  match st with
  | 3 => 1 | 2 => 2 | 4 => 3 | 1 => 4 | _ => 0

def setTag (s : State) (x t : Nat) (f : Tag → Tag) : State :=
  s.modCtx x fun c => { c with tags := c.tags.put t (f (c.tags.get resetTag t)) }

def bindTag (s : State) (x t : Nat) : State :=
  s.setTag x t fun g =>
    let g := if g.pend = 0 then { g with ready := false, st := 0, fa := 0 } else g
    { g with pend := g.pend + 1 }

def completeTag (s : State) (x t st : Nat) (fa : BitVec 64) : State :=
  s.setTag x t fun g =>
    let g := if statusRank st > statusRank g.st then { g with st := st, fa := fa } else g
    { g with pend := g.pend - 1, ready := g.ready || decide (g.pend - 1 = 0) }

/-! ### Latency symbols (19) -/

/-- One sample enters one symbol of its source (19 R344, R346, R348). -/
def admitSample (mhz hys d : Nat) (y : Symbol) : Symbol :=
  let c := cycOf mhz d
  if c < y.min ∨ y.max < c then y
  else
    let w := (if y.window.length < y.win then y.window else y.window.drop 1) ++ [d]
    let y := { y with window := w, request := y.request || decide (y.b < c) }
    reconsider mhz hys y

/-- A sample of a source for context x: it enters the windows whose range holds it, and a range it leaves raises the
latency bound fault once (19 R346). -/
def giveSample (s : State) (x src d : Nat) : State :=
  let mhz := (s.die (dieOf (coreOf x))).mhz
  let hys := bits (s.ctl x 0x030) 15 0
  let c := cycOf mhz d
  let syms := (s.ctx x).syms
  let out := syms.filter fun y => decide (y.2.src = src) && (decide (c < y.2.min) || decide (y.2.max < c))
  let s := s.modCtx x fun k => { k with syms := k.syms.map fun y =>
    if y.2.src = src then (y.1, admitSample mhz hys d y.2) else y }
  match out with
  | [] => s
  | y :: _ =>
    if (s.ctx x).trap.boundPending then s
    else s.modTrap x fun t => { t with
      boundPending := true
      pending := t.pending ++ [⟨0x0D, 15, 0,
        BitVec.ofNat 64 (y.1 % 16 + min c (2 ^ 32 - 1) * 2 ^ 32), .boundary⟩] }

/-! ### Traps (14) -/

/-- A trap becomes pending for the next boundary (14 R284). -/
def pend (s : State) (x : Nat) (t : Trap) : State := s.modTrap x fun k => { k with pending := k.pending ++ [t] }

/-- The deferred trap of a failed access becomes pending with the access, for the boundary that its context is at: the bundle
there waits for the access and issues after the trap (14 R284, R287, R293). -/
def pendFailed (s : State) (x : Nat) (t : Trap) (o : MemOp) : State :=
  (s.modTrap x fun k => { k with failed := k.failed ++ [(t, o)], served := false }).pend x t

/-- Whether the next bundle of context x is one of a light-trap handler: it is inserted, and stands outside the draft
(02 R37, 14 R294, 20 R358). -/
def inHandler (s : State) (x : Nat) : Bool := (s.ctl x 0x03E).getLsbD 0

/-- A light trap becomes pending with its information (14 R294): bit 0 re-time, bit 1 deadline risk. -/
def pendLight (s : State) (x bit : Nat) (info : BitVec 64) : State :=
  (s.modTrap x fun k => if bit = 0 then { k with lightInfo := info } else { k with riskInfo := info }).setCtl x 0x03F
    (s.ctl x 0x03F ||| BitVec.ofNat 64 (2 ^ bit))

/-- The issue unit is given up: ctl.icyc keeps the cycles held (04 R110). -/
def releaseUnit (s : State) (x : Nat) : State :=
  let n := coreOf x
  if (s.core n).iss.running = some (x % 8) then
    let held := s.cyc n - (s.core n).iss.heldSince
    (s.modIss x fun i => { i with icyc := i.icyc + held }).modCore n fun c =>
      { c with iss := { c.iss with running := none } }
  else s

/-- No context of core n stands behind context x any more: it has been served, or is no longer eligible (04 R103). -/
def clearBehind (s : State) (n x : Nat) : State :=
  { s with ctxs := s.ctxs.map fun q =>
      if coreOf q.1 = n then (q.1, { q.2 with iss := { q.2.iss with behind := q.2.iss.behind.filter (· ≠ x) } }) else q }

/-- ctl.tcode of a trap (14 R288). -/
def tcode (t : Trap) : BitVec 64 :=
  BitVec.ofNat 64 (t.code + t.slot % 16 * 2 ^ 8 + (if t.delivery = .deferred then 2 ^ 12 else 0))

/-- The 64-byte trap message: the record, and package time at the stop (14 R289). -/
def trapMessage (s : State) (x : Nat) : List (BitVec 8) :=
  [0x038, 0x039, 0x03A, 0x03B, 0x03C, 0x012, 0x000].flatMap (fun k => bitsToBytes 8 (s.ctl x k))
    ++ bitsToBytes 8 (s.ctx x).trap.stopTime

/-- The handler of a stop: a message for the partition's handler task, or the device error log (14 R289). A stop with
code 0 sends none (14 R285). -/
def sendMessage (s : State) (x : Nat) : State :=
  let p := s.partOf x
  let msg := s.trapMessage x
  let code := bits (s.ctl x 0x038) 7 0
  if code = 0 then s.notice p 0
  else
    let e := (s.part p).ent
    let isHandler := match (s.ctx x).task with | some t => t.handler | none => false
    if e.handler = 0xFFFF ∨ isHandler = true then
      (({ s with recs := { s.recs with messages := s.recs.messages ++ [(x, msg)] } } : State).log x code p
        (bits (s.ctl x 0x039) 63 0)).notice p 1
    else s.modPart p fun q => { q with handlers := q.handlers ++ [msg] }

/-- A trigger of the trace unit of core n's die: with trig set, the first one of the chosen source starts the count of
entries still written (23 R391). -/
def traceTrigger (s : State) (n kind : Nat) : State :=
  let d := s.die (dieOf n)
  let w := d.traceWord
  if w.getLsbD 7 ∧ w.getLsbD 8 ∧ bits w 11 9 = kind ∧ bits w 6 0 = n % 96 ∧ d.traceLeft = none then
    s.modDie (dieOf n) fun v => { v with traceLeft := some (bits w 27 12) }
  else s

/-- TAKING A TRAP: the one operation every stop goes through (14 R286 to R289). It writes the record, keeps what
completes the bundle, ends the snapshot, gives up the issue unit, stops the context and sends the message. -/
def takeTrap (s : State) (x : Nat) (t : Trap) (tpc tnext tdone : BitVec 64) (st : Stop) : State :=
  let s := ((((s.setCtl x 0x038 (tcode t)).setCtl x 0x039 tpc).setCtl x 0x03A tnext).setCtl x 0x03B t.fa).setCtl x 0x03C t.info
  let s := s.setCtl x 0x012 tdone
  let s := s.modTrap x fun k => { k with stop := some st, stopTime := s.ptime }
  let s := (s.releaseUnit x).dropSnapshot x
  let s := s.modIss x fun i => { i with phase := .stopped, waitFrom := none, wait := none, sleepUntil := none }
  (if t.code = 0 then s else s.traceTrigger (coreOf x) 1).sendMessage x

/-- A stop at a boundary with nothing to complete. -/
def noStop : Stop :=
  { delivery := .boundary, words := [], pc := 0, done := 0, leaf := 0, latch := [], deferred := none, skipWhole := false
    skipSlots := 0, rep := none, repSet := none, jumped := false, before := none, syms := none }

/-- The byte address of a bundle (02 R25). -/
def bundleAddr (pc : BitVec 58) : BitVec 64 := BitVec.ofNat 64 (64 * pc.toNat)

/-- ctl.tdone: done mask, leaf and tree bit (04 R111). -/
def tdoneOf (done : BitVec 10) (leaf : Nat) (tree : Bool) : BitVec 64 :=
  BitVec.ofNat 64 (done.toNat + leaf % 8 * 2 ^ 10 + (if tree then 2 ^ 13 else 0))

/-- The issuing slot raises a trap (00 R9). Inside a bundle the fault is kept for the end of the bundle, where the
lowest slot's is delivered (14 R286, R287). A slot operation on its own takes it at once: every other slot is done and
the continuation is the next bundle. A card step keeps its fault for the sequencer. -/
def raise (s : State) (t : Trap) : State :=
  if s.cur.live || s.cur.card.isSome then s.modCur fun c => { c with faults := c.faults ++ [t] }
  else
    let done : BitVec 10 := ~~~(1#10 <<< s.cur.slot)
    s.takeTrap s.cur.ctx t (bundleAddr s.cur.pc) (bundleAddr (s.cur.pc + 1))
      (tdoneOf done 0 (decide (s.cur.kind = .tree)))
      { noStop with delivery := .precise, words := oneSlotWords s.cur.slot s.cur.word, pc := s.cur.pc, done := done }

/-- A precise trap of the issuing slot. -/
def trapHere (s : State) (code : Nat) (fa : Nat) (info : Nat) : State :=
  s.raise ⟨code, s.cur.slot, BitVec.ofNat 64 fa, BitVec.ofNat 64 info, .precise⟩

/-- Trap 0x02 with the slot word (03 R71). -/
def trapReserved (s : State) : State := s.trapHere 0x02 0 s.cur.word

/-- A trap that carries register r beyond the grant (06 R131). -/
def trapGrant (s : State) (r : Nat) : State := s.trapHere 0x12 0 r

/-- Whether v r is within the issuing context's grant. -/
def granted (s : State) (r : Nat) : Bool := decide (r < s.grant s.cur.ctx)

/-- The first of the named vector registers beyond the grant. DESIGN CHOICE (log entry 66): where several lie beyond it,
the record of trap 0x12 names the first in the order a, b, d, or v and then the index (06 R131). -/
def beyondGrant (s : State) (rs : List Nat) : Option Nat := rs.find? fun r => !s.granted r

/-- Runs a slot's effect when its vector registers lie within the grant, else trap 0x12 (06 R131). -/
def needGrant (s : State) (rs : List Nat) (ok : State) : State :=
  match s.beyondGrant rs with
  | some r => s.trapGrant r
  | none => ok

/-! ### Held mode and task facts -/

def isHeld (s : State) (x : Nat) : Bool := (s.ctx x).mem.held.isSome

/-- Trap 0x11 in held mode (17 R329). -/
def trapHeld (s : State) : State := s.trapHere 0x11 0 0

/-- A wait of an instruction that opens a snapshot as it completes, for an earlier publication of its context: the
snapshot comes after that publication (12 R265, R270). -/
def orderWait : WaitFor := ⟨10, 0, 1, none⟩

/-- The wait of a barwait that meets version pressure as it flips the phase of a barrier in global memory, at va (12 R271). -/
def flipWait (va : Nat) (phase : Bool) : WaitFor := ⟨10, 0, BitVec.ofNat 64 (va + 2), some phase⟩

/-- The wait of a context whose snapshot has to come after its earlier publications and atomics (12 R265). -/
def reopenWait : WaitFor := ⟨10, 0, 17, none⟩

/-- Whether a context that waits so holds no snapshot (12 R270). -/
def WaitFor.bare (w : WaitFor) : Bool :=
  decide (w.timed ≠ 0) || decide (w.cause = 10 ∧ (w.addr.toNat % 16 = 1 ∨ w.addr.toNat % 16 = 2))

/-- The context waits at its bundle: it gives up the issue unit (04 R90). The count for ctl.bto and its limit are those of
the first waiting cycle (10 R242), and an instruction that opens a snapshot as it completes holds none while it waits
(12 R270). -/
def waitFor (s : State) (x : Nat) (w : WaitFor) : State :=
  let now := s.cyc (coreOf x)
  let limit := bits (s.ctl x 0x023) 39 0
  let s := if WaitFor.bare w then s.dropSnapshot x else s
  (s.releaseUnit x).modIss x fun i =>
    let same := match i.wait with
      | some o => decide (o.cause = w.cause ∧ o.timed = w.timed ∧ o.addr = w.addr)
      | none => false
    { i with phase := .waiting, cause := w.cause, wait := some w
             waitFrom := if same then some (i.waitFrom.getD now) else some now
             waitLimit := if same then i.waitLimit else limit }

/-- The order of waits by what they do to the context: one with a timeout, one in the epoch order, any other, and the write
of a private version, which keeps the issue unit (04 R90, 10 R242, 12 R265, R268). -/
def WaitFor.rank (w : WaitFor) : Nat :=
  if w.timed ≠ 0 then 3 else if w.cause = 10 then 2 else if w.cause = 12 then 0 else 1

/-- The wait of a bundle of which several slots wait: the first of the highest rank. -/
def WaitFor.over (o : Option WaitFor) (w : WaitFor) : WaitFor :=
  match o with
  | none => w
  | some v => if WaitFor.rank v < WaitFor.rank w then w else v

/-- The bundle being issued has to wait (02 R37, 04 R90): the bundle layer takes its effects back and waits. A slot
operation on its own waits at once. -/
def blockFor (s : State) (w : WaitFor) : State :=
  if s.cur.live then s.modCur fun c => { c with retry := some (WaitFor.over c.retry w), least := min c.least w.cause }
  else s.waitFor s.cur.ctx w

/-- A wait with a stall cause and no timeout. -/
def block (s : State) (cause : Nat) : State := s.blockFor ⟨cause, 0, 0, none⟩

/-- A wait of an instruction that takes trap 0x17 past ctl.bto (10 R242). -/
def blockTimed (s : State) : State := s.blockFor ⟨4, 0x17, 0, none⟩

/-- The name of the interlock wait for the next row of stream h. DESIGN CHOICE (log entry 66): its record gives the shadow plane's
designator and the L2-hit source (09 R216, 23 R396). -/
def rowKey (h : Nat) : Nat := 0x4000 + 2 ^ 16 * (h + 1)

def rowWait (h : Nat) : WaitFor := ⟨3, 0, BitVec.ofNat 64 (rowKey h), none⟩

/-- A translation that fails: a walk which met an uncorrectable entry logs it (22 R386). -/
def logFault (s : State) (p code va : Nat) : State := if code = 0x06 then s.logWalk p va else s

/-- Whether a lookup of the range is held by a shoot-down (22 R388). -/
def shooting (s : State) (p va n : Nat) : Bool :=
  s.shoots.any fun h => decide (h.part = p ∧ va < h.va + h.len ∧ h.va < va + n)

/-- The wait of a lookup that a shoot-down holds; its record names the first held address (22 R388, R389). -/
def shotWait (s : State) (p : Nat) (reqs : List (Nat × Nat × Nat)) : WaitFor :=
  let a := (reqs.findSome? fun r => (s.shoots.find? fun h =>
    decide (h.part = p ∧ r.1 < h.va + h.len ∧ h.va < r.1 + r.2.1)).map fun h => max r.1 h.va).getD 0
  ⟨3, 0, BitVec.ofNat 64 (2 ^ 63 + a), none⟩

end State
end Sys2Proof.Machine
end

