-- ==== Sys2Proof/Machine/Operands.lean ====
section
/-! DEFINITION. The operand forms of the slots: immediates widened by lend bytes, sizes, elements of vector registers,
masks, formats and rounding modes (03 R56 to R62, 06 R128 to R133, 07 R165, 08 R185 to R191). -/

namespace Sys2Proof.Machine.State

/-- A signed field of width n widened by the slot's lend byte (03 R56). -/
def imm {n : Nat} (s : State) (f : BitVec n) : BitVec 64 := ofInt (lendImm f.toNat n s.cur.lend)

/-- base + unit × widened offset, modulo 2^64 (03 R62, 08 R185). -/
def addrOf {n : Nat} (s : State) (b : BitVec 6) (unit : Nat) (o : BitVec n) : Nat :=
  (s.readS b + BitVec.ofNat 64 unit * s.imm o).toNat

/-- The bytes of a size code (08 R187). -/
def sizeBytes (z : Nat) : Nat :=
  match z % 4 with
  | 0 => 1 | 1 => 2 | 2 => 4 | _ => 8

/-- A loaded value of a size code: zero-extended, or sign-extended for codes 4 to 6 (08 R187). -/
def extend (z v : Nat) : BitVec 64 := if 4 ≤ z then ofInt (sextN v (8 * sizeBytes z)) else BitVec.ofNat 64 v

/-- Element width in bytes of a vector type code (03 R60). -/
def vwidth (t : Nat) : Nat :=
  match t with
  | 0 => 1 | 1 => 2 | 2 => 4 | 3 => 8 | 4 => 2 | 5 => 2 | _ => 4

/-- The format of a floating vector type code. -/
def vfmt (t : Nat) : Fmt :=
  match t with
  | 4 => fmtBf16 | 5 => fmtF16 | _ => fmtF32

/-- Element i of width w, counted over all clusters (06 R128). -/
def elem (w : Nat) (v : BitVec 8192) (i : Nat) : Nat := v.toNat / 2 ^ (8 * w * i) % 2 ^ (8 * w)

/-- Whether element i of width w is active under a mask (06 R132). -/
def active (w : Nat) (k : BitVec 1024) (i : Nat) : Bool := k.getLsbD (w * i)

/-- The active element numbers. -/
def actives (w : Nat) (k : BitVec 1024) : List Nat := (List.range (1024 / w)).filter (active w k)

/-- The byte mask of elements. -/
def elemMask (w : Nat) (is : List Nat) : BitVec 1024 :=
  BitVec.ofNat 1024 (is.foldl (fun acc i => acc + (2 ^ w - 1) * 2 ^ (w * i)) 0)

/-- A register image holding a value in each listed element. -/
def elemData (w : Nat) (is : List (Nat × Nat)) : BitVec 8192 :=
  BitVec.ofNat 8192 (is.foldl (fun acc p => acc + p.2 % 2 ^ (8 * w) * 2 ^ (8 * w * p.1)) 0)

/-- Schedules the elements of a vector result (06 R133, R134). -/
def writeElems (s : State) (d w lat : Nat) (flags : BitVec 5) (vals : List (Nat × Nat)) : State :=
  s.schedule lat flags (.vector d (elemMask w (vals.map (·.1))) (elemData w vals))

/-- Schedules a whole vector register. -/
def writeV (s : State) (d lat : Nat) (data : BitVec 8192) : State :=
  s.schedule lat 0 (.vector d (BitVec.allOnes 1024) data)

/-- Schedules a mask result; a write of k0 is discarded (06 R132). -/
def writeK (s : State) (d lat : Nat) (sel data : BitVec 1024) : State :=
  if d = 0 then s else s.schedule lat 0 (.mask d sel data)

/-- A rounding code of the F table (03 R61); none for 7. `ctx` is what code 6 reads. -/
def modeOf (code : Nat) (sr ctx : Rounding) : Option Rounding :=
  match code with
  | 0 => some .rn | 1 => some .rz | 2 => some .rd | 3 => some .ru | 4 => some .rna
  | 5 => some sr | 6 => some ctx | _ => none

/-- ctl.rm of the issuing context as a mode, SR read as RN (06 R146, 07 R157). -/
def contextMode (s : State) : Rounding :=
  match bits (s.readC 0x018) 2 0 with
  | 1 => .rz | 2 => .rd | 3 => .ru | 4 => .rna | _ => .rn

/-- The rounding of a slot that never pops the bobbin queue: RN, or the lend byte's override; none raises trap 0x02
(03 R57, 06 R146, 09 R211). -/
def overrideMode (s : State) : Option Rounding :=
  if s.cur.lend.getLsbD 3 then
    let code := s.cur.lend.toNat % 8
    if code = 5 then none else modeOf code .rn s.contextMode
  else some .rn

/-- Width in bytes of an F type code; none for the reserved code (03 R61, 07 R165). -/
def fwidth (t : Nat) : Option Nat :=
  match t with
  | 0 => some 1 | 1 => some 1 | 2 => some 4 | 3 => some 1 | 4 => some 2 | 5 => some 2 | 6 => some 4 | _ => none

/-- The format of an F type code that is floating. -/
def ffmt (t : Nat) : Option Fmt :=
  match t with
  | 1 => some fmtE4m3 | 3 => some fmtE5m2 | 4 => some fmtBf16 | 5 => some fmtF16 | 6 => some fmtF32 | _ => none

/-- The window region (08 R179). -/
def windowBase : Nat := 0xFFFFFE0000000000

def inWindow (a : Nat) : Bool := decide (windowBase ≤ a ∧ a < windowBase + 0x1400000)

/-- What n bytes at an engine address are: in a W-store or X-store of a core of the quad at a local address, global, or
touching a gap (08 R179, R180). DESIGN CHOICE (log entry 66): a range that starts below the window region and ends in it
touches a gap. -/
inductive Place where
  | wstore (core addr : Nat)
  | xstore (core addr : Nat)
  | global
  | gap
deriving DecidableEq, Repr

def placeOf (n a len : Nat) : Place :=
  let stop := a + len - 1
  if inWindow a || inWindow stop || decide (a < windowBase ∧ windowBase + 0x1400000 ≤ stop) then
    let o := a - windowBase
    let z := o + len
    if a < windowBase then .gap
    else if z ≤ 0x80000 then .wstore n o
    else if 0x100000 ≤ o ∧ z ≤ 0x160000 then .xstore n (o - 0x100000)
    else
      let q := (o - 0x1000000) / 0x100000
      if 0x1000000 ≤ o ∧ q < 4 ∧ (o - 0x1000000) % 0x100000 + len ≤ 0x60000 then
        .xstore (n / 4 * 4 + q) ((o - 0x1000000) % 0x100000)
      else .gap
  else .global

/-- The lowest address of a range at a that fails for a gap: past the store it starts in, or its start (08 R180). -/
def gapAddr (a : Nat) : Nat :=
  let o := a - windowBase
  if a < windowBase then windowBase
  else if o < 0x80000 then windowBase + 0x80000
  else if 0x100000 ≤ o ∧ o < 0x160000 then windowBase + 0x160000
  else if 0x1000000 ≤ o ∧ o < 0x1400000 ∧ o % 0x100000 < 0x60000 then a - o % 0x100000 + 0x60000
  else a

end Sys2Proof.Machine.State
end

