-- ==== Sys2Proof/Machine/Flags.lean ====
section
/-! DEFINITION. Conditions: the relations of tree tests and the leaves of tree shapes (04 R94, R95), and the relations of
vcmp and vfcmp (06 R139). The flags of ctl.fpf are computed with each rounding in Formats (07 R156). -/

namespace Sys2Proof.Machine

/-- The truth of a test relation; none for a reserved code (04 R94). -/
def testHolds (rel : Nat) (v : BitVec 64) : Option Bool :=
  match rel with
  | 0 => some (v == 0)
  | 1 => some (v != 0)
  | 2 => some v.msb
  | 3 => some (!v.msb)
  | 4 => some (!v.msb && v != 0)
  | 5 => some (v.msb || v == 0)
  | 6 => some (v.getLsbD 0)
  | 7 => some (!v.getLsbD 0)
  | 8 => some true
  | _ => none

/-- The numbers of tests and of leaves of a shape (04 R95). -/
def shapeTests (shape : Nat) : Nat :=
  match shape with
  | 0 => 1 | 1 => 2 | 2 => 3 | 4 => 3 | 5 => 3 | _ => 4

/-- Whether B1 is a target word; B0 is one in every shape (04 R95). -/
def shapeUsesB1 (shape : Nat) : Bool := decide (2 ≤ shape)

/-- The leaf of a shape for the values of its tests (04 R95). -/
def leafOf (shape : Nat) (t0 t1 t2 t3 : Bool) : Nat :=
  match shape with
  | 0 => if t0 then 1 else 0
  | 1 => if t0 then 1 else if t1 then 2 else 0
  | 2 => if t0 then 1 else if t1 then 2 else if t2 then 3 else 0
  | 3 => if t0 then 1 else if t1 then 2 else if t2 then 3 else if t3 then 4 else 0
  | 4 => if t0 then (if t1 then 1 else 2) else (if t2 then 3 else 0)
  | 5 => if t0 then (if t1 then 1 else if t2 then 2 else 3) else 0
  | 6 => if t0 then (if t1 then 1 else 2) else (if t2 then 3 else if t3 then 4 else 0)
  | _ => if t0 then (if t1 then 1 else if t2 then 2 else 3) else (if t3 then 4 else 0)

/-- A vcmp relation on two elements as integers, with tst on the patterns (06 R139). -/
def intRel (rel : Nat) (x y : Int) (both : Bool) : Bool :=
  match rel with
  | 0 => decide (x = y) | 1 => decide (x ≠ y) | 2 => decide (x < y) | 3 => decide (x ≤ y)
  | 4 => decide (y < x) | 5 => decide (y ≤ x) | _ => both

/-- A vfcmp relation (06 R139). -/
def floatRel (rel : Nat) (x y : Exact) : Bool :=
  let n := x.isNan || y.isNan
  match rel with
  | 0 => !n && exactEq x y
  | 1 => !(!n && exactEq x y)
  | 2 => !n && exactLt x y
  | 3 => !n && (exactLt x y || exactEq x y)
  | 4 => !n && exactLt y x
  | 5 => !n && (exactLt y x || exactEq x y)
  | _ => n

end Sys2Proof.Machine
end

