-- ==== Sys2Proof/Machine/Scalar.lean ====
section
/-! DEFINITION. The scalar slots S0 and S1 (05). A and B are the sources as they stand at issue; every result wraps. -/

namespace Sys2Proof.Machine

/-- The number of set bits. -/
def popCount (w v : Nat) : Nat := ((List.range w).filter fun i => decide (v / 2 ^ i % 2 = 1)).length

/-- The set bits, lowest first. -/
def setBits (w v : Nat) : List Nat := (List.range w).filter fun i => decide (v / 2 ^ i % 2 = 1)

/-- The index of the set bit with exactly k set bits below it; w when there is none (05 R126). -/
def nthSet (w v k : Nat) : Nat := (setBits w v).getD k w

/-- Zero bits above the highest set bit of w bits (05 R126). -/
def leadingZeros (w v : Nat) : Nat := if v = 0 then w else w - 1 - ilog2 v

/-- Bits reversed over w bits (05 R126). -/
def reverseBits (w v : Nat) : Nat :=
  (List.range w).foldl (fun acc i => acc + v / 2 ^ i % 2 * 2 ^ (w - 1 - i)) 0

/-- Field deposit: bits pos to min(pos + len, 64) - 1 of d from the low bits of a (05 R127). -/
def deposit (d a : BitVec 64) (pos len : Nat) : BitVec 64 :=
  let m : BitVec 64 := BitVec.ofNat 64 ((2 ^ len - 1) * 2 ^ pos)
  (d &&& ~~~m) ||| ((a <<< pos) &&& m)

def boolWord (b : Bool) : BitVec 64 := if b then 1 else 0

abbrev Out := Host.Outcome State Fault Refusal

open State

/-- add (05 R118). -/
def execAdd (d a b : BitVec 6) (s : State) : Out :=
  let A := s.readS a
  let B := s.readS b
  .next (s.writeS d 1 (A + B))

/-- sub (05 R118). -/
def execSub (d a b : BitVec 6) (s : State) : Out :=
  let A := s.readS a
  let B := s.readS b
  .next (s.writeS d 1 (A - B))

/-- mul (05 R119). -/
def execMul (d a b : BitVec 6) (s : State) : Out :=
  let A := s.readS a
  let B := s.readS b
  .next (s.writeS d 3 (A * B))

/-- mulh (05 R119). -/
def execMulh (d a b : BitVec 6) (s : State) : Out :=
  let A := s.readS a
  let B := s.readS b
  .next (s.writeS d 3 (BitVec.ofInt 64 (A.toInt * B.toInt / 2 ^ 64)))

/-- mulhu (05 R119). -/
def execMulhu (d a b : BitVec 6) (s : State) : Out :=
  let A := s.readS a
  let B := s.readS b
  .next (s.writeS d 3 (BitVec.ofNat 64 (A.toNat * B.toNat / 2 ^ 64)))

/-- divu (05 R120). -/
def execDivu (d a b : BitVec 6) (s : State) : Out :=
  let A := s.readS a
  let B := s.readS b
  .next (s.writeS d 24 (if B = 0 then BitVec.allOnes 64 else A / B))

/-- remu (05 R120). -/
def execRemu (d a b : BitVec 6) (s : State) : Out :=
  let A := s.readS a
  let B := s.readS b
  .next (s.writeS d 24 (if B = 0 then A else A % B))

/-- and (05 R118). -/
def execAnd (d a b : BitVec 6) (s : State) : Out :=
  let A := s.readS a
  let B := s.readS b
  .next (s.writeS d 1 (A &&& B))

/-- or (05 R118). -/
def execOr (d a b : BitVec 6) (s : State) : Out :=
  let A := s.readS a
  let B := s.readS b
  .next (s.writeS d 1 (A ||| B))

/-- xor (05 R118). -/
def execXor (d a b : BitVec 6) (s : State) : Out :=
  let A := s.readS a
  let B := s.readS b
  .next (s.writeS d 1 (A ^^^ B))

/-- shl (05 R118). -/
def execShl (d a b : BitVec 6) (s : State) : Out :=
  let A := s.readS a
  let B := s.readS b
  .next (s.writeS d 1 (A <<< (B.toNat % 64)))

/-- shr (05 R118). -/
def execShr (d a b : BitVec 6) (s : State) : Out :=
  let A := s.readS a
  let B := s.readS b
  .next (s.writeS d 1 (A >>> (B.toNat % 64)))

/-- sra (05 R118). -/
def execSra (d a b : BitVec 6) (s : State) : Out :=
  let A := s.readS a
  let B := s.readS b
  .next (s.writeS d 1 (A.sshiftRight (B.toNat % 64)))

/-- min (05 R118). -/
def execMin (d a b : BitVec 6) (s : State) : Out :=
  let A := s.readS a
  let B := s.readS b
  .next (s.writeS d 1 (if A.slt B then A else B))

/-- max (05 R118). -/
def execMax (d a b : BitVec 6) (s : State) : Out :=
  let A := s.readS a
  let B := s.readS b
  .next (s.writeS d 1 (if A.slt B then B else A))

/-- minu (05 R118). -/
def execMinu (d a b : BitVec 6) (s : State) : Out :=
  let A := s.readS a
  let B := s.readS b
  .next (s.writeS d 1 (if A.ult B then A else B))

/-- maxu (05 R118). -/
def execMaxu (d a b : BitVec 6) (s : State) : Out :=
  let A := s.readS a
  let B := s.readS b
  .next (s.writeS d 1 (if A.ult B then B else A))

/-- slt (05 R118). -/
def execSlt (d a b : BitVec 6) (s : State) : Out :=
  let A := s.readS a
  let B := s.readS b
  .next (s.writeS d 1 (boolWord (A.slt B)))

/-- sltu (05 R118). -/
def execSltu (d a b : BitVec 6) (s : State) : Out :=
  let A := s.readS a
  let B := s.readS b
  .next (s.writeS d 1 (boolWord (A.ult B)))

/-- seq (05 R118). -/
def execSeq (d a b : BitVec 6) (s : State) : Out :=
  let A := s.readS a
  let B := s.readS b
  .next (s.writeS d 1 (boolWord (A == B)))

/-- sel: one of two sources by the condition register (05 R125). -/
def execSel (d c a b : BitVec 6) (s : State) : Out :=
  .next (s.writeS d 1 (if s.readS c ≠ 0 then s.readS a else s.readS b))

/-- mov (05 R118). -/
def execMov (d a : BitVec 6) (s : State) : Out :=
  let A := s.readS a
  .next (s.writeS d 1 (A))

/-- popc (05 R126). -/
def execPopc (d a : BitVec 6) (s : State) : Out :=
  let A := s.readS a
  .next (s.writeS d 1 (BitVec.ofNat 64 (popCount 64 A.toNat)))

/-- clz (05 R126). -/
def execClz (d a : BitVec 6) (s : State) : Out :=
  let A := s.readS a
  .next (s.writeS d 1 (BitVec.ofNat 64 (leadingZeros 64 A.toNat)))

/-- ctz (05 R126). -/
def execCtz (d a : BitVec 6) (s : State) : Out :=
  let A := s.readS a
  .next (s.writeS d 1 (BitVec.ofNat 64 (nthSet 64 A.toNat 0)))

/-- fnsb (05 R126). -/
def execFnsb (d a b : BitVec 6) (s : State) : Out :=
  let A := s.readS a
  let B := s.readS b
  .next (s.writeS d 1 (BitVec.ofNat 64 (nthSet 64 A.toNat B.toNat)))

/-- brev (05 R126). -/
def execBrev (d a : BitVec 6) (s : State) : Out :=
  let A := s.readS a
  .next (s.writeS d 1 (BitVec.ofNat 64 (reverseBits 64 A.toNat)))

/-- addi with its immediate widened by the lend byte (05 R121). -/
def execAddi (d a : BitVec 6) (i : BitVec 12) (s : State) : Out :=
  .next (s.writeS d 1 (s.readS a + s.imm i))

/-- andi with its immediate widened by the lend byte (05 R121). -/
def execAndi (d a : BitVec 6) (i : BitVec 12) (s : State) : Out :=
  .next (s.writeS d 1 (s.readS a &&& s.imm i))

/-- ori with its immediate widened by the lend byte (05 R121). -/
def execOri (d a : BitVec 6) (i : BitVec 12) (s : State) : Out :=
  .next (s.writeS d 1 (s.readS a ||| s.imm i))

/-- xori with its immediate widened by the lend byte (05 R121). -/
def execXori (d a : BitVec 6) (i : BitVec 12) (s : State) : Out :=
  .next (s.writeS d 1 (s.readS a ^^^ s.imm i))

/-- shli (05 R122). -/
def execShli (d a n : BitVec 6) (s : State) : Out :=
  .next (s.writeS d 1 (s.readS a <<< n.toNat))

/-- shri (05 R122). -/
def execShri (d a n : BitVec 6) (s : State) : Out :=
  .next (s.writeS d 1 (s.readS a >>> n.toNat))

/-- srai (05 R122). -/
def execSrai (d a n : BitVec 6) (s : State) : Out :=
  .next (s.writeS d 1 ((s.readS a).sshiftRight n.toNat))

/-- movi (05 R123). -/
def execMovi (d : BitVec 6) (i : BitVec 18) (s : State) : Out := .next (s.writeS d 1 (s.imm i))

/-- movk: shifts 18 bits in a tree bundle, 26 otherwise, into s[d] from below (05 R124). -/
def execMovk (d : BitVec 6) (i : BitVec 18) (s : State) : Out :=
  .next (s.writeS d 1
    (match s.cur.kind with
     | .tree => (s.readS d <<< 18) + i.setWidth 64
     | _ => (s.readS d <<< 26) + BitVec.ofNat 64 (s.cur.lend.toNat * 2 ^ 18 + i.toNat)))

/-- extr: zero-extending field extract (05 R127). -/
def execExtr (d a p l : BitVec 6) (s : State) : Out :=
  .next (s.writeS d 1 (BitVec.ofNat 64 ((s.readS a).toNat / 2 ^ p.toNat % 2 ^ (l.toNat + 1))))

/-- depo: field deposit into s[d] (05 R127). -/
def execDepo (d a p l : BitVec 6) (s : State) : Out :=
  .next (s.writeS d 1 (deposit (s.readS d) (s.readS a) p.toNat (l.toNat + 1)))

end Sys2Proof.Machine
end

