-- ==== Sys2Proof/Machine/Vector.lean ====
section
/-! DEFINITION. The vector slots V0 to V2 (06). Elements are counted over all clusters, so that element i of width w lies
at byte w × i of the register image and is governed by bit w × i of the mask. -/

namespace Sys2Proof.Machine

open State

/-- The common loop of the two-operand integer operations (06 R136). -/
def vecInt (t d a b k : Nat) (f : Nat → Nat → Nat → Nat) (s : State) : State :=
  s.needGrant [a, b, d] <|
    if 3 < t then s.trapReserved
    else
      let w := vwidth t
      let va := s.readV a
      let vb := s.readV b
      s.writeElems d w 2 0 ((actives w (s.readK k)).map fun i => (i, f (8 * w) (elem w va i) (elem w vb i)))

/-- The loop for one source register (06 R136, R138). -/
def vecInt1 (t d a k : Nat) (f : Nat → Nat → Nat) (s : State) : State :=
  s.needGrant [a, d] <|
    if 3 < t then s.trapReserved
    else
      let w := vwidth t
      let va := s.readV a
      s.writeElems d w 2 0 ((actives w (s.readK k)).map fun i => (i, f (8 * w) (elem w va i)))

/-- An element as a signed or, with s = 1, an unsigned integer. -/
def asInt (u : BitVec 1) (W x : Nat) : Int := if u = 1 then (x : Int) else sextN x W

/-- Shifts: with s = 1 the amount is the b field, else the low six bits of the element of register b (06 R137). -/
def vecShift (t d a b k : Nat) (u : BitVec 1) (f : Nat → Nat → Nat → Nat) (s : State) : State :=
  s.needGrant (if u = 1 then [a, d] else [a, b, d]) <|
    if 3 < t then s.trapReserved
    else
      let w := vwidth t
      let va := s.readV a
      let vb := s.readV b
      s.writeElems d w 2 0 ((actives w (s.readK k)).map fun i =>
        (i, f (8 * w) (elem w va i) (if u = 1 then b else elem w vb i % 64)))

/-- Floating elements with rounding: RN, or the lend byte's override (06 R146). `f` gives each exact result. -/
def vecFloat (t d k : Nat) (rs : List Nat) (f : Fmt → Rounding → Nat → Exact × BitVec 5) (s : State) : State :=
  s.needGrant rs <|
    if t < 4 ∨ 6 < t then s.trapReserved
    else match s.overrideMode with
      | none => s.trapReserved
      | some mode =>
        let w := vwidth t
        let fm := vfmt t
        let rs := (actives w (s.readK k)).map fun i =>
          let x := f fm mode i
          let r := fm.round mode x.1
          (i, r.1, x.2 ||| r.2)
        s.writeElems d w 4 (rs.foldl (fun acc r => acc ||| r.2.2) 0) (rs.map fun r => (r.1, r.2.1))

/-- The smaller or the larger of two encodings (06 R148). -/
def floatPick (fm : Fmt) (larger : Bool) (x y : Nat) : Nat :=
  let a := fm.value x
  let b := fm.value y
  if a.isNan && b.isNan then fm.nan
  else if a.isNan then y else if b.isNan then x
  else
    let less := exactLt a b || (exactEq a b && a.isNegZero && !b.isNegZero)
    if less then (if larger then y else x) else (if larger then x else y)

def sigFlag (fm : Fmt) (x : Nat) : BitVec 5 := if (fm.value x).signalling then flagInv else 0

/-- vfmin and vfmax (06 R148). -/
def vecPick (larger : Bool) (t d a b k : Nat) (s : State) : State :=
  s.needGrant [a, b, d] <|
    if t < 4 ∨ 6 < t then s.trapReserved
    else
      let w := vwidth t
      let fm := vfmt t
      let va := s.readV a
      let vb := s.readV b
      let is := actives w (s.readK k)
      s.writeElems d w 4
        (is.foldl (fun acc i => acc ||| sigFlag fm (elem w va i) ||| sigFlag fm (elem w vb i)) 0)
        (is.map fun i => (i, floatPick fm larger (elem w va i) (elem w vb i)))

/-- The mask operations on whole masks (06 R149). -/
def maskOp (d : BitVec 3) (v : BitVec 1024) (s : State) : State := s.writeK d.toNat 2 (BitVec.allOnes 1024) v

def execVadd (t : BitVec 3) (d a b : BitVec 6) (k : BitVec 3) (_u : BitVec 1) (s : State) : Out :=
  .next (vecInt t.toNat d.toNat a.toNat b.toNat k.toNat (fun _ x y => x + y) s)

def execVsub (t : BitVec 3) (d a b : BitVec 6) (k : BitVec 3) (_u : BitVec 1) (s : State) : Out :=
  .next (vecInt t.toNat d.toNat a.toNat b.toNat k.toNat (fun W x y => x + 2 ^ W - y) s)

def execVmul (t : BitVec 3) (d a b : BitVec 6) (k : BitVec 3) (_u : BitVec 1) (s : State) : Out :=
  .next (vecInt t.toNat d.toNat a.toNat b.toNat k.toNat (fun _ x y => x * y) s)

/-- vmulh: the high half of the signed or unsigned product (06 R136). -/
def execVmulh (t : BitVec 3) (d a b : BitVec 6) (k : BitVec 3) (u : BitVec 1) (s : State) : Out :=
  .next (vecInt t.toNat d.toNat a.toNat b.toNat k.toNat
    (fun W x y => lowBits (asInt u W x * asInt u W y / 2 ^ W) W) s)

def execVmin (t : BitVec 3) (d a b : BitVec 6) (k : BitVec 3) (u : BitVec 1) (s : State) : Out :=
  .next (vecInt t.toNat d.toNat a.toNat b.toNat k.toNat (fun W x y => if asInt u W x < asInt u W y then x else y) s)

def execVmax (t : BitVec 3) (d a b : BitVec 6) (k : BitVec 3) (u : BitVec 1) (s : State) : Out :=
  .next (vecInt t.toNat d.toNat a.toNat b.toNat k.toNat (fun W x y => if asInt u W x < asInt u W y then y else x) s)

/-- vabs: the most negative value wraps to itself (06 R136). -/
def execVabs (t : BitVec 3) (d a : BitVec 6) (k : BitVec 3) (s : State) : Out :=
  .next (vecInt1 t.toNat d.toNat a.toNat k.toNat (fun W x => (sextN x W).natAbs) s)

def execVand (t : BitVec 3) (d a b : BitVec 6) (k : BitVec 3) (_u : BitVec 1) (s : State) : Out :=
  .next (vecInt t.toNat d.toNat a.toNat b.toNat k.toNat (fun _ x y => Nat.land x y) s)

def execVor (t : BitVec 3) (d a b : BitVec 6) (k : BitVec 3) (_u : BitVec 1) (s : State) : Out :=
  .next (vecInt t.toNat d.toNat a.toNat b.toNat k.toNat (fun _ x y => Nat.lor x y) s)

def execVxor (t : BitVec 3) (d a b : BitVec 6) (k : BitVec 3) (_u : BitVec 1) (s : State) : Out :=
  .next (vecInt t.toNat d.toNat a.toNat b.toNat k.toNat (fun _ x y => Nat.xor x y) s)

def execVandn (t : BitVec 3) (d a b : BitVec 6) (k : BitVec 3) (_u : BitVec 1) (s : State) : Out :=
  .next (vecInt t.toNat d.toNat a.toNat b.toNat k.toNat (fun W x y => Nat.land x (2 ^ W - 1 - y)) s)

def execVshl (t : BitVec 3) (d a b : BitVec 6) (k : BitVec 3) (u : BitVec 1) (s : State) : Out :=
  .next (vecShift t.toNat d.toNat a.toNat b.toNat k.toNat u (fun W x n => if W ≤ n then 0 else x * 2 ^ n) s)

def execVshr (t : BitVec 3) (d a b : BitVec 6) (k : BitVec 3) (u : BitVec 1) (s : State) : Out :=
  .next (vecShift t.toNat d.toNat a.toNat b.toNat k.toNat u (fun W x n => if W ≤ n then 0 else x / 2 ^ n) s)

def execVsra (t : BitVec 3) (d a b : BitVec 6) (k : BitVec 3) (u : BitVec 1) (s : State) : Out :=
  .next (vecShift t.toNat d.toNat a.toNat b.toNat k.toNat u (fun W x n => lowBits (sextN x W / 2 ^ n) W) s)

def execVrot (t : BitVec 3) (d a b : BitVec 6) (k : BitVec 3) (u : BitVec 1) (s : State) : Out :=
  .next (vecShift t.toNat d.toNat a.toNat b.toNat k.toNat u
    (fun W x n => x * 2 ^ (n % W) + x / 2 ^ (W - n % W)) s)

def execVpopc (t : BitVec 3) (d a : BitVec 6) (k : BitVec 3) (s : State) : Out :=
  .next (vecInt1 t.toNat d.toNat a.toNat k.toNat popCount s)

def execVclz (t : BitVec 3) (d a : BitVec 6) (k : BitVec 3) (s : State) : Out :=
  .next (vecInt1 t.toNat d.toNat a.toNat k.toNat leadingZeros s)

def execVctz (t : BitVec 3) (d a : BitVec 6) (k : BitVec 3) (s : State) : Out :=
  .next (vecInt1 t.toNat d.toNat a.toNat k.toNat (fun W x => nthSet W x 0) s)

def execVfnsb (t : BitVec 3) (d a b : BitVec 6) (k : BitVec 3) (s : State) : Out :=
  .next (vecInt t.toNat d.toNat a.toNat b.toNat k.toNat nthSet s)

def execVbrev (t : BitVec 3) (d a : BitVec 6) (k : BitVec 3) (s : State) : Out :=
  .next (vecInt1 t.toNat d.toNat a.toNat k.toNat reverseBits s)

/-- vcmp: the w bits of each active element take the outcome (06 R139). -/
def execVcmp (t e r : BitVec 3) (a b : BitVec 6) (k : BitVec 3) (u : BitVec 1) (s : State) : Out :=
  .next <| s.needGrant [a.toNat, b.toNat] <|
    if 3 < t.toNat ∨ r = 7 then s.trapReserved
    else
      let w := vwidth t.toNat
      let va := s.readV a.toNat
      let vb := s.readV b.toNat
      let is := actives w (s.readK k.toNat)
      let hold := is.filter fun i =>
        let x := elem w va i
        let y := elem w vb i
        intRel r.toNat (asInt u (8 * w) x) (asInt u (8 * w) y) (decide (Nat.land x y ≠ 0))
      s.writeK e.toNat 2 (elemMask w is) (elemMask w hold)

/-- vsel: the k field selects, every element is written (06 R140). -/
def execVsel (t : BitVec 3) (d a b : BitVec 6) (k : BitVec 3) (s : State) : Out :=
  .next <| s.needGrant [a.toNat, b.toNat, d.toNat] <|
    if t = 7 then s.trapReserved
    else
      let w := vwidth t.toNat
      let m := elemMask w (actives w (s.readK k.toNat))
      s.writeV d.toNat 2 (mergeBytes m (s.readV b.toNat) (s.readV a.toNat))

def execVmov (t : BitVec 3) (d a : BitVec 6) (k : BitVec 3) (s : State) : Out :=
  .next <| s.needGrant [a.toNat, d.toNat] <|
    if t = 7 then s.trapReserved
    else
      let w := vwidth t.toNat
      s.schedule 2 0 (.vector d.toNat (elemMask w (actives w (s.readK k.toNat))) (s.readV a.toNat))

/-- vmovi: every element takes the immediate of its type (06 R141). -/
def execVmovi (t : BitVec 3) (d : BitVec 6) (i : BitVec 16) (s : State) : Out :=
  .next <| s.needGrant [d.toNat] <|
    if t = 7 then s.trapReserved
    else
      let w := vwidth t.toNat
      let v := match t.toNat with
        | 0 => i.toNat
        | 2 => (s.imm i).toNat
        | 3 => (s.imm i).toNat
        | 6 => i.toNat * 2 ^ 16 + s.cur.lend.toNat * 2 ^ 8
        | _ => i.toNat
      s.writeV d.toNat 2 (elemData w ((List.range (1024 / w)).map fun j => (j, v)))

def execVbcast (t : BitVec 3) (d a : BitVec 6) (k : BitVec 3) (s : State) : Out :=
  .next <| s.needGrant [d.toNat] <|
    if t = 7 then s.trapReserved
    else
      let w := vwidth t.toNat
      let v := (s.readS a).toNat
      s.writeElems d.toNat w 2 0 ((actives w (s.readK k.toNat)).map fun i => (i, v))

/-- vextr: the lowest element of lane idx, sign-extended for i8 to i32 (06 R142). -/
def execVextr (t : BitVec 3) (d a i : BitVec 6) (j : BitVec 1) (s : State) : Out :=
  .next <| s.needGrant [a.toNat] <|
    if t = 7 then s.trapReserved
    else
      let x := elem 8 (s.readV a.toNat) (j.toNat * 64 + i.toNat)
      let W := 8 * vwidth t.toNat
      s.writeS d 2 (if t.toNat < 3 then ofInt (sextN x W) else BitVec.ofNat 64 (x % 2 ^ W))

/-- vperm: within each cluster, by the elements of b modulo n (06 R143). -/
def execVperm (t : BitVec 3) (d a b : BitVec 6) (k : BitVec 3) (s : State) : Out :=
  .next <| s.needGrant [a.toNat, b.toNat, d.toNat] <|
    if t = 7 then s.trapReserved
    else
      let w := vwidth t.toNat
      let n := 128 / w
      let va := s.readV a.toNat
      let vb := s.readV b.toNat
      s.writeElems d.toNat w 2 0 ((actives w (s.readK k.toNat)).map fun i =>
        (i, elem w va (i / n * n + elem w vb i % n)))

/-- xcl: cluster c takes from cluster (c + n) mod 8 (06 R144). -/
def execXcl (t : BitVec 3) (d a : BitVec 6) (n k : BitVec 3) (s : State) : Out :=
  .next <| s.needGrant [a.toNat, d.toNat] <|
    if t = 7 then s.trapReserved
    else
      let w := vwidth t.toNat
      let v := (s.readV a.toNat).rotateRight (1024 * n.toNat)
      s.schedule 6 0 (.vector d.toNat (elemMask w (actives w (s.readK k.toNat))) v)

/-- The reduction of the active integer elements of one cluster (06 R145). -/
def reduceInt (o W : Nat) (u : BitVec 1) (xs : List Nat) : Nat :=
  let top := 2 ^ W - 1
  match o with
  | 0 => xs.foldl (· + ·) 0
  | 1 => xs.foldl (fun acc x => if asInt u W x < asInt u W acc then x else acc) (if u = 1 then top else 2 ^ (W - 1) - 1)
  | 2 => xs.foldl (fun acc x => if asInt u W acc < asInt u W x then x else acc) (if u = 1 then 0 else 2 ^ (W - 1))
  | 3 => xs.foldl Nat.land top
  | 4 => xs.foldl Nat.lor 0
  | _ => xs.foldl Nat.xor 0

/-- The exact sum of floating elements, with one rounding (06 R145). -/
def reduceSum (fm : Fmt) (xs : List Nat) : Nat × BitVec 5 :=
  let vs := xs.map fm.value
  let sig : BitVec 5 := if vs.any (·.signalling) then flagInv else 0
  let pinf := vs.any fun v => decide (v = .inf false)
  let ninf := vs.any fun v => decide (v = .inf true)
  if vs.any (·.isNan) || (pinf && ninf) then (fm.nan, flagInv)
  else if pinf then (fm.infinity false, sig) else if ninf then (fm.infinity true, sig)
  else
    let d := vs.foldl (fun acc v => match v with
      | .num a m e _ => acc.add (signedNum a m e)
      | _ => acc) Dyadic.zero
    fm.round .rn (if d.m = 0 then .num (!vs.isEmpty && vs.all (·.isNegZero)) 0 0 false else d.exact)

/-- The smallest or largest floating element, as vfmin and vfmax (06 R145). -/
def reducePick (fm : Fmt) (larger : Bool) (xs : List Nat) : Nat × BitVec 5 :=
  match xs with
  | [] => (fm.infinity larger, 0)
  | x :: t =>
    let r := t.foldl (floatPick fm larger) x
    (if (fm.value r).isNan then fm.nan else r, xs.foldl (fun acc y => acc ||| sigFlag fm y) 0)

/-- vred: each cluster into its element 0, the others 0 (06 R145). -/
def execVred (t : BitVec 3) (d a : BitVec 6) (o k : BitVec 3) (u : BitVec 1) (s : State) : Out :=
  .next <| s.needGrant [a.toNat, d.toNat] <|
    if t = 7 ∨ 5 < o.toNat ∨ (3 < t.toNat ∧ 2 < o.toNat) then s.trapReserved
    else
      let w := vwidth t.toNat
      let n := 128 / w
      let va := s.readV a.toNat
      let km := s.readK k.toNat
      let rs := (List.range 8).map fun c =>
        let xs := ((List.range n).filter fun e => active w km (c * n + e)).map fun e => elem w va (c * n + e)
        if t.toNat < 4 then (reduceInt o.toNat (8 * w) u xs, (0 : BitVec 5))
        else if o = 0 then reduceSum (vfmt t.toNat) xs
        else reducePick (vfmt t.toNat) (decide (o = 2)) xs
      s.schedule (if t.toNat < 4 then 2 else 4) (rs.foldl (fun acc r => acc ||| r.2) 0)
        (.vector d.toNat (BitVec.allOnes 1024)
          (elemData w ((List.range 8).map fun c => (c * n, (rs.getD c (0, 0)).1))))

def execVfadd (t : BitVec 3) (d a b : BitVec 6) (k : BitVec 3) (s : State) : Out :=
  .next (vecFloat t.toNat d.toNat k.toNat [a.toNat, b.toNat, d.toNat] (fun fm m i =>
    let w := vwidth t.toNat
    exactAdd m (fm.value (elem w (s.readV a.toNat) i)) (fm.value (elem w (s.readV b.toNat) i))) s)

def execVfsub (t : BitVec 3) (d a b : BitVec 6) (k : BitVec 3) (s : State) : Out :=
  .next (vecFloat t.toNat d.toNat k.toNat [a.toNat, b.toNat, d.toNat] (fun fm m i =>
    let w := vwidth t.toNat
    exactAdd m (fm.value (elem w (s.readV a.toNat) i)) (fm.value (elem w (s.readV b.toNat) i)).negate) s)

def execVfmul (t : BitVec 3) (d a b : BitVec 6) (k : BitVec 3) (s : State) : Out :=
  .next (vecFloat t.toNat d.toNat k.toNat [a.toNat, b.toNat, d.toNat] (fun fm _ i =>
    let w := vwidth t.toNat
    exactMul (fm.value (elem w (s.readV a.toNat) i)) (fm.value (elem w (s.readV b.toNat) i))) s)

/-- vfma: x × y + z with z the old d, one rounding (06 R147). -/
def execVfma (t : BitVec 3) (d a b : BitVec 6) (k : BitVec 3) (s : State) : Out :=
  .next (vecFloat t.toNat d.toNat k.toNat [a.toNat, b.toNat, d.toNat] (fun fm m i =>
    let w := vwidth t.toNat
    exactFma m (fm.value (elem w (s.readV a.toNat) i)) (fm.value (elem w (s.readV b.toNat) i))
      (fm.value (elem w (s.readV d.toNat) i))) s)

def execVfmin (t : BitVec 3) (d a b : BitVec 6) (k : BitVec 3) (s : State) : Out :=
  .next (vecPick false t.toNat d.toNat a.toNat b.toNat k.toNat s)

def execVfmax (t : BitVec 3) (d a b : BitVec 6) (k : BitVec 3) (s : State) : Out :=
  .next (vecPick true t.toNat d.toNat a.toNat b.toNat k.toNat s)

/-- vfneg: the sign bit inverted or, with s = 1, cleared; every other bit kept (06 R148). -/
def execVfneg (t : BitVec 3) (d a : BitVec 6) (k : BitVec 3) (u : BitVec 1) (s : State) : Out :=
  .next <| s.needGrant [a.toNat, d.toNat] <|
    if t.toNat < 4 ∨ t = 7 then s.trapReserved
    else
      let w := vwidth t.toNat
      let va := s.readV a.toNat
      let top := 2 ^ (8 * w - 1)
      s.writeElems d.toNat w 4 0 ((actives w (s.readK k.toNat)).map fun i =>
        let x := elem w va i
        (i, if u = 1 then x % top else if x < top then x + top else x - top))

/-- vfcmp (06 R139): sets no flag. -/
def execVfcmp (t e r : BitVec 3) (a b : BitVec 6) (k : BitVec 3) (s : State) : Out :=
  .next <| s.needGrant [a.toNat, b.toNat] <|
    if t.toNat < 4 ∨ t = 7 ∨ r = 7 then s.trapReserved
    else
      let w := vwidth t.toNat
      let fm := vfmt t.toNat
      let va := s.readV a.toNat
      let vb := s.readV b.toNat
      let is := actives w (s.readK k.toNat)
      let hold := is.filter fun i => floatRel r.toNat (fm.value (elem w va i)) (fm.value (elem w vb i))
      s.writeK e.toNat 4 (elemMask w is) (elemMask w hold)

def execKand (d a b : BitVec 3) (s : State) : Out := .next (maskOp d (s.readK a.toNat &&& s.readK b.toNat) s)
def execKor (d a b : BitVec 3) (s : State) : Out := .next (maskOp d (s.readK a.toNat ||| s.readK b.toNat) s)
def execKxor (d a b : BitVec 3) (s : State) : Out := .next (maskOp d (s.readK a.toNat ^^^ s.readK b.toNat) s)
def execKnot (d a : BitVec 3) (s : State) : Out := .next (maskOp d (~~~ s.readK a.toNat) s)
def execKmov (d a : BitVec 3) (s : State) : Out := .next (maskOp d (s.readK a.toNat) s)

end Sys2Proof.Machine
end

