-- ==== Sys2Proof/Machine/Special.lean ====
section
/-! DEFINITION. Slot F: functions, scaling, conversion, block floating point and bobpop (07 R159 to R172). -/

namespace Sys2Proof.Machine

namespace State

/-- The words the generator of core n has pushed by now enter the queue, one a cycle while it holds fewer than 64
(07 R159). A gated die's counter stands still, and a pause pushes nothing until it ends. -/
def fillBobbin (s : State) (n : Nat) : State :=
  let c := s.core n
  let now := s.cyc n
  let from_ := match c.bobbinPause with
    | some stop => max c.bobbinCyc (min stop now)
    | none => c.bobbinCyc
  let k := min (now - from_) (64 - c.bobbin.length)
  s.modCore n fun c =>
    { c with bobbin := c.bobbin ++ (List.range k).map fun i => Config.bobbinWord n (c.drawn + i)
             drawn := c.drawn + k
             bobbinCyc := max now c.bobbinCyc }

/-- One pop in issue order (07 R160). On an empty queue the bundle would have waited, so a slot on its own takes the
generator's next word; inside a bundle the wait is asked for (07 R161). -/
def popBobbin (s : State) (n : Nat) : BitVec 64 × State :=
  let s := s.fillBobbin n
  match (s.core n).bobbin with
  | w :: ws => (w, s.modCore n fun c => { c with bobbin := ws })
  | [] =>
    if s.cur.live then (0, s.block 9)
    else (Config.bobbinWord n (s.core n).drawn, s.modCore n fun c => { c with drawn := c.drawn + 1 })

/-- The effective rounding code of the F slot: code 6 reads ctl.rm (03 R61, 07 R157). -/
def effRound (s : State) (r : BitVec 3) : Nat :=
  if r = 6 then bits (s.readC 0x018) 2 0 else r.toNat

/-- Whether an F word pops for SR (07 R160). -/
def popsSr (s : State) (r : BitVec 3) : Bool := decide (s.effRound r = 5)

end State

open State

/-- The mode of element i: a code, with the mixed bits of the popped word under SR (07 R164, R165). -/
def elemMode (code : Nat) (w : BitVec 64) (i : Nat) : Rounding :=
  match code with
  | 1 => .rz | 2 => .rd | 3 => .ru | 4 => .rna | 5 => .sr (bobbinBits w i) | _ => .rn

/-- The word an F slot rounds with, popped when the mode is SR. -/
def roundWord (s : State) (code : Nat) : BitVec 64 × State :=
  if code = 5 then s.popBobbin s.cur.core else (0, s)

/-- The part of the lend byte for a ratio; none when it is beyond it (07 R165). -/
def partOf (s : State) (ratio : Nat) : Option Nat :=
  let p := s.cur.lend.toNat % 4
  if p < ratio then some p else none

/-- The destination elements with their source elements, counted over all clusters (07 R165): narrowing fills part p of
the destination, widening reads part p of the source. -/
def elemPairs (win wout p : Nat) : List (Nat × Nat) :=
  let nin := 128 / win
  let nout := 128 / wout
  (List.range 8).flatMap fun c =>
    if wout < win then (List.range nin).map fun e => (c * nout + p * nin + e, c * nin + e)
    else (List.range nout).map fun e => (c * nout + e, c * nin + (if win < wout then p * nout + e else e))

/-- The number bobbin_bits takes for a destination element: 128 × cluster + element (07 R164). -/
def elemIndex (wout i : Nat) : Nat := i / (128 / wout) * 128 + i % (128 / wout)

/-- An F operation on elements: `f` gives the encoding and flags of a destination element from the mode and the source
(07 R165). `ratio` 0 means the lend byte names no part. -/
def specElems (d a k r : BitVec 6) (win wout ratio : Nat) (f : Rounding → Nat → Nat × BitVec 5) (s : State) : State :=
  let code := s.effRound (r.setWidth 3)
  let sel := if ratio = 0 then some 0 else partOf s ratio
  match sel with
  | none => s.trapReserved
  | some p =>
    if code = 7 then s.trapReserved
    else
      let km := s.readK k.toNat
      let va := s.readV a.toNat
      let (w, s) := roundWord s code
      let rs := ((elemPairs win wout p).filter fun q => active wout km q.1).map fun q =>
        let x := f (elemMode code w (elemIndex wout q.1)) (elem win va q.2)
        (q.1, x.1, x.2)
      s.writeElems d.toNat wout 8 (rs.foldl (fun acc x => acc ||| x.2.2) 0) (rs.map fun x => (x.1, x.2.1))

/-- A function of bf16, f16 and f32 with equal types (07 R166). `part` is false for fscl, whose lend byte is its j. -/
def specSame (i o : BitVec 3) (d a : BitVec 6) (k r : BitVec 3) (ratio : Nat)
    (f : Fmt → Rounding → Nat → Nat × BitVec 5) (s : State) : State :=
  s.needGrant [a.toNat, d.toNat] <|
    if i ≠ o ∨ i.toNat < 4 ∨ i = 7 then s.trapReserved
    else
      let w := vwidth i.toNat
      specElems d a (k.setWidth 6) (r.setWidth 6) w w ratio (f (vfmt i.toNat)) s

/-- A function given on finite values, with its special inputs (07 R166). -/
def mathElem (onInf : Bool → Exact × BitVec 5) (onNum : Bool → Nat → Int → Exact × BitVec 5)
    (fm : Fmt) (mode : Rounding) (x : Nat) : Nat × BitVec 5 :=
  let (v, fl) := match fm.value x with
    | .nan sig => (Exact.nan sig, (0 : BitVec 5))
    | .inf neg => onInf neg
    | .num neg m e _ => onNum neg m e
  let r := fm.round mode v
  (r.1, fl ||| r.2)

def zeroVal (neg : Bool) : Exact := .num neg 0 0 false
def oneVal (neg : Bool) : Exact := .num neg 1 0 false

def fexp2Elem := mathElem (fun neg => (if neg then zeroVal false else .inf false, 0))
  (fun neg m e => (exactExp2 neg m e, 0))

def flog2Elem := mathElem (fun neg => if neg then (.nan false, flagInv) else (.inf false, 0))
  (fun neg m e => if m = 0 then (.inf true, flagDz) else if neg then (.nan false, flagInv) else (exactLog2 m e, 0))

def frcpElem := mathElem (fun neg => (zeroVal neg, 0))
  (fun neg m e => if m = 0 then (.inf neg, flagDz) else (exactRecip neg m e, 0))

def frsqElem := mathElem (fun neg => if neg then (.nan false, flagInv) else (zeroVal false, 0))
  (fun neg m e => if m = 0 then (.inf neg, flagDz) else if neg then (.nan false, flagInv) else (exactRsqrt m e, 0))

def fsqrtElem := mathElem (fun neg => if neg then (.nan false, flagInv) else (.inf false, 0))
  (fun neg m e => if m = 0 then (zeroVal neg, 0) else if neg then (.nan false, flagInv) else (exactSqrt m e, 0))

def ftanhElem := mathElem (fun neg => (oneVal neg, 0))
  (fun neg m e => if m = 0 then (zeroVal neg, 0) else (exactTanh neg m e, 0))

def execFexp2 (i o : BitVec 3) (d a : BitVec 6) (k r : BitVec 3) (s : State) : Out :=
  .next (specSame i o d a k r 1 fexp2Elem s)
def execFlog2 (i o : BitVec 3) (d a : BitVec 6) (k r : BitVec 3) (s : State) : Out :=
  .next (specSame i o d a k r 1 flog2Elem s)
def execFrcp (i o : BitVec 3) (d a : BitVec 6) (k r : BitVec 3) (s : State) : Out :=
  .next (specSame i o d a k r 1 frcpElem s)
def execFrsq (i o : BitVec 3) (d a : BitVec 6) (k r : BitVec 3) (s : State) : Out :=
  .next (specSame i o d a k r 1 frsqElem s)
def execFsqrt (i o : BitVec 3) (d a : BitVec 6) (k r : BitVec 3) (s : State) : Out :=
  .next (specSame i o d a k r 1 fsqrtElem s)
def execFtanh (i o : BitVec 3) (d a : BitVec 6) (k r : BitVec 3) (s : State) : Out :=
  .next (specSame i o d a k r 1 ftanhElem s)

/-- fscl: x × 2^j with j the signed lend byte (07 R167). -/
def execFscl (i o : BitVec 3) (d a : BitVec 6) (k r : BitVec 3) (s : State) : Out :=
  let j := s.cur.lend.toInt
  .next (specSame i o d a k r 0 (mathElem (fun neg => (.inf neg, 0)) (fun neg m e => (.num neg m (e + j) false, 0))) s)

/-- frnd: to an integral value in the same format, never inexact (07 R168). -/
def frndElem (fm : Fmt) (mode : Rounding) (x : Nat) : Nat × BitVec 5 :=
  match fm.value x with
  | .nan sig => (fm.nan, if sig then flagInv else 0)
  | .inf _ => (x, 0)
  | .num neg m e more =>
    if m = 0 then (x, 0)
    else
      let (r, _) := roundInt mode neg m e more
      ((fm.round .rn (if r = 0 then zeroVal neg else .num neg r.natAbs 0 false)).1, 0)

def execFrnd (i o : BitVec 3) (d a : BitVec 6) (k r : BitVec 3) (s : State) : Out :=
  .next (specSame i o d a k r 1 frndElem s)

/-- The value of an integer element. -/
def intVal (v : Int) : Exact := .num (decide (v < 0)) v.natAbs 0 false

/-- One conversion (07 R169). -/
def fcvtElem (tin tout : Nat) (mode : Rounding) (x : Nat) : Nat × BitVec 5 :=
  match ffmt tin, ffmt tout with
  | some fi, some fo => fo.round mode (fi.value x)
  | some fi, none =>
    let W := if tout = 0 then 8 else 32
    let lo : Int := -(2 ^ (W - 1))
    let hi : Int := 2 ^ (W - 1) - 1
    match fi.value x with
    | .nan _ => (0, flagInv)
    | .inf neg => (lowBits (if neg then lo else hi) W, flagInv)
    | .num neg m e more =>
      let (r, inx) := roundInt mode neg m e more
      if r < lo then (lowBits lo W, flagInv) else if hi < r then (lowBits hi W, flagInv)
      else (lowBits r W, if inx then flagInx else 0)
  | none, some fo => fo.round mode (intVal (sextN x (if tin = 0 then 8 else 32)))
  | none, none =>
    if tin = 0 then (lowBits (sextN x 8) 32, 0) else (lowBits (satI8 (sextN x 32)) 8, 0)

def execFcvt (i o : BitVec 3) (d a : BitVec 6) (k r : BitVec 3) (s : State) : Out :=
  .next <| s.needGrant [a.toNat, d.toNat] <|
    match fwidth i.toNat, fwidth o.toNat with
    | some win, some wout =>
      if i = o then s.trapReserved
      else specElems d a (k.setWidth 6) (r.setWidth 6) win wout (max (win / wout) (max (wout / win) 1))
        (fcvtElem i.toNat o.toNat) s
    | _, _ => s.trapReserved

/-- The exponent byte, mantissa bytes and flags of one block's active sources, as (byte, source) pairs (07 R170). -/
def packBlock (m : Nat) (fm : Fmt) (mode : Nat → Rounding) (act : List (Nat × Nat)) : Nat × List (Nat × Nat) × BitVec 5 :=
  let vals := act.map fun q => (q.1, fm.value q.2)
  if vals.any (fun v => match v.2 with | .num _ _ _ _ => false | _ => true) then
    (255, vals.map fun v => (v.1, 0), flagInv)
  else if vals.all (fun v => v.2.isZero) then (0, vals.map fun v => (v.1, 0), 0)
  else
    let top : Int := vals.foldl (fun acc v => match v.2 with
      | .num _ mm e _ => if mm = 0 then acc else max acc ((ilog2 mm : Int) + e)
      | _ => acc) (-1000)
    let e0 := top + 128
    let E : Int := if 254 < e0 then 254 else if e0 < 1 then 1 else e0
    let bs := vals.map fun v => match v.2 with
      | .num neg mm e _ =>
        let (r, inx) := roundInt (mode v.1) neg mm (e + (m - 1 + 127 - E)) false
        let c := min (max r (-(2 ^ (m - 1)))) (2 ^ (m - 1) - 1)
        (v.1, lowBits c 8, inx || decide (c ≠ r))
      | _ => (v.1, 0, false)
    (E.toNat, bs.map fun b => (b.1, b.2.1),
      (if bs.any (·.2.2) then flagInx else 0) ||| (if 254 < e0 then flagOvf else 0))

/-- fbpk: floats into BFP-m bytes of d with block exponents in d + 1 (07 R170). DESIGN CHOICE (log entry 66): with d = 63 the
register beyond the grant is 64, and the record of trap 0x12 says 64 (06 R131). -/
def execFbpk (i m : BitVec 3) (d a : BitVec 6) (k r : BitVec 3) (s : State) : Out :=
  .next <| s.needGrant [a.toNat, d.toNat, d.toNat + 1] <|
    if i.toNat < 4 ∨ i = 7 ∨ m = 7 then s.trapReserved
    else
      let win := vwidth i.toNat
      let code := s.effRound r
      match partOf s win with
      | none => s.trapReserved
      | some p =>
        if code = 7 then s.trapReserved
        else
          let mm := m.toNat + 2
          let nin := 128 / win
          let km := s.readK k.toNat
          let va := s.readV a.toNat
          let (w, s) := roundWord s code
          let blocks := (List.range 8).flatMap fun c => (List.range (nin / 32)).filterMap fun b =>
            let act := ((List.range 32).map fun e =>
              (c * 128 + p * nin + 32 * b + e, elem win va (c * nin + 32 * b + e))).filter fun q => km.getLsbD q.1
            if act.isEmpty then none
            else
              let x := packBlock mm (vfmt i.toNat) (fun j => elemMode code w (elemIndex 1 j)) act
              some (c * 128 + (p * nin + 32 * b) / 32, x)
          let s := s.writeElems d.toNat 1 8 (blocks.foldl (fun acc b => acc ||| b.2.2.2) 0)
            (blocks.flatMap fun b => b.2.2.1)
          s.writeElems (d.toNat + 1) 1 8 0 (blocks.map fun b => (b.1, b.2.1))

/-- fbunpk: BFP-m bytes into floats (07 R171). DESIGN CHOICE (log entry 66): with a = 63 the record of trap 0x12 says 64, as
in fbpk (06 R131). -/
def execFbunpk (o m : BitVec 3) (d a : BitVec 6) (k r : BitVec 3) (s : State) : Out :=
  .next <| s.needGrant [a.toNat, a.toNat + 1, d.toNat] <|
    if o.toNat < 4 ∨ o = 7 ∨ m = 7 then s.trapReserved
    else
      let wout := vwidth o.toNat
      let code := s.effRound r
      match partOf s wout with
      | none => s.trapReserved
      | some p =>
        if code = 7 then s.trapReserved
        else
          let mm := m.toNat + 2
          let nout := 128 / wout
          let fm := vfmt o.toNat
          let km := s.readK k.toNat
          let va := s.readV a.toNat
          let ve := s.readV (a.toNat + 1)
          let (w, s) := roundWord s code
          let rs := (actives wout km).map fun j =>
            let c := j / nout
            let g := p * nout + j % nout
            let M := sextN (elem 1 va (c * 128 + g)) mm
            let E := elem 1 ve (c * 128 + g / 32)
            let x :=
              if E = 0 then (0, (0 : BitVec 5))
              else if E = 255 then (fm.nan, 0)
              else fm.round (elemMode code w (elemIndex wout j))
                (.num (decide (M < 0)) M.natAbs ((E : Int) - 127 - (mm - 1)) false)
            (j, x.1, x.2)
          s.writeElems d.toNat wout 8 (rs.foldl (fun acc x => acc ||| x.2.2) 0) (rs.map fun x => (x.1, x.2.1))

/-- bobpop: one word of the queue into s[d]; a pop into s0 still pops (07 R172). -/
def execBobpop (d : BitVec 6) (s : State) : Out :=
  let (w, s') := s.popBobbin s.cur.core
  .next (s'.writeS d 8 w)

end Sys2Proof.Machine
end

