-- ==== Sys2Proof/Machine/Store.lean ====
section
/-! DEFINITION. Slots M0 and M1 on the local stores and the accumulator banks: vector and scalar transfers, accumulator
rows, in-use bits, scacc (08 R184 to R199). -/

namespace Sys2Proof.Machine

open State

/-- The smallest of the numbers given. -/
def least (l : List (Option Nat)) : Option Nat :=
  l.foldl (fun acc o => match acc, o with
    | some a, some b => some (min a b)
    | some a, none => some a
    | none, o => o) none

/-- The lowest of n bytes at a that lies at or beyond a size. -/
def outside (size a n : Nat) : Option Nat := if a + n ≤ size then none else some (max a size)

/-- The lowest poisoned byte address of n bytes at a: its sector's lowest byte (08 R182). -/
def poisonedAt (p : Memory) (a n : Nat) : Option Nat := (firstPoison p a n).map (32 * ·)

def wstoreSize : Nat := 0x80000
def xstoreSize : Nat := 0x60000

/-- The addresses of the eight clusters (08 R185). -/
def clusterAddrs (a stride : Nat) : List Nat := (List.range 8).map fun c => a + c * stride

/-- The checks of a vector access to a local store, in the order of 08 R184: grant, alignment, range. -/
def vecStoreChecks (s : State) (v : BitVec 6) (size : Nat) (as_ : List Nat) (ok : State) : State :=
  s.needGrant [v.toNat] <|
    let a := as_.headD 0
    if a % 16 ≠ 0 then s.trapHere 0x04 a 0
    else match least (as_.map fun ac => outside size ac 128) with
      | some x => s.trapHere 0x05 x 0
      | none => ok

/-- A vector load from a local store (08 R185). -/
def vecStoreLoad (s : State) (v : BitVec 6) (size : Nat) (sp : Space) (store : Memory) (as_ : List Nat) : State :=
  vecStoreChecks s v size as_ <|
    match least (as_.map fun ac => poisonedAt (Space.codes sp (s.core s.cur.core).st) ac 128) with
    | some x => s.trapHere 0x08 x 0
    | none => (s.mend s.cur.core sp (as_.flatMap fun ac => sectorsOf ac 128)).writeV v.toNat 5
        (bytesToBits 8192 (as_.flatMap fun ac => store.read ac 128))

/-- The bytes each cluster stores (08 R185). -/
def clusterParts (data : BitVec 8192) (as_ : List Nat) : List (Nat × List (BitVec 8)) :=
  (List.range as_.length).map fun c => (as_.getD c 0, bytesLE 128 (data.toNat / 2 ^ (1024 * c)))

/-- The cluster stride of ldx and stx in bytes (08 R186). -/
def xstride (s : State) : Nat := 16 * bits (s.readC 0x020) 18 4

def execLdx (v b : BitVec 6) (o : BitVec 10) (s : State) : Out :=
  let st := (s.core s.cur.core).st
  .next (vecStoreLoad s v xstoreSize .xstore st.xstore (clusterAddrs (s.addrOf b 128 o) (xstride s)))

def execStx (v b : BitVec 6) (o : BitVec 10) (s : State) : Out :=
  let as_ := clusterAddrs (s.addrOf b 128 o) (xstride s)
  .next (vecStoreChecks s v xstoreSize as_ (s.schedule 1 0 (.xstore (clusterParts (s.readV v.toNat) as_))))

def execLdw (v b : BitVec 6) (o : BitVec 10) (s : State) : Out :=
  let st := (s.core s.cur.core).st
  .next (vecStoreLoad s v wstoreSize .wstore st.wstore (clusterAddrs (s.addrOf b 128 o) 128))

def execStw (v b : BitVec 6) (o : BitVec 10) (s : State) : Out :=
  let as_ := clusterAddrs (s.addrOf b 128 o) 128
  .next (vecStoreChecks s v wstoreSize as_ (s.schedule 1 0 (.wstore (clusterParts (s.readV v.toNat) as_))))

/-- ldxs: one scalar from the X-store (08 R187). -/
def execLdxs (z : BitVec 3) (d b : BitVec 6) (o : BitVec 10) (s : State) : Out :=
  let n := sizeBytes z.toNat
  let a := s.addrOf b n o
  let st := (s.core s.cur.core).st
  .next <|
    if z = 7 then s.trapReserved
    else if a % n ≠ 0 then s.trapHere 0x04 a 0
    else if xstoreSize < a + n then s.trapHere 0x05 a 0
    else match poisonedAt st.xpoison a n with
      | some x => s.trapHere 0x08 x 0
      | none => (s.mend s.cur.core .xstore (sectorsOf a n)).writeS d 5 (extend z.toNat (st.xstore.readNat a n))

/-- stxs: one scalar into the X-store (08 R187). -/
def execStxs (z : BitVec 3) (d b : BitVec 6) (o : BitVec 10) (s : State) : Out :=
  let n := sizeBytes z.toNat
  let a := s.addrOf b n o
  .next <|
    if 4 ≤ z.toNat then s.trapReserved
    else if a % n ≠ 0 then s.trapHere 0x04 a 0
    else if xstoreSize < a + n then s.trapHere 0x05 a 0
    else s.schedule 1 0 (.xstore [(a, bytesLE n (s.readS d).toNat)])

/-- The first row of an lda or sta (08 R188). -/
def accRowOf (s : State) (r i : BitVec 6) : Nat := ((s.readS r).toNat % 64 + i.toNat) % 64

/-- The first poisoned sector of accumulator rows, as the fault address of 08 R182: the row's designator and the byte
offset of the sector within the row. -/
def poisonedRow (p : Memory) (bank row n : Nat) : Option Nat :=
  ((List.range (8 * n)).find? fun i => badSector p ((bank * 64 + row) * 8 + i)).map fun i =>
    accReg bank (row + i / 8) + 32 * (i % 8) * 2 ^ 16

/-- The sectors of accumulator rows. -/
def rowSectors (bank row n : Nat) : List Nat := (List.range (8 * n)).map fun i => (bank * 64 + row) * 8 + i

/-- The first uncorrectable or poisoned sector of vector register r, as a fault address: its designator and the byte offset
of the sector within it. DESIGN CHOICE (log entry 65). -/
def poisonedReg (s : State) (r : Nat) : Option Nat :=
  let codes := (s.core s.cur.core).st.vpoison
  if codes.isEmpty then none
  else ((List.range 32).find? fun k => badSector codes (32 * s.poolIndex s.cur.ctx r + k)).map fun k =>
    vReg r + 32 * k * 2 ^ 16

/-- lda: row r + j holds bits 2048 j to 2048 j + 2047 of v, in cluster order (08 R188). -/
def execLda (v : BitVec 6) (k : BitVec 4) (r i : BitVec 6) (s : State) : Out :=
  let st := (s.core s.cur.core).st
  let row := accRowOf s r i
  .next <| s.needGrant [v.toNat] <|
    if row % 4 ≠ 0 then s.trapHere 0x04 (accReg k.toNat row) 0
    else match poisonedRow st.accPoison k.toNat row 4 with
      | some x => s.trapHere 0x08 x 0
      | none => (s.mend s.cur.core .acc (rowSectors k.toNat row 4)).writeV v.toNat 4 (BitVec.ofNat 8192 ((List.range 4).foldl (fun acc j =>
          acc + (accRow st (k.toNat * 64 + row + j)).toNat * 2 ^ (2048 * j)) 0))

/-- sta: all words of four rows (08 R188). -/
def execSta (v : BitVec 6) (k : BitVec 4) (r i : BitVec 6) (s : State) : Out :=
  let row := accRowOf s r i
  .next <| s.needGrant [v.toNat] <|
    if row % 4 ≠ 0 then s.trapHere 0x04 (accReg k.toNat row) 0
    else s.schedule 1 0 (.rows (k.toNat * 64 + row)
      ((List.range 4).map fun j => BitVec.ofNat 2048 ((s.readV v.toNat).toNat / 2 ^ (2048 * j))))

/-- The in-use bits of bufhold and buffree, one cycle after issue (08 R195). -/
def inUseOp (on : Bool) (n b : BitVec 6) (o : BitVec 10) (s : State) : State :=
  let g0 : Int := (s.readS b).toNat / 2048 + lendImm o.toNat 10 s.cur.lend
  let cnt := (s.readS n).toNat
  if cnt = 0 then s
  else if g0 < 0 ∨ 192 < g0 + cnt then
    s.trapHere 0x05 (lowBits (2048 * (if g0 < 0 then g0 else max g0 192)) 64) 0
  else s.schedule 1 0 (.inUse g0.toNat cnt on (s.cur.ctx % 8))

def execBufhold (n b : BitVec 6) (o : BitVec 10) (s : State) : Out := .next (inUseOp true n b o s)
def execBuffree (n b : BitVec 6) (o : BitVec 10) (s : State) : Out := .next (inUseOp false n b o s)

/-- P[n] of scacc, exact (08 R198). -/
def scaccTerm (st : CoreStore) (bank g cnt : Nat) (ve : BitVec 8192) (n : Nat) : Dyadic :=
  (List.range cnt).foldl (fun acc j =>
    acc.add ⟨sextN (accWord (accRow st (bank * 64 + 16 * g + j)) n) 32, sextN (elem 1 ve (64 * j + n)) 8⟩) .zero

/-- scacc: the partials of one group, scaled and added into a row at issue + 12 (08 R198, R199). -/
def execScacc (d : BitVec 4) (r : BitVec 6) (b : BitVec 4) (g : BitVec 2) (e : BitVec 5) (c : BitVec 4) (s : State) : Out :=
  let st := (s.core s.cur.core).st
  let cnt := c.toNat + 1
  let have_ := st.counts.get 0 (b.toNat * 4 + g.toNat)
  .next <| s.needGrant [e.toNat] <|
    if cnt ≠ have_ then s.trapHere 0x0C 0 (have_ + cnt * 2 ^ 8)
    else match (poisonedRow st.accPoison b.toNat (16 * g.toNat) cnt).orElse fun _ => poisonedReg s e.toNat with
      | some x => s.trapHere 0x08 x 0
      | none =>
        ((s.mend s.cur.core .acc (rowSectors b.toNat (16 * g.toNat) cnt)).mend s.cur.core .vregs
          ((List.range 32).map (32 * s.poolIndex s.cur.ctx e.toNat + ·))).schedule 12 0 (.scaled (d.toNat * 64 + r.toNat)
          ((List.range 64).map (scaccTerm st b.toNat g.toNat cnt (s.readV e.toNat))))

end Sys2Proof.Machine
end

