-- ==== Sys2Proof/Machine/Engines.lean ====
section
/-! DEFINITION. Engine operations: what they read and write, forks and joins, tags, barriers, stray arrivals, heddle
streams, load-blocks and the ends of all these (09 R213 to R217, 10, 12 R274). -/

namespace Sys2Proof.Machine

def EngineKind.usesChannel : EngineKind → Bool
  | .deck _ _ => false
  | .block _ _ => false
  | _ => true

/-- The lines a stream pins: all of them with keep, else those of the rows not yet taken. -/
def Stream.pinned (v : Stream) : List Nat :=
  if v.opened then (if v.keep then v.lines else v.lines.drop v.pos) else []

/-- Whether the head slot is ready: filled for an input ring, free for an output ring (10 R259). -/
def Ring.ready (r : Ring) : Bool :=
  if r.output then decide (r.head - r.moved < r.count) else decide (r.head < r.moved)

/-- Whether every tile has been consumed or produced. -/
def Ring.ended (r : Ring) : Bool := r.read && decide (r.tiles ≤ r.head)

/-- Whether the head slot may be given: it is ready, and the record is read, which says whether the stream has ended
(10 R259). -/
def Ring.usable (r : Ring) : Bool := r.read && Ring.ready r

/-- Whether the head has reached the failed tile. -/
def Ring.atFailure (r : Ring) : Option (Nat × BitVec 64) :=
  match r.failed with
  | some (t, code, a) => if t ≤ r.head then some (code, a) else none
  | none => none

/-- Whether every done slot of an output ring has been pulled, or the ring has failed. -/
def Ring.drained (r : Ring) : Bool := !r.output || decide (r.moved = r.head) || r.failed.isSome

/-- A barrier's words: armed, phase and count; expected; arrived. -/
structure Barrier where
  w0 : Nat
  expected : Nat
  arrived : Nat
deriving DecidableEq, Repr

def Barrier.armed (b : Barrier) : Bool := decide (b.w0 / 2 ^ 31 % 2 = 1)
def Barrier.phase (b : Barrier) : Bool := decide (b.w0 / 2 ^ 30 % 2 = 1)
def Barrier.count (b : Barrier) : Nat := b.w0 % 2 ^ 30
def Barrier.met (b : Barrier) : Bool := b.armed && decide (b.expected ≤ b.arrived)

def barrierWord (armed phase : Bool) (count : Nat) : Nat :=
  (if armed then 2 ^ 31 else 0) + (if phase then 2 ^ 30 else 0) + count

/-- Where a barrier lies: in the X-store of a core, or at a physical address. -/
inductive Home where
  | store (core addr : Nat)
  | memory (pa : Nat)
deriving DecidableEq, Repr

/-- Whether a barrier lies in global memory. -/
def Home.isGlobal : Home → Bool
  | .store _ _ => false
  | .memory _ => true

/-- An arrival of n bytes; `counts` adds one to the count (10 R246, 11 R260). -/
def Barrier.arrive (b : Barrier) (n : Nat) (counts : Bool) : Barrier :=
  { b with arrived := min (b.arrived + n) 0xFFFFFFFF
           w0 := barrierWord b.armed b.phase (if counts then min (b.count + 1) (2 ^ 30 - 1) else b.count) }

/-- The core charged with a stray: the holder, or for a global barrier the issuer's. -/
def Home.core (x : Nat) : Home → Nat
  | .store c _ => c
  | .memory _ => State.coreOf x

end Sys2Proof.Machine

namespace Sys2Proof.Machine.State

/-! ### Reading -/

def distinct (l : List Nat) : List Nat := l.foldl (fun acc a => if acc.contains a then acc else acc ++ [a]) []

/-- The versions that an engine's reads of bytes return, kept for the operation that takes them. -/
def noteReads (s : State) (es : List Nat) : State :=
  if es.isEmpty then s else s.modCur fun c => { c with reads := c.reads ++ es }

/-- Takes the versions noted. -/
def takeReads (s : State) : List Nat × State :=
  if s.cur.reads.isEmpty then ([], s) else (s.cur.reads, s.modCur fun c => { c with reads := [] })

/-- The bytes of n from a global range under a view, with the offsets that came from poisoned sectors; or the code and
the lowest failing address. A fork waits at a range that a shoot-down holds (10 R238, 12 R274, 22 R388). -/
def readGlobal (s : State) (cn p : Nat) (own : List LineWrite) (snap lim : Nat) (view : Option Nat) (x va n : Nat) :
    Except (Nat × Nat) (List (BitVec 8) × List Nat × State) :=
  if s.cur.live && s.shooting p va n then .ok (List.replicate n 0, [], s.blockFor (s.shotWait p [(va, n, 0)]))
  else match s.translateRange cn p va n .read with
  | .error e => .error e
  | .ok (pages, s1) =>
    let pas := (List.range n).map fun i => physOf pages (va + i)
    .ok (pas.map (s.plainByte x own snap lim view), (List.range n).filter fun i => s.poisonedByte own (pas.getD i 0),
      s1.noteReads (s.readVersions x own snap lim view pas))

/-- The offsets of n bytes at a that lie in poisoned sectors of a store. -/
def badOffsets (poison : Memory) (a n : Nat) : List Nat :=
  if poison.isEmpty then [] else (List.range n).filter fun i => badSector poison ((a + i) / 32)

/-- The bytes an engine of context x reads at an engine address (08 R179, R180, 10 R237). -/
def readPlace (s : State) (x : Nat) (own : List LineWrite) (snap lim : Nat) (view : Option Nat) (a n : Nat) :
    Except (Nat × Nat) (List (BitVec 8) × List Nat × State) :=
  if n = 0 then .ok ([], [], s)
  else match placeOf (coreOf x) a n with
  | .wstore c b =>
    let st := (s.core c).st
    .ok (st.wstore.read b n, badOffsets st.wpoison b n, s.mend c .wstore (sectorsOf b n))
  | .xstore c b =>
    let st := (s.core c).st
    .ok (st.xstore.read b n, badOffsets st.xpoison b n, s.mend c .xstore (sectorsOf b n))
  | .global => s.readGlobal (coreOf x) (s.partOf x) own snap lim view x a n
  | .gap => .error (0x05, gapAddr a)

/-- The read of context x at issue: its view with its own unpublished writes (12 R274). -/
def readIssuer (s : State) (x a n : Nat) : Except (Nat × Nat) (List (BitVec 8) × List Nat × State) :=
  s.readPlace x (s.ownWrites x) (s.ctx x).mem.snap s.pkg.eo (s.ctx x).mem.view a n

/-! ### Writing -/

/-- Poison after an engine wrote n bytes at a: whole sectors cleared, then the sectors of poisoned offsets set
(08 R182, R183). -/
def landPoison (p : Memory) (a n : Nat) (bad : List Nat) : Memory :=
  setPoison (clearPoison p a n) (bad.map fun i => (a + i) / 32)

/-- Writes bytes into an X-store, or a W-store. -/
def writeStore (s : State) (wst : Bool) (c a : Nat) (bs : List (BitVec 8)) (bad : List Nat) : State :=
  (s.noteWrite c (if wst then .wstore else .xstore) [(a, bs.length)]).modStore c fun st =>
    if wst then { st with wstore := st.wstore.write a bs, wpoison := landPoison st.wpoison a bs.length bad }
    else { st with xstore := st.xstore.write a bs, xpoison := landPoison st.xpoison a bs.length bad }

/-- The pieces of a range by pages: virtual and physical address, offset and length. -/
def pageChunks (pages : List (Nat × Nat)) (va n : Nat) : List (Nat × Nat × Nat × Nat) :=
  pages.map fun q => (q.1, q.2, q.1 - va, min (q.1 / 65536 * 65536 + 65536) (va + n) - q.1)

/-- The line writes of bytes over translated pages, with their poison. -/
def linesOver (pages : List (Nat × Nat)) (va : Nat) (bs : List (BitVec 8)) (bad : List Nat) : List LineWrite :=
  (pageChunks pages va bs.length).flatMap fun c =>
    let here := bad.filter fun i => decide (c.2.2.1 ≤ i ∧ i < c.2.2.1 + c.2.2.2)
    (linesOf .engine c.1 c.2.1 ((bs.drop c.2.2.1).take c.2.2.2)).map fun l =>
      { l with poison := BitVec.ofNat 4 ((List.range 4).foldl (fun acc k =>
          if here.any (fun i => decide ((c.2.1 + (i - c.2.2.1)) / 32 = 4 * l.line + k)) then acc + 2 ^ k else acc) 0) }

/-- The pages of an engine's global destination: translated for writing and outside translation memory (22 R387). -/
def writePages (s : State) (x va n : Nat) : Except (Nat × Nat) (List (Nat × Nat) × State) :=
  match s.translateRange (coreOf x) (s.partOf x) va n .write with
  | .error e => .error e
  | .ok (pages, s1) =>
    match (pageChunks pages va n).find? fun c => s.inAnyTmem c.2.1 c.2.2.2 with
    | some c => .error (0x07, c.1)
    | none => .ok (pages, s1)

/-- The completion object of card copies with tag t, and of slot j of ring h (12 R274). -/
def cardKey (t : Nat) : Nat := 128 + t
def slotKey (h j : Nat) : Nat := 256 + 64 * h + j

/-- The same object, for what operations forked in held mode have read (17 R331). -/
def heldKey (key : Nat) : Nat := 2048 + key

/-- Engine writes land at the homes as private versions not joined yet, or in the held buffer; writes of an engine whose
held buffer is gone go with it (12 R274, 17 R329). -/
def landLines (s : State) (x key : Nat) (held : Bool) (ls : List LineWrite) : State :=
  let placed := ls.foldl (fun (acc : List LineWrite) l => acc ++ [{ l with home := s.engineHome x acc l.line }]) []
  s.modMem x fun m =>
    match held, m.held with
    | true, some h => { m with held := some { h with lines := ls.foldl (fun t l => addLine t { l with home := .held }) h.lines } }
    | true, none => m
    | false, _ => { m with landed := (placed.map fun l => (key, l)) ++ m.landed }

/-- join: the landed writes of a completion object become writes of the context, and what its operations read happens
before the context's next event (12 R274). -/
def joinKey (s : State) (x key : Nat) : State :=
  let s := s.learn x (((s.ctx x).mem.engineReads.filter fun q => q.1 = key ∨ q.1 = heldKey key).map (·.2))
  s.modMem x fun m =>
    { m with
      unpub := (m.landed.filter fun w => w.1 = key).reverse.foldl (fun u w => addLine u w.2) m.unpub
      landed := m.landed.filter fun w => ¬ w.1 = key
      engineReads := m.engineReads.filter fun q => ¬ (q.1 = key ∨ q.1 = heldKey key) }

/-- Observing tag t ready joins its operations (10 R235). -/
def joinTag (s : State) (x t : Nat) : State := (s.joinKey x t).joinKey x (cardKey t)

/-- Every tag whose bit is 1 in a value read is joined (10 R235). -/
def joinTags (s : State) (x : Nat) (ready : BitVec 64) : State :=
  (List.range 64).foldl (fun (s : State) t => if ready.getLsbD t then s.joinTag x t else s) s

def joinAll (s : State) (x : Nat) : State :=
  let s := s.learn x ((s.ctx x).mem.engineReads.map (·.2))
  s.modMem x fun m => { m with
    unpub := m.landed.reverse.foldl (fun u w => addLine u w.2) m.unpub, landed := [], engineReads := [] }

/-! ### Engine operations -/

/-- Copy-channel entries taken on core n (10 R236). -/
def channelUse (s : State) (n : Nat) : Nat := ((s.core n).engines.filter fun e => EngineKind.usesChannel e.kind).length

def engine (s : State) (n id : Nat) : Option EngineOp := (s.core n).engines.find? fun e => e.id = id

/-- The wait of a copy instruction for an entry of the channel (10 R236). -/
def channelWait : WaitFor := ⟨4, 0, 2, none⟩

/-- The claims on an entry of core n's channel: who waits for one, and since when. The contexts are named by their numbers,
the card sequencer by 8; of claims of one cycle the lower goes first (10 R236). -/
def channelClaims (s : State) (n : Nat) : List (Nat × Nat) :=
  ((List.range 8).filterMap fun c =>
    let i := (s.ctx (8 * n + c)).iss
    if i.wait = some channelWait then i.waitFrom.map fun t => (c, t) else none)
    ++ (match (s.core n).seq.copyWait with | some t => if (s.core n).seq.running then [(8, t)] else [] | none => [])

/-- Whether another claim on the channel of core n came before that of `who` (10 R236). -/
def channelAhead (s : State) (n who : Nat) : Bool :=
  let all := s.channelClaims n
  let mine := (all.find? fun q => q.1 = who).map (·.2)
  all.any fun q => decide (q.1 ≠ who) && match mine with
    | none => true
    | some t => decide (q.2 < t ∨ (q.2 = t ∧ q.1 < who))

/-- Whether a claim on an entry of core n's channel has to wait. -/
def channelFull (s : State) (n who : Nat) : Bool := decide (32 ≤ s.channelUse n) || s.channelAhead n who

/-- Whether an instruction that binds tag t, and takes a channel entry when `chan`, has to wait; entries go to the
instructions that wait for them in the order in which they came (10 R231, R236). -/
def mustWait (s : State) (x t : Nat) (chan : Bool) : Bool :=
  decide (63 ≤ ((s.ctx x).tags.get resetTag t).pend) || (chan && s.channelFull (coreOf x) (x % 8))

/-- Its wait. -/
def bindWait (s : State) (x t : Nat) : WaitFor :=
  if 63 ≤ ((s.ctx x).tags.get resetTag t).pend then ⟨4, 0, 0, none⟩ else channelWait

/-- The local stores of a core's quad. -/
def quadStores (s : State) (n : Nat) : Tab CoreStore :=
  (List.range 4).map fun q => (n / 4 * 4 + q, (s.core (n / 4 * 4 + q)).st)

/-- An operation of context x with the issuer's view at issue; a chain reads its records later, and so keeps the local stores
of the quad as they stand (08 R196, 12 R274). -/
def forkOp (s : State) (x t : Nat) (kind : EngineKind) (data : List (BitVec 8)) (bad : List Nat) (status : Nat)
    (fa : BitVec 64) (card : Bool) (seen : List Nat) : EngineOp :=
  let m := (s.ctx x).mem
  { id := 0, ctx := x, tag := t, kind := kind, data := data, poison := bad,
    view := m.view, snap := m.snap, eo := s.pkg.eo, own := s.ownWrites x, held := (heldModeOf m).isSome, status := status, fa := fa,
    cancel := false, issued := s.pkg.now, fromCard := card, reads := seen, started := false, sectors := []
    stores := match kind with | .chain _ => s.quadStores (coreOf x) | _ => []
    knows := m.carry.map (·.1), result := none }

/-- Binds the tag of an operation, which begins under the next number of its core (10 R232). -/
def startEngine (s : State) (e : EngineOp) : State :=
  (s.bindTag e.ctx e.tag).modCore (coreOf e.ctx) fun c =>
    { c with engines := c.engines ++ [{ e with id := c.nextId }], nextId := c.nextId + 1 }

/-- Binds the tag and forks an operation with the issuer's view at issue (10 R232, 12 R274). -/
def fork (s : State) (x t : Nat) (kind : EngineKind) (data : List (BitVec 8)) (bad : List Nat) (status : Nat)
    (fa : BitVec 64) (card : Bool) : State :=
  let (seen, s) := s.takeReads
  let e := s.forkOp x t kind data bad status fa card seen
  (s.startEngine e).keepWalks (8000 + coreOf x) e.id

def setEngine (s : State) (n : Nat) (e : EngineOp) : State :=
  s.modCore n fun c => { c with engines := c.engines.map fun o => if o.id = e.id then e else o }

def dropEngine (s : State) (n id : Nat) : State :=
  s.modCore n fun c => { c with engines := c.engines.filter fun o => ¬ o.id = id }

/-- The completion object of an operation's global writes. -/
def EngineOp.key (e : EngineOp) : Nat := if e.fromCard then cardKey e.tag else e.tag

/-- complete(t, status, fault address) and the end of the operation (10 R232). What it read waits for the join, and an
uncorrectable entry that its walk met is logged (22 R386). -/
def finish (s : State) (n : Nat) (e : EngineOp) (status : Nat) (fa : BitVec 64) : State :=
  let key := if e.held then heldKey (EngineOp.key e) else EngineOp.key e
  let s := if e.reads.isEmpty then s
    else s.modMem e.ctx fun m => { m with engineReads := e.reads.map (fun v => (key, v)) ++ m.engineReads }
  let s := if status = 1 then s.logWalk (s.partOf e.ctx) fa.toNat else s
  let s := s.forgetWalks
  (s.dropEngine n e.id).completeTag e.ctx e.tag status fa

/-- The worse of two statuses with its fault address (10 R233). -/
def worse (a : Nat × BitVec 64) (b : Nat × BitVec 64) : Nat × BitVec 64 :=
  if statusRank b.1 > statusRank a.1 then b else a

/-- Where the bytes of an engine's range of context x lie: offset in the range, place and length of each piece. A place is
a physical address, or 2^60 and more for a byte of a local store. -/
def placesOf (s : State) (x a n : Nat) : List (Nat × Nat × Nat) :=
  match placeOf (coreOf x) a n with
  | .wstore c b => [(0, 2 ^ 60 + c * 2 ^ 22 + b, n)]
  | .xstore c b => [(0, 2 ^ 61 + c * 2 ^ 22 + b, n)]
  | .gap => []
  | .global => (pagesOf a n).filterMap fun va => (s.walk (s.partOf x) va).map fun l =>
      (va - a, entryPa l.entry + va % 2 ^ l.size, min (va / 65536 * 65536 + 65536) (a + n) - va)

/-- The lines of global memory that a range of context x lies in. -/
def globalLines (s : State) (x a n : Nat) : List Nat :=
  (s.placesOf x a n).flatMap fun p =>
    if 2 ^ 60 ≤ p.2.1 then []
    else (List.range ((p.2.1 + p.2.2 - 1) / 128 - p.2.1 / 128 + 1)).map (· + p.2.1 / 128)

/-- Whether byte i of a range of places is a byte of another. -/
def shared (ps qs : List (Nat × Nat × Nat)) (i : Nat) : Bool :=
  match ps.find? fun p => decide (p.1 ≤ i ∧ i < p.1 + p.2.2) with
  | some p => qs.any fun q => decide (q.2.1 ≤ p.2.1 + (i - p.1) ∧ p.2.1 + (i - p.1) < q.2.1 + q.2.2)
  | none => false

/-- Whether two ranges of places have bytes in common. -/
def overlap (ps qs : List (Nat × Nat × Nat)) : Bool :=
  ps.any fun p => qs.any fun q => decide (p.2.1 < q.2.1 + q.2.2 ∧ q.2.1 < p.2.1 + p.2.2)

/-- The bytes of a copy of context x with the destination bytes that are source bytes too free (10 R238; log entry 6). -/
def copyBytes (s : State) (x k dst src : Nat) (data : List (BitVec 8)) : List (BitVec 8) :=
  let ps := s.placesOf x dst data.length
  let qs := s.placesOf x src data.length
  if overlap ps qs then
    (List.range data.length).map fun i => if shared ps qs i then Config.freeByte k i else data.getD i 0
  else data

/-! ### Sectors of a move (08 R197, 10 R238) -/

/-- The destination sectors of n bytes at a of a local store, counted from the first. -/
def moveSectors (a n : Nat) : List Nat := List.range (sectorsOf a n).length

/-- Lands some sectors of a move of bytes to address b of a local store. -/
def landSectors (s : State) (wst : Bool) (c b : Nat) (bs : List (BitVec 8)) (bad : List Nat) (secs : List Nat) : State :=
  secs.foldl (fun (s : State) i =>
    let lo := max b (32 * (b / 32 + i))
    let hi := min (b + bs.length) (32 * (b / 32 + i) + 32)
    s.writeStore wst c lo ((bs.drop (lo - b)).take (hi - lo))
      ((bad.filter fun j => decide (lo ≤ b + j ∧ b + j < hi)).map fun j => b + j - lo)) s

/-- Whether a destination sector, counted from the first, of a transfer that did not complete has landed, by a free value (10 R241,
08 R197; log entry 6). -/
def hasLanded (k i : Nat) : Bool := (Config.freeByte k i).getLsbD 0

/-- The line writes of a cut transfer to bytes from address a: those of the sectors that have landed. -/
def cutLines (k a : Nat) (ls : List LineWrite) : List LineWrite :=
  (ls.map fun l =>
    let on := (List.range 4).filter fun j => hasLanded k (4 * l.vline + j - a / 32)
    { l with
      mask := l.mask &&& BitVec.ofNat 128 (on.foldl (fun acc j => acc + (2 ^ 32 - 1) * 2 ^ (32 * j)) 0)
      poison := l.poison &&& BitVec.ofNat 4 (on.foldl (fun acc j => acc + 2 ^ j) 0) }).filter fun l => l.mask ≠ 0

/-- Writes an engine's bytes to a local place; a global or gap destination is left alone. -/
def writeLocal (s : State) (x a : Nat) (bs : List (BitVec 8)) (bad : List Nat) : State :=
  match placeOf (coreOf x) a bs.length with
  | .wstore c b => s.writeStore true c b bs bad
  | .xstore c b => s.writeStore false c b bs bad
  | _ => s

/-! ### Chain records (10 R239, R240) -/

/-- A chain record: source, destination, length, flags and the next record. -/
structure ChainRecord where
  src : Nat
  dst : Nat
  len : Nat
  flags : Nat
  next : Nat
deriving DecidableEq, Repr

/-- The newest versions of the bytes at pa that an engine's own writes do not hold. -/
def readAt (s : State) (e : EngineOp) (pa n : Nat) : List Version :=
  let as_ := (bytesFrom pa n).filter fun a => (ownByte a e.own).isNone
  s.versions.filter fun v => as_.any fun a => (s.newestAt a).any fun u => decide (u.eo = v.eo)

/-- The releases with which an engine's .sys acquire of bytes synchronises (10 R240, 12 R272). -/
def releasesMet (s : State) (e : EngineOp) (pa n : Nat) : List Release :=
  (s.releasesAt ((bytesFrom pa n).filter fun a => (ownByte a e.own).isNone)).filter fun r => Release.meets r (coreOf e.ctx) 5

/-- The view an engine gains by the releases that it synchronises with: from where they stand in the epoch order on (10 R240,
12 R272, R277; log entry 21). -/
def gainView (e : EngineOp) (rs : List Release) : Option Nat :=
  rs.foldl (fun view r => view.map fun n => max n (r.eo + 1)) e.view

/-- The record at p, read at its home: an own write of the fork first, else the bytes now; with the view gained. None
where it is misaligned, in the window region, untranslated or poisoned. DESIGN CHOICE (log entry 66): R240 names no case for a
poisoned record, and it ends the chain with status error at p. -/
def chainRecord (s : State) (e : EngineOp) (p : Nat) : Option (ChainRecord × Option Nat × State) :=
  if p % 32 ≠ 0 ∨ inWindow p then none
  else match s.translateRange (coreOf e.ctx) (s.partOf e.ctx) p 32 .read with
  | .error _ => none
  | .ok (pages, s1) =>
    let pa := physOf pages p
    if s1.poisonedByte e.own pa then none
    else
      let bs := (List.range 32).map fun i => (ownByte (pa + i) e.own).getD (s1.mem.get (pa + i))
      let f := fun o n => ofBytesLE ((bs.drop o).take n)
      let rs := s1.releasesMet e pa 32
      some (⟨f 0 8, f 8 8, f 16 4, f 20 4, f 24 8⟩, gainView e rs,
        s1.noteReads ((s1.readAt e pa 32).map (·.eo) ++ rs.flatMap (·.knows)))

/-- What a chain reads in a window: the bytes of the local store as it stood at the fork, with the chain's own landings since,
and the offsets of poisoned ones (08 R196). -/
def windowData (e : EngineOp) (a n : Nat) : Option (List (BitVec 8) × List Nat) :=
  match placeOf (coreOf e.ctx) a n with
  | .wstore c b => let st := e.stores.get resetStore c; some (st.wstore.read b n, badOffsets st.wpoison b n)
  | .xstore c b => let st := e.stores.get resetStore c; some (st.xstore.read b n, badOffsets st.xpoison b n)
  | _ => none

/-- A chain sees in the local stores what it has landed there itself (08 R196). -/
def seeLanding (s : State) (e : EngineOp) (dst n : Nat) : EngineOp :=
  match placeOf (coreOf e.ctx) dst n with
  | .wstore c b =>
    let st := (s.core c).st
    let v := e.stores.get resetStore c
    { e with stores := e.stores.put c { v with
      wstore := v.wstore.write b (st.wstore.read b n), wpoison := landPoison v.wpoison b n (badOffsets st.wpoison b n) } }
  | .xstore c b =>
    let st := (s.core c).st
    let v := e.stores.get resetStore c
    { e with stores := e.stores.put c { v with
      xstore := v.xstore.write b (st.xstore.read b n), xpoison := landPoison v.xpoison b n (badOffsets st.xpoison b n) } }
  | _ => e

/-- The source bytes of a chain's record, with their poison, and the operation with what it has read: those read when the
record was started, else those now (08 R196, 10 R240). -/
def recordData (s : State) (e : EngineOp) (r : ChainRecord) (view : Option Nat) :
    Except (Nat × Nat) (List (BitVec 8) × List Nat × EngineOp × State) :=
  if e.started then .ok (e.data, e.poison, e, s)
  else match s.readPlace e.ctx e.own e.snap e.eo view r.src r.len with
    | .error f => .error f
    | .ok (data, bad, s1) =>
      let q := s1.takeReads
      let d := (windowData e r.src r.len).getD (data, bad)
      .ok (d.1, d.2, { e with view := view, started := true, data := d.1, poison := d.2, reads := e.reads ++ q.1 }, q.2)

/-- The move that an operation is making: its destination, its bytes and the offsets of poisoned ones. -/
def currentMove (s : State) (e : EngineOp) : Option (Nat × List (BitVec 8) × List Nat) :=
  match e.kind with
  | .copy dst _ len =>
    if len = 0 then none else if e.status = 1 then some (dst, freeBytes s.free len, []) else some (dst, e.data, e.poison)
  | .chain p =>
    match s.chainRecord e p with
    | none => none
    | some (r, view, s1) =>
      if r.flags % 2 = 0 ∨ r.len = 0 then none
      else match s1.recordData e r view with
      | .error _ => none
      | .ok (data, bad, _, _) => some (r.dst, data, bad)
  | _ => none

/-- What a cancelled or abandoned operation leaves in the local stores: of the sectors that have not landed yet, some land with
their poison (08 R182, 10 R241). -/
def abandon (s : State) (e : EngineOp) : State :=
  match s.currentMove e with
  | none => s
  | some (dst, data, bad) =>
    let (k, s) := s.fresh
    let secs := fun (b : Nat) => (moveSectors b data.length).filter fun i => !e.sectors.contains i && hasLanded k i
    match placeOf (coreOf e.ctx) dst data.length with
    | .wstore c b => s.landSectors true c b data bad (secs b)
    | .xstore c b => s.landSectors false c b data bad (secs b)
    | _ => s

/-- The undefined global destination of a cancelled operation: some of its sectors have landed with their poison (08 R182,
10 R241). -/
def abandonGlobal (s : State) (n : Nat) (e : EngineOp) : State :=
  match s.currentMove e with
  | none => s
  | some (dst, data, bad) =>
    match placeOf n dst data.length with
    | .global =>
      match s.writePages e.ctx dst data.length with
      | .error _ => s
      | .ok (pages, s) =>
        let (k, s) := s.fresh
        s.landLines e.ctx (EngineOp.key e) e.held (cutLines k dst (linesOver pages dst data bad))
    | _ => s

/-- Blocks are released: their dirty lines are written back, and the lines return to their hashed homes (10 R254). -/
def dropBlocks (s : State) (gone : Block → Bool) : State :=
  let bs := s.blocks.filter gone
  if bs.isEmpty then s
  else
    let s : State := { s with blocks := s.blocks.filter fun b => !gone b }
    bs.foldl (fun (s : State) b => b.pas.foldl (fun (s : State) l =>
      if s.homeSlice l = b.slice then s else s.dropL2 l) s) s

def releaseBlock (s : State) (x t : Nat) : State := s.dropBlocks fun b => decide (b.ctx = x ∧ b.tag = t)

def releaseBlocks (s : State) (x : Nat) : State := s.dropBlocks fun b => decide (b.ctx = x)

/-- Cancel's acknowledgement of one operation: what it was doing stays undefined, the current record of a chain keeps its
own bit, and the tag completes cancelled, that of a collective with error, as every participant's does (10 R241, 21 R373; log
entry 50). -/
def acknowledge (s : State) (n : Nat) (e : EngineOp) : State :=
  let s := (s.abandon e).abandonGlobal n e
  let s := match e.kind with
    | .deck _ _ => s.modCore n fun c => { c with seq := { c.seq with loading := none, usable := false } }
    | .block _ _ => s.releaseBlock e.ctx e.tag
    | _ => s
  match e.kind with
  | .coll va => s.finish n e 1 (BitVec.ofNat 64 va)
  | _ => s.finish n e 2 0

/-! ### Barriers (10 R245 to R248) -/

def barrierAt (s : State) : Home → Barrier
  | .store c a =>
    let m := (s.core c).st.xstore
    ⟨m.readNat a 4, m.readNat (a + 4) 4, m.readNat (a + 8) 4⟩
  | .memory a => ⟨s.mem.readNat a 4, s.mem.readNat (a + 4) 4, s.mem.readNat (a + 8) 4⟩

/-- A read of a barrier in a local store corrects a single-bit error of its sector (08 R181). DESIGN CHOICE (log entry 66):
the rules give an engine's arrival at a barrier in a poisoned sector no effect of its own, and it counts as at a good one. -/
def mendBarrier (s : State) : Home → State
  | .store c a => s.mend c .xstore (sectorsOf a 16)
  | .memory _ => s

/-- An indivisible read-modify-write at the home; a global barrier's is published at .sys as a write of its context, on the
release sequences that it read (10 R245, 12 R265, R273). -/
def setBarrier (s : State) (x : Nat) (h : Home) (b : Barrier) : State :=
  let bs := bytesLE 4 b.w0 ++ bytesLE 4 b.expected ++ bytesLE 4 b.arrived
  match h with
  | .store c a => (s.mend c .xstore (sectorsOf a 12)).writeStore false c a bs []
  | .memory a => s.homeUpdate x 5 ((List.range 12).map fun i => (a + i, bs.getD i 0))

/-- An arrival at an unarmed barrier: ctl.stray of the core that holds it, and a stray record (10 R247). DESIGN CHOICE (log
entry 66): the header of a multicast's record names the receiving core with the sender's context number (11 R260, 23 R398). -/
def stray (s : State) (n x addr : Nat) : State :=
  let s := s.modCore n fun c => { c with stray := if c.stray = 0xFFFFFFFF then c.stray else c.stray + 1 }
  s.sampleRecord (s.partOf x) 3 (8 * n + x % 8) (addr % 2 ^ 32) (addr / 2 ^ 32)

/-- An arrival at a barrier named by an address (10 R246, R247). -/
def arriveAt (s : State) (x addr : Nat) (h : Home) (n : Nat) (counts : Bool) : State :=
  let b := s.barrierAt h
  if b.armed then s.setBarrier x h (b.arrive n counts) else (s.mendBarrier h).stray (Home.core x h) x addr

/-- barinit discards the counts of a barrier: a landing whose last arrival came before it adds none after it (10 R246,
11 R260; log entry 59). -/
def forgetArrivals (s : State) (c o : Nat) : State :=
  (List.range 4).foldl (fun (s : State) i =>
    let n := c / 4 * 4 + i
    if (s.core n).engines.all fun e => (match e.kind with | .multicast _ _ _ _ _ _ => false | _ => true) then s
    else s.modCore n fun k => { k with engines := k.engines.map fun e => match e.kind with
      | .multicast base len mask boff at_ landed =>
        if boff = o then
          { e with kind := .multicast base len mask boff at_ (landed.map fun q =>
              if q.1 = c % 4 then (q.1, { q.2 with armed := none }) else q) }
        else e
      | _ => e }) s

/-- The engine operation of an arrival that a barrier of core n counted happens before a barwait completed there (10 R246). -/
def noteJoin (s : State) (n o : Nat) (knows : List Nat) : State :=
  if knows.isEmpty then s
  else
    let more := fun (old : List Nat) => knows.foldl (fun acc e => if acc.contains e then acc else e :: acc) old
    s.modCore n fun c => { c with joins := c.joins.put o (more (c.joins.get [] o)) }

/-- A completed barwait joins every engine operation whose bytes the barrier counted: what they wrote stands in the local
stores, and what happens before them happens before the context's next event (10 R246, 12 R274). -/
def joinBarrier (s : State) (x : Nat) : Home → State
  | .store c o => s.learn x ((s.core c).joins.get [] o)
  | .memory _ => s

/-- barinit's effect: armed and empty, the phase kept (10 R246). -/
def armBarrier (s : State) (x : Nat) (h : Home) (n : Nat) : State :=
  let s := match h with | .store c o => s.forgetArrivals c o | .memory _ => s
  s.setBarrier x h ⟨barrierWord true (s.barrierAt h).phase 0, n, 0⟩

/-! ### Heddle streams (09 R213 to R217) -/

def stream (s : State) (n h : Nat) : Stream := (s.core n).streams.get resetStream h
def setStream (s : State) (n h : Nat) (v : Stream) : State :=
  s.modCore n fun c => { c with streams := c.streams.put h v }

/-- Lines pinned by core n over all its streams: each stream pins its own distinct lines, so that a line of two streams
counts for both (09 R213, R214). DEDUCED (log entry 5). -/
def pinnedLines (s : State) (n : Nat) : List Nat :=
  (List.range 4).flatMap fun h => distinct (s.stream n h).pinned

def closeStream (s : State) (n h : Nat) : State := s.setStream n h resetStream

/-- The next row of stream h once it has arrived, taken (09 R216). -/
def takeRow (s : State) (n h : Nat) : (BitVec 1024 × BitVec 4) × State :=
  let v := s.stream n h
  let row := v.rows.getD (v.pos % v.count) (0, 0)
  let more := v.keep || decide (v.arrived + v.asked.length < v.count)
  let v' := { v with pos := v.pos + 1, asked := if more then v.asked ++ [s.pkg.now] else v.asked }
  (row, if !v.keep && decide (v'.pos = v.count) then s.closeStream n h else s.setStream n h v')

/-! ### Rings (10 R255 to R259) -/

def ring (s : State) (n h : Nat) : Ring := (s.core n).rings.get resetRing h
def setRing (s : State) (n h : Nat) (r : Ring) : State := s.modCore n fun c => { c with rings := c.rings.put h r }

/-- An input slot whose fill was in progress is undefined (10 R259; log entry 6). DESIGN CHOICE (log entry 75): the sectors that
its bytes cover whole have good check codes (08 R182). -/
def spoilRing (s : State) (n h : Nat) : State :=
  let r := s.ring n h
  if r.owner.isSome && !r.output && r.read && r.failed.isNone && decide (r.moved < r.tiles)
      && decide (r.moved - r.head < r.count) then
    let (k, s) := s.fresh
    s.writeStore r.wstore n (r.base + r.moved % r.count * r.ssize) (freeBytes k (r.rows * r.rowb)) []
  else s

/-- Frees a handle: its pulls are joined (10 R259). -/
def freeRing (s : State) (n h : Nat) : State :=
  let r := s.ring n h
  let s := s.spoilRing n h
  let s := match r.owner with
    | some x => (List.range r.count).foldl (fun (s : State) j => s.joinKey x (slotKey h j)) s
    | none => s
  s.setRing n h resetRing

/-- The handles a context has bound. -/
def ringsOf (s : State) (x : Nat) : List Nat :=
  (List.range 16).filter fun h => decide ((s.ring (coreOf x) h).owner = some x)

/-! ### Load-blocks (10 R253) and the ends of a context's engines -/

def enginesOf (s : State) (x : Nat) : List EngineOp := (s.core (coreOf x)).engines.filter fun e => e.ctx = x

/-- Whether a deck of context x is loading or running (09 R223). -/
def deckBusy (s : State) (x : Nat) : Bool :=
  let q := (s.core (coreOf x)).seq
  (q.running && decide (q.owner = x)) || (q.loading.isSome && decide (q.loader = x))

/-- Cancels at once every engine of context x that `which` selects; their global writes are dropped (14 R292). -/
def killEngines (s : State) (x : Nat) (which : EngineOp → Bool) : State :=
  ((s.enginesOf x).filter which).foldl (fun (s : State) e =>
    let s := (s.abandon e).dropEngine (coreOf x) e.id
    match e.kind with
    | .deck _ _ => s.modCore (coreOf x) fun c => { c with seq := { c.seq with loading := none, usable := false } }
    | .block _ _ => s.releaseBlock x e.tag
    | _ => s) s

/-- Closes a context's heddle streams and releases its load-blocks (16 R316, 14 R292). -/
def closeUnits (s : State) (x : Nat) : State :=
  let n := coreOf x
  let s := (List.range 4).foldl (fun (s : State) h =>
    if (s.stream n h).opened ∧ (s.stream n h).owner = x then s.closeStream n h else s) s
  s.releaseBlocks x

end Sys2Proof.Machine.State
end

