-- ==== Sys2Proof/Machine/TaskOps.lean ====
section
/-! DEFINITION. The task table, the queues and the overflow ring, publication by a context, and the ways a task ends:
taskend's parts, end_task, a failed pair, a pick's end (14 R292, 16 R304 to R317, 17 R325, R332, R335). -/

namespace Sys2Proof.Machine

/-- A template record (16 R304): bytes 12 to 31 are its kind fields. -/
structure Template where
  entry : BitVec 58
  grant : Nat
  scope : Nat
  gang : Nat
  prio : Nat
  kind : Nat
  fields : List (BitVec 8)
deriving DecidableEq, Repr

/-- How queuing a task ends (16 R310, R313). -/
inductive Queuing where
  | queued
  | full
  | unmapped (page : Nat)
deriving DecidableEq, Repr

namespace State

/-! ### Tables in memory -/

/-- A write of hardware for an agent, published at a scope as the own write of a release (12 R273). -/
def hwWriteAs (s : State) (g : Agent) (p scope va : Nat) (bs : List (BitVec 8)) : State :=
  let s := s.hwWalks p va bs.length .write
  let cells := s.hwCells p va bs
  let s1 := (s.publishCells g.me scope (unitOf scope g.core) cells).repairPoison cells
  let s1 := if cells.isEmpty then s1
    else s1.addRelease (Agent.release { g with knows := s.pkg.eo :: g.knows } s.pkg.eo scope none)
  if cells.length = bs.length then s1 else s1.log 0 0x06 p va

def slotAddr (s : State) (p i : Nat) : Nat := (s.part p).ent.taskBase + 512 * i

/-- n bytes of slot i at an offset, as a number. -/
def slotNat (s : State) (p i off n : Nat) : Option Nat := s.hwNat p (s.slotAddr p i + off) n

def slotPut (s : State) (p i off n v : Nat) : State := s.hwWrite p (s.slotAddr p i + off) (bytesLE n v)

/-- The state byte of a slot (16 R308); a slot that cannot be read counts as in no state. -/
def slotState (s : State) (p i : Nat) : Nat := (s.slotNat p i 0 1).getD 255
def slotGen (s : State) (p i : Nat) : Nat := (s.slotNat p i 1 1).getD 0
def slotTrig (s : State) (p i : Nat) : Nat := (s.slotNat p i 2 1).getD 0
def slotLive (s : State) (p i : Nat) : Nat := (s.slotNat p i 3 1).getD 0

/-- Byte j of a slot's packet. -/
def packetByte (s : State) (p i j : Nat) : Nat := (s.slotNat p i (64 + j) 1).getD 0

/-- po, the offset of the payload in a packet (16 R306). -/
def payloadOff (succ : Nat) : Nat := (16 + 4 * succ + 7) / 8 * 8

def slotCount (s : State) (p : Nat) : Nat := 2 ^ (s.part p).ent.taskN

/-- The lowest free slot. -/
def freeSlot (s : State) (p : Nat) : Option Nat := (List.range (s.slotCount p)).find? fun i => s.slotState p i = 0

/-- A handle: slot and generation (16 R307). -/
def handleOf (slot gen : Nat) : Nat := slot + gen * 2 ^ 24

def stale (s : State) (p h : Nat) : Bool :=
  decide (s.slotCount p ≤ h % 2 ^ 20) || decide (s.slotGen p (h % 2 ^ 20) ≠ h / 2 ^ 24 % 256)

/-- The template record of an id, when it lies in the table and can be read. -/
def template (s : State) (p id : Nat) : Option Template :=
  if (s.part p).ent.tmplCount ≤ id then none
  else (s.hwRead p ((s.part p).ent.tmplBase + 32 * id) 32).map fun bs =>
    let b := fun i => (bs.getD i 0).toNat
    { entry := BitVec.ofNat 58 (ofBytesLE (bs.take 8) / 64), grant := b 8, scope := b 9 % 8, gang := b 9 / 8 % 8
      prio := b 10 % 16, kind := b 11, fields := bs.drop 12 }

/-- The values dispatch accepts (16 R304). -/
def Template.valid (t : Template) : Bool :=
  [16, 24, 32, 48, 64].contains t.grant && decide (t.scope ≤ 5) && decide (1 ≤ t.gang ∧ t.gang ≤ 4)
    && decide (t.kind ≤ 2)

/-- Whether a template id names a template of kind 0 (17 R324, R335). -/
def plainTemplate (s : State) (p id : Nat) : Bool :=
  match s.template p id with
  | some t => decide (t.kind = 0)
  | none => false

/-- The priority of a slot's task: its packet's, or its template's (16 R310). -/
def taskPrio (s : State) (p i : Nat) : Nat :=
  let b := s.packetByte p i 1
  if b / 16 % 2 = 1 then
    match s.template p ((s.slotNat p i 66 2).getD 0) with
    | some t => t.prio
    | none => 0
  else b % 16

/-! ### Queues (16 R310, R313) -/

/-- The dies on which a partition has quads and from which it is not shrunk. -/
def partDies (s : State) (p : Nat) : List Nat :=
  (List.range 8).filter fun d =>
    ((List.range 24).any fun q => (s.part p).ent.quads.getLsbD (24 * d + q)) && !(s.part p).shrunk.contains d

def level (s : State) (p d l : Nat) : List Queued := (s.part p).queues.get [] (d * 16 + l)
def setLevel (s : State) (p d l : Nat) (q : List Queued) : State :=
  s.modPart p fun r => { r with queues := r.queues.put (d * 16 + l) q }

/-- Queue entries of a partition on a die. -/
def entriesOf (s : State) (p d : Nat) : Nat := (List.range 16).foldl (fun acc l => acc + (s.level p d l).length) 0

/-- Room in the partition's share of a die, and among the die's 2,048 entries (16 R310). -/
def shareRoom (s : State) (p d : Nat) : Bool :=
  decide (s.entriesOf p d < (s.part p).ent.shares.get 0 d)
    && decide ((s.parts.map fun q => s.entriesOf q.1 d).foldl (· + ·) 0 < 2048)

/-- The first die with room, from die d upwards, wrapping. -/
def roomFrom (s : State) (p d : Nat) : Option Nat :=
  let ds := s.partDies p
  ((ds.filter (fun e => decide (d ≤ e))) ++ (ds.filter (fun e => decide (e < d)))).find? (s.shareRoom p)

def enqueue (s : State) (p d : Nat) (q : Queued) : State :=
  let l := s.taskPrio p q.slot
  (s.setLevel p d l (s.level p d l ++ [q])).slotPut p q.slot 0 1 2

def ringEmpty (s : State) (p : Nat) : Bool := decide ((s.part p).ent.ringHead = (s.part p).ent.ringTail)
def ringFull (s : State) (p : Nat) : Bool :=
  let e := (s.part p).ent
  decide ((e.ringTail + 8) % e.ringSize = e.ringHead)

/-- Queues a task for a producer on die d, or spills it (16 R310, R313). -/
def queueTask (s : State) (p d : Nat) (q : Queued) : Queuing × State :=
  match (if s.ringEmpty p then s.roomFrom p d else none) with
  | some e => (.queued, s.enqueue p e q)
  | none =>
    if s.ringFull p then (.full, s)
    else
      let e := (s.part p).ent
      let va := e.ringBase + e.ringTail
      match s.hwPhys p va .write with
      | none => (.unmapped (va / 65536 * 65536), s)
      | some _ =>
        let s := s.hwWrite p va (bytesLE 4 (handleOf q.slot q.gen) ++ bytesLE 4 0)
        let s := s.modPart p fun r => { r with ent := { r.ent with ringTail := (e.ringTail + 8) % e.ringSize } }
        (.queued, s.slotPut p q.slot 0 1 2)

/-- Links a released task onto the deferred list (16 R313). -/
def defer (s : State) (p : Nat) (q : Queued) : State :=
  let l := (s.part p).deferred
  let s := match l.getLast? with
    | some last => s.slotPut p last.slot 4 4 q.slot
    | none => s.modPart p fun r => { r with ent := { r.ent with deferred := q.slot + 1 } }
  s.modPart p fun r => { r with deferred := r.deferred ++ [q] }

/-- A release never stalls: it queues the task, or defers it (16 R313). -/
def releaseTask (s : State) (p d slot : Nat) : State :=
  let q : Queued := ⟨slot, s.slotGen p slot⟩
  match s.queueTask p d q with
  | (.queued, s') => s'
  | (_, _) => s.defer p q

/-- The lowest-numbered die of a partition, from which front ends and handler launches queue. -/
def firstDie (s : State) (p : Nat) : Nat := (s.partDies p).headD 0

/-- Frees a slot: its generation advances (16 R308). -/
def dropSlot (s : State) (p i : Nat) : State :=
  let g := s.slotGen p i
  let s := (s.slotPut p i 0 1 0).slotPut p i 1 1 ((g + 1) % 256)
  s.modPart p fun r => { r with
    hslots := r.hslots.filter fun j => ¬ j = i
    queues := r.queues.map fun l => (l.1, l.2.filter fun q => ¬ q.slot = i)
    deferred := r.deferred.filter fun q => ¬ q.slot = i }

def failSlot (s : State) (p i : Nat) : State := s.slotPut p i 0 1 4

/-- Writes a packet into a free slot with its counter, late and trig words (16 R314). -/
def fillSlot (s : State) (p i : Nat) (packet : List (BitVec 8)) (deps : Nat) : State :=
  let s := s.hwWrite p (s.slotAddr p i + 64) packet
  let s := s.slotPut p i 2 2 0
  let s := s.slotPut p i 8 4 deps
  let s := s.slotPut p i 16 8 0
  s.slotPut p i 0 1 1

/-- A TASK packet: priority, template, coordinate and payload, no successors and deps 0 (16 R319, 14 R289). -/
def taskPacket (prio tmpl coord : Nat) (h : Bool) (deps : Nat) (payload : List (BitVec 8)) : List (BitVec 8) :=
  let len := (16 + payload.length + 31) / 32
  let body := [BitVec.ofNat 8 (len - 1 + (if h then 128 else 0)), BitVec.ofNat 8 prio] ++ bytesLE 2 tmpl
    ++ bytesLE 8 coord ++ bytesLE 2 deps ++ bytesLE 2 0 ++ payload
  body ++ List.replicate (32 * len - body.length) 0

/-- Launches the oldest waiting trap message as a task of the handler template at priority 15, when a slot is free and
the task can be queued (14 R289). -/
def launchHandler (s : State) (p : Nat) : State :=
  match (s.part p).handlers, s.freeSlot p with
  | msg :: rest, some i =>
    let s1 := s.fillSlot p i (taskPacket 15 (s.part p).ent.handler 0 false 0 msg) 0
    match s1.queueTask p (s.firstDie p) ⟨i, s.slotGen p i⟩ with
    | (.queued, s2) => s2.modPart p fun r => { r with handlers := rest, hslots := r.hslots ++ [i] }
    | _ => s
  | _, _ => s

/-! ### Publication by a context (12 R266) -/

/-- Whether version pressure, or the want of a way for a prior version, holds back a publication of lines by context x
(12 R271, 22 R383). -/
def linesOff (s : State) (x : Nat) (lines : List Nat) : Bool := lines.any (s.pressed x) || !s.versionWays x lines

def heldOff (s : State) (x : Nat) (lines : List LineWrite) : Bool := s.linesOff x (lines.map (·.line))

/-- Whether an event of context x that makes a version comes behind others: its waiting publications, or an atomic issued
before and not yet performed (12 R265, R280). -/
def behindOthers (s : State) (x : Nat) : Bool :=
  !(s.ctx x).mem.pubs.isEmpty || (s.ctx x).mem.ops.any fun o => o.home.isSome

/-- Whether a publication of lines by context x has to wait: version pressure, an earlier publication, or an atomic
issued before and not yet performed (12 R265, R271, R280). -/
def mustHold (s : State) (x : Nat) (lines : List LineWrite) : Bool :=
  s.behindOthers x || s.heldOff x lines

/-! ### The task of a context -/

/-- Template scope and other properties in ctl.task (04 R108). -/
def taskScope (s : State) (x : Nat) : Nat := bits (s.ctl x 0x001) 6 4
def taskMember (s : State) (x : Nat) : Nat := bits (s.ctl x 0x001) 11 10

/-- The contexts that run members of the task in a slot of partition p. -/
def membersOf (s : State) (p slot : Nat) : List Nat :=
  (s.ctxs.filter fun c => match c.2.task with
    | some t => decide (t.part = p ∧ t.slot = slot) && decide (c.2.iss.phase ≠ .saved)
    | none => false).map (·.1)

/-- The open step of a task and member, with the die whose table holds it (21 R363). -/
def findStep (s : State) (p slot member : Nat) : Option (Nat × StepEntry) :=
  (List.range 8).findSome? fun d =>
    ((s.die d).steps.find? fun e => e.part = p ∧ e.slot = slot ∧ e.member = member).map fun e => (d, e)

def dropStep (s : State) (p slot member : Nat) : State :=
  match s.findStep p slot member with
  | none => s
  | some (d, _) => s.modDie d fun v => { v with
      steps := v.steps.filter fun e => ¬ (e.part = p ∧ e.slot = slot ∧ e.member = member) }

/-- Whether a landing writes a register of a context: the others are of the core. -/
def Write.ofContext : Write → Bool
  | .scalar _ _ => true
  | .vector _ _ _ => true
  | .mask _ _ _ => true
  | .ctl _ _ => true
  | _ => false

/-- A landing that sets in-use bits names no holder any more (10 R251). -/
def Write.unheld : Write → Write
  | .inUse g n on _ => .inUse g n on 8
  | w => w

/-- The context becomes free: its blocks return to the pool, its register results are discarded, no other stands behind it, and
an operation that its last bundle forked goes with it (04 R93, R103, 10 R253, 16 R316). -/
def freeContext (s : State) (x : Nat) : State :=
  let n := coreOf x
  let s := (s.killEngines x fun _ => true).releaseBlocks x
  let s := match (s.ctx x).task with
    | some t => s.dropStep t.part t.slot (s.taskMember x)
    | none => s
  let s := (s.releaseUnit x).modCore n fun c => { c with
    landings := (c.landings.filter fun l => !(decide (l.ctx = x % 8) && Write.ofContext l.what)).map fun l =>
      if l.ctx = x % 8 then { l with what := Write.unheld l.what } else l
    st := { c.st with holders := c.st.holders.filter fun h => ¬ h.2 = x % 8 } }
  let s := s.modCur fun c => if c.ctx = x then { c with ended := true } else c
  (s.clearBehind n x).setCtx x resetCtx

/-! ### Wefts and pairs -/

/-- The weft and pick number a slot holds. -/
def pickOf (s : State) (p slot : Nat) : Option (Weft × Nat) :=
  (s.part p).wefts.findSome? fun w => (w.live.find? fun k => k.2 = slot).map fun k => (w, k.1)

def setWeft (s : State) (p : Nat) (w : Weft) : State :=
  s.modPart p fun r => { r with wefts := r.wefts.map fun v => if v.id = w.id then w else v }

/-- The weft scope code: .quad or .die (17 R324). -/
def weftScope (dieScope : Bool) : Nat := if dieScope then 2 else 1

/-- A pick's end: 0xFFFF in its stage entry as a release at the weft scope. An end_task stops the weft and logs the
picks never produced (17 R325). -/
def endPick (s : State) (g : Agent) (p slot : Nat) (stop : Bool) : State :=
  match s.pickOf p slot with
  | none => s
  | some (w, k) =>
    let sc := weftScope w.dieScope
    let s := (s.widen g sc false).hwWriteAs g p sc (w.stab + 2 * k) (bytesLE 2 0xFFFF)
    let made := w.ended.length + w.live.length
    let w' : Weft := { w with
      ended := w.ended ++ [k], live := w.live.filter fun l => ¬ l.1 = k, stopped := w.stopped || stop }
    let s := if stop ∧ w.stopped = false ∧ made < w.picks then
        s.log 0 0 p (made + (w.picks - made) * 2 ^ 32) else s
    if w'.live.isEmpty ∧ (w'.stopped ∨ w'.ended.length = w.picks) then
      s.modPart p fun r => { r with wefts := r.wefts.filter fun v => ¬ v.id = w.id }
    else s.setWeft p w'

def pairOf (s : State) (p slot : Nat) : Option Pair :=
  (s.part p).pairs.find? fun q => q.surrogate = slot ∨ q.check = slot

/-- The open pair whose check is the task of context x (17 R337). -/
def checkPair (s : State) (x : Nat) : Option Pair :=
  match (s.ctx x).task with
  | some t => (s.part t.part).pairs.find? fun q => q.check = t.slot
  | none => none

def parkedOf (s : State) (p slot : Nat) : Option Parked := (s.part p).parked.find? fun k => k.slot = slot

def unpark (s : State) (p slot : Nat) : State :=
  s.modPart p fun r => { r with parked := r.parked.filter fun k => ¬ k.slot = slot }

def dropPair (s : State) (p : Nat) (q : Pair) : State :=
  s.modPart p fun r => { r with pairs := r.pairs.filter fun v => ¬ v = q }

/-- A subscription forked in held mode goes on unheld; done slots not pulled yet are dropped with the buffer. -/
def Ring.unhold (r : Ring) : Ring :=
  if r.held then { r with held := false, queued := [], moved := if r.output then r.head else r.moved } else r

/-- The context leaves held mode; its held lines are dropped, with the pulls of the rings it forked there. -/
def leaveHeld (s : State) (x : Nat) : State :=
  (s.modMem x fun m => { m with held := none, entering := none }).modCore (coreOf x) fun c =>
    { c with rings := c.rings.map fun r => if r.2.owner = some x then (r.1, Ring.unhold r.2) else r }

/-- Queues the exact task in the surrogate's slot, of which no member runs any more, or marks it failed (16 R308, 17 R335). -/
def queueExact (s : State) (p d slot exact : Nat) : State :=
  let s := s.slotPut p slot 3 1 0
  if s.plainTemplate p exact then
    let s := s.slotPut p slot 64 1 (s.packetByte p slot 0 % 128)
    let s := s.slotPut p slot 66 2 exact
    let s := s.slotPut p slot 76 2 0
    let s := s.slotPut p slot 2 2 0
    let s := s.slotPut p slot 8 4 0
    s.releaseTask p d slot
  else (s.failSlot p slot).log 0 0 p exact

/-- The saved members of a slot's task leave held mode with their records: what a guard or a failed pair does to them before
they issue again (17 R337, R338). -/
def leaveSaved (s : State) (p slot : Nat) : State :=
  let leave := fun (r : SaveRecord) =>
    if r.ctx.task.any (fun t => decide (t.part = p ∧ t.slot = slot)) then
      { r with
        ctx := { r.ctx with mem := { r.ctx.mem with held := none, entering := none } }
        rings := r.rings.map fun h => (h.1, Ring.unhold h.2) }
    else r
  { s with recs := { s.recs with saves := s.recs.saves.map leave } }

/-- Every member of a slot's task leaves held mode. -/
def leaveAll (s : State) (p slot : Nat) : State :=
  ((s.membersOf p slot).foldl (fun (s : State) y => s.leaveHeld y) s).leaveSaved p slot

/-- The owner that a heddle stream, an in-use bit or a holder names while its context is saved alone, by the context's serial
number (09 R213, 10 R251). -/
def awayOwner (me : Nat) : Nat := 100000 + me

/-- The heddle streams and in-use bits of core n that name one owner name another; in-use bits name contexts of the core. -/
def giveUnits (s : State) (n old new : Nat) : State :=
  let own := fun (k : Nat) => if k < 100000 then k % 8 else k
  s.modCore n fun c => { c with
    streams := c.streams.map fun v =>
      (v.1, if v.2.opened && decide (v.2.owner = old) then { v.2 with owner := new } else v.2)
    st := { c.st with holders := c.st.holders.map fun h => if h.2 = own old then (h.1, own new) else h } }

/-- The saved members of a slot's task end with it: their records go, and the streams that wait for them; a core's record goes
with the last of its contexts (14 R292, 17 R335). -/
def dropSaves (s : State) (p slot : Nat) : State :=
  let mine := fun (r : SaveRecord) => r.ctx.task.any fun t => decide (t.part = p ∧ t.slot = slot)
  let rs := s.recs.saves.filter mine
  if rs.isEmpty then s
  else
    let s := rs.foldl (fun (s : State) r => (s.modCore r.core fun c => { c with
      streams := c.streams.map fun v => if v.2.owner = awayOwner r.ctx.mem.me then (v.1, resetStream) else v }).dropStep p slot
        (bits (r.ctx.ctl.get 0 0x001) 11 10)) s
    let left := s.recs.saves.filter fun r => !mine r
    { s with recs := { s.recs with
      saves := left
      coreSaves := s.recs.coreSaves.filter fun c => c.part ≠ p || (!rs.any (fun r => decide (r.core = c.core ∧ r.alone = false)))
        || left.any fun r => decide (r.part = p ∧ r.core = c.core ∧ r.alone = false) } }

/-- The failure of a pair: both held buffers are discarded and the exact task is queued (17 R335). -/
def failPair (s : State) (p d : Nat) (q : Pair) (exact : Nat) : State :=
  let s := s.leaveAll p q.check
  ((s.unpark p q.surrogate).dropPair p q).queueExact p d q.surrogate exact

/-- What end_task does to a context and its units, before its slot (14 R292). DESIGN CHOICE (log entry 75): it stops the
sequencer of the context's core; the partners of a gang's deck run on (09 R218, R225). -/
def dropContext (s : State) (x : Nat) : State :=
  let n := coreOf x
  let s := (s.killEngines x fun _ => true).closeUnits x
  let s := (s.ringsOf x).foldl (fun (s : State) h => (s.spoilRing n h).setRing n h resetRing) s
  let s := if (s.core n).seq.running ∧ (s.core n).seq.owner = x then
      s.modCore n fun c => { c with seq := { c.seq with running := false } } else s
  s.freeContext x

/-- end_task(x): the stopped task ends without completing; its slot fails, with one live member fewer, or is freed for a
decision's loser (14 R292, 16 R308, 17 R325, R334, R335). -/
def endTask (s : State) (x : Nat) (fail : Bool) : State :=
  match (s.ctx x).task with
  | none => s.dropContext x
  | some t =>
    let s := s.endPick (s.agent x) t.part t.slot true
    let pair := s.pairOf t.part t.slot
    let s := s.dropContext x
    match pair with
    | some q =>
      let other := if q.surrogate = t.slot then q.check else q.surrogate
      let s := (s.membersOf t.part t.slot ++ s.membersOf t.part other).foldl (fun (s : State) y => s.dropContext y) s
      let s := ((s.dropSaves t.part t.slot).dropSaves t.part other).unpark t.part q.surrogate
      let s := ((s.dropPair t.part q).failSlot t.part t.slot).slotPut t.part t.slot 3 1 0
      (s.failSlot t.part other).slotPut t.part other 3 1 0
    | none =>
      if fail then (s.failSlot t.part t.slot).slotPut t.part t.slot 3 1 (s.slotLive t.part t.slot - 1)
      else s.dropSlot t.part t.slot

/-- A surrogate that fills its held buffer is ended at once with every member of its gang; its check never runs
(17 R335). -/
def surrogateFull (s : State) (x : Nat) (t : Task) (q : Pair) : State :=
  let d := dieOf (coreOf x)
  let s := (s.membersOf t.part t.slot).foldl (fun (s : State) y => s.dropContext y) (s.dropContext x)
  let s := (s.dropSaves t.part t.slot).dropSlot t.part q.check
  s.failPair t.part d q q.exact

/-- A write that finds the held buffer of a pair full (17 R330, R335). -/
def pairFull (s : State) (x : Nat) : State :=
  match (s.ctx x).task with
  | none => s.leaveHeld x
  | some t =>
    match s.pairOf t.part t.slot with
    | none => s.leaveHeld x
    | some q =>
      if q.surrogate = t.slot then s.surrogateFull x t q
      else (s.leaveHeld x).failPair t.part (dieOf (coreOf x)) q (bits (s.ctl x 0x029) 15 0)

/-! ### Successors (16 R316) -/

/-- The successor handles of a slot's packet. -/
def successors (s : State) (p i : Nat) : List Nat :=
  (List.range (s.packetByte p i 1 / 32 % 8)).map fun k => (s.slotNat p i (80 + 4 * k) 4).getD 0

/-- The line of a byte that hardware writes at an address of a partition, with that address; nothing where it may not be
written. -/
def lineAt (s : State) (p va : Nat) : List (Nat × Nat) :=
  match s.hwPhys p va .write with
  | some pa => [(pa / 128, va)]
  | none => []

/-- The lines of the counters and late words that a release of a slot's successors writes, a trigger's or a taskend's
(16 R316, R317). -/
def successorLines (s : State) (p slot : Nat) (trig : Bool) : List (Nat × Nat) :=
  ((s.successors p slot).filter fun h => !s.stale p h && (trig || decide (s.slotState p (h % 2 ^ 20) = 1))).flatMap fun h =>
    s.lineAt p (s.slotAddr p (h % 2 ^ 20) + 8)

/-- The lines of which the end of a slot's task makes versions by its releases: its successors' words, and the stage entry of a
pick (12 R273, 16 R316, 17 R325). -/
def closingLines (s : State) (p slot : Nat) : List (Nat × Nat) :=
  s.successorLines p slot (decide (s.slotTrig p slot = 1)) ++ match s.pickOf p slot with
    | some (w, k) => s.lineAt p (w.stab + 2 * k)
    | none => []

/-- The lines of which what follows a publication of context x makes versions: the words that a trigger or the end of a task
decrements, and the stage entry of a pick that ends (12 R271, R273). -/
def followLines (s : State) (x : Nat) (a : After) : List (Nat × Nat) :=
  match (s.ctx x).task, a with
  | some t, .trigger => if s.slotTrig t.part t.slot = 0 then s.successorLines t.part t.slot false else []
  | some t, .ending =>
    if 1 < s.slotLive t.part t.slot ∨ s.slotState t.part t.slot = 4 then []
    else if (s.ctx x).mem.held.all fun h => decide (h.decided = some true) then s.closingLines t.part t.slot
    else match s.pairOf t.part t.slot with
      | some q => if q.surrogate = t.slot then s.lineAt t.part (s.slotAddr t.part q.check + 8) else []
      | none => []
  | _, _ => []

/-- Whether a publication of context x for which it waits, with what follows it, has to be made later (12 R265, R271). -/
def mustPost (s : State) (x : Nat) (lines : List LineWrite) (a : After) : Bool :=
  s.mustHold x lines || s.linesOff x ((s.followLines x a).map (·.1))

/-- An indivisible addition to a word of a slot at a scope: a release of its agent, and the next write of the release
sequences that the word carries (12 R273). -/
def slotAdd (s : State) (g : Agent) (p i off n : Nat) (d : Int) (scope : Nat) : State :=
  let a := s.slotAddr p i + off
  let v := lowBits (((s.slotNat p i off n).getD 0 : Int) + d) (8 * n)
  let rels := match s.hwPhys p a .write with
    | some pa => s.releasesAt (bytesFrom pa n)
    | none => []
  let s := s.hwWriteAs g p scope a (bytesLE n v)
  if rels.isEmpty then s else s.carryOn rels scope g.core

/-- Decrements a waiting successor's counter; at 0 it is released (16 R316, R317). -/
def decrement (s : State) (g : Agent) (p i scope : Nat) : State :=
  let s := s.slotAdd g p i 8 4 (-1) scope
  if s.slotNat p i 8 4 = some 0 then s.releaseTask p (dieOf g.core) i else s

/-- Step 3 of taskend for one successor handle (16 R316). -/
def releaseSuccessor (s : State) (g : Agent) (p scope : Nat) (trig : Bool) (h : Nat) : State :=
  let i := h % 2 ^ 20
  if s.stale p h then s.log 0 0 p h
  else if trig then s.slotAdd g p i 16 8 (-1) scope
  else if s.slotState p i ≠ 1 then s.log 0 0 p h
  else s.decrement g p i scope

end State
end Sys2Proof.Machine
end

