-- ==== Sys2Proof/Machine/Global.lean ====
section
/-! DEFINITION. Slots M0 and M1 on global memory: loads, stores, gather and scatter, ldacq, strel, the atomics, chunk and
ldblk (08 R189 to R193, 10 R254, 12 R280, R281, 16 R323, 17 R329, R330). -/

namespace Sys2Proof.Machine

namespace State

/-- Checks and translates pieces in order: the window region where `each`, then translation, protection and, for a
write, translation memory (08 R184, 22 R387). DESIGN CHOICE (log entry 66): of two pages of one access of which one fails
translation and the other protection, the lower gives the code. -/
def placeAll (k : Access) (each : Bool) : List (Nat × Nat × Nat) → State → Except (Nat × Nat) (List Piece × State)
  | [], s => .ok ([], s)
  | (va, n, off) :: rest, s =>
    if each && (inWindow va || inWindow (va + n - 1)) then .error (0x05, va)
    else match s.translate s.cur.core (s.partOf s.cur.ctx) va k with
    | .error c => .error (c, va)
    | .ok (pa, s1) =>
      if k = .write ∧ s.inAnyTmem pa n then .error (0x07, va)
      else match s.denied (s.partOf s.cur.ctx) pa n with
      | some i => .error (0x07, va + i)
      | none => match placeAll k each rest s1 with
      | .error e => .error e
      | .ok (ps, s2) => .ok (⟨va, n, pa, off⟩ :: ps, s2)

/-- Where an access of n bytes at va fails the checks of `placeAll`, if it does. -/
def pieceFails (s : State) (k : Access) (each : Bool) (va n : Nat) : Option Nat :=
  match placeAll k each [(va, n, 0)] s with
  | .ok _ => none
  | .error e => some e.2

/-- The lowest address of some accesses that fails (08 R184). -/
def lowestFault (s : State) (k : Access) (each : Bool) (reqs : List (Nat × Nat × Nat)) (first : Nat) : Nat :=
  (reqs.filterMap fun r => s.pieceFails k each r.1 r.2.1).foldl (fun a b => min a (b % 2 ^ 64)) (first % 2 ^ 64)

/-- A global access of the issuing slot. `each` orders the checks by piece, as a gather does (08 R191). -/
def access (s : State) (k : Access) (each : Bool) (reqs : List (Nat × Nat × Nat)) (ok : List Piece → State → State) :
    State :=
  let p := s.partOf s.cur.ctx
  if s.homeAhead reqs then s.block 3
  else match (if each then none else reqs.find? fun r => inWindow r.1 || inWindow (r.1 + r.2.1 - 1)) with
  | some r => s.trapHere 0x05 (max r.1 windowBase) 0
  | none =>
    if reqs.any fun r => s.shooting p r.1 r.2.1 then s.blockFor (s.shotWait p reqs)
    else match placeAll k each reqs s with
    | .error (c, va) => (if c = 0x06 then s.logWalk p va else s).trapHere c (s.lowestFault k each reqs va)
        (if k = .write ∧ c ≠ 0x05 then 1 else 0)
    | .ok (ps, s1) => ok ps s1

/-- The sectors an access reads from memory, with the lowest virtual byte of the access in each: bytes of the context's
own writes come from the buffers (08 R182). -/
def pieceSectors (own : List LineWrite) (ps : List Piece) : List (Nat × Nat) :=
  ps.foldl (fun acc q =>
    (List.range q.n).foldl (fun acc i =>
      if (ownPoison (q.pa + i) own).isSome then acc
      else if acc.any fun p => decide (p.1 = (q.pa + i) / 32) then
        acc.map fun p => if p.1 = (q.pa + i) / 32 then (p.1, min p.2 (q.va + i)) else p
      else acc ++ [((q.pa + i) / 32, q.va + i)]) acc) []

/-- The lowest byte of an access that the context's own writes hold poisoned. -/
def firstOwnBad (own : List LineWrite) (ps : List Piece) : Option Nat :=
  least (ps.map fun q => ((List.range q.n).find? fun i => ownPoison (q.pa + i) own = some true).map (q.va + ·))

/-- Puts an interlocked access in flight (02 R40). -/
def launchOp (s : State) (f : MemOp → MemOp) : State :=
  let m := (s.ctx s.cur.ctx).mem
  let op : MemOp :=
    { id := m.nextId, home := none, scope := 0, dest := 0, va := 0, pa := 0, sectors := [], vas := [], pieces := [],
      size := 0, ownBad := none, mask := 0, value := 0, operand := 0, compare := 0, issued := s.pkg.now, slot := s.cur.slot, order := m.fences,
      chunked := false }
  (s.modMem s.cur.ctx fun m => { m with ops := m.ops ++ [f op], nextId := m.nextId + 1 }).keepWalks s.cur.ctx op.id

/-- The register image of pieces by their places. -/
def image (vs : List (Piece × Nat)) : BitVec 8192 :=
  BitVec.ofNat 8192 (vs.foldl (fun acc p => acc + p.2 * 2 ^ (8 * p.1.off)) 0)

/-- A load of context x with what it reads now: its value, the sectors it reads from memory (08 R182, 12 R269). -/
def loadNow (s : State) (x : Nat) (o : MemOp) : MemOp :=
  let own := s.ownWrites x
  let vs := o.pieces.map fun q => (q, ofBytesLE ((List.range q.n).map fun i => s.loadByte x (q.pa + i)))
  let secs := pieceSectors own o.pieces
  { o with
    value := if o.size = 7 then image vs else (extend o.size (vs.headD (⟨0, 0, 0, 0⟩, 0)).2).setWidth 8192
    sectors := secs.map (·.1), vas := secs.map (·.2), ownBad := firstOwnBad own o.pieces }

/-- A load: the value its snapshot gives, fixed at issue, returns later; the versions it returns happen before the
context's next publication (12 R266, R269). -/
def load (s : State) (dest size : Nat) (mask : BitVec 1024) (ps : List Piece) : State :=
  (s.learnReads s.cur.ctx (ps.flatMap fun q => (List.range q.n).map (q.pa + ·))).launchOp fun o => s.loadNow s.cur.ctx { o with
    dest := dest, mask := mask, pieces := ps, size := size
    va := (ps.map (·.va)).foldl min (ps.headD ⟨0, 0, 0, 0⟩).va, pa := (ps.headD ⟨0, 0, 0, 0⟩).pa }

/-- What a store does that finds the held buffer full (17 R330). -/
def heldFull (s : State) (g : Governor) (va : Nat) : State :=
  match g with
  | .held => s.trapHere 0x0F va 0
  | .decision => s.block 11
  | .pair => s.pairFull s.cur.ctx

/-- Whether a bundle waits before some lines enter the store buffer: for the private-version write that makes room, which takes
a cycle and more, a free value (12 R268, 02 R37, 23 R393). -/
def spillWait (s : State) (x : Nat) (ls : List LineWrite) : Bool :=
  let c := s.ctx x
  s.bufferShort x ls && !(decide (c.iss.cause = 12) && Config.arrives s.pkg.now (13000 + x) c.mem.nextId)

/-- Stores the bytes of pieces, all or none (08 R189 to R193, 17 R329). -/
def store (s : State) (ps : List Piece) (bytes : Piece → List (BitVec 8)) : State :=
  let x := s.cur.ctx
  let ls := ps.flatMap fun q => linesOf .buffer q.va q.pa (bytes q)
  let put := fun (s : State) => ls.foldl (fun (s : State) l => s.enterLine x l) s
  match (s.ctx x).mem.held with
  | none => if s.spillWait x ls then s.block 12 else put s
  | some h =>
    if heldLines h.lines (ls.map (·.line)) ≤ 2048 then put s
    else
      let s' := s.heldFull h.gov ((ps.headD ⟨0, 0, 0, 0⟩).va)
      if h.gov = .pair ∧ s'.cur.ended = false ∧ (s'.ctx x).iss.phase ≠ .free then put s' else s'

end State

open State

/-- The scalar access of ldg and stg: size, alignment, then the access (08 R184, R189). -/
def scalarAccess (z : BitVec 3) (b : BitVec 6) (o : BitVec 10) (k : Access) (ok : List Piece → State → State) (s : State) :
    State :=
  let n := sizeBytes z.toNat
  let a := s.addrOf b n o
  if a % n ≠ 0 then s.trapHere 0x04 a 0 else s.access k false [(a, n, 0)] ok

/-- ldg: interlocked (08 R189). -/
def execLdg (z : BitVec 3) (d b : BitVec 6) (o : BitVec 10) (s : State) : Out :=
  .next <| if z = 7 then s.trapReserved
    else scalarAccess z b o .read (fun ps s => s.load (sReg d.toNat) z.toNat 0 ps) s

/-- stg: into the store buffer, or the held buffer (08 R189, R193, 17 R329). -/
def execStg (z : BitVec 3) (d b : BitVec 6) (o : BitVec 10) (s : State) : Out :=
  .next <| if 4 ≤ z.toNat then s.trapReserved
    else scalarAccess z b o .write (fun ps s => s.store ps fun q => bytesLE q.n (s.readS d).toNat) s

/-- The eight segments of a vector access (08 R190). -/
def segments (a : Nat) : List (Nat × Nat × Nat) := (List.range 8).map fun c => (a + 128 * c, 128, 128 * c)

def vectorAccess (v b : BitVec 6) (o : BitVec 10) (k : Access) (ok : List Piece → State → State) (s : State) : State :=
  let a := s.addrOf b 128 o
  s.needGrant [v.toNat] <|
    if a % 128 ≠ 0 then s.trapHere 0x04 a 0 else s.access k false (segments a) ok

/-- vldg (08 R190). -/
def execVldg (v b : BitVec 6) (o : BitVec 10) (s : State) : Out :=
  .next (vectorAccess v b o .read (fun ps s => s.load (vReg v.toNat) 7 (BitVec.allOnes 1024) ps) s)

/-- vstg: eight segments (08 R190). -/
def execVstg (v b : BitVec 6) (o : BitVec 10) (s : State) : Out :=
  .next (vectorAccess v b o .write (fun ps s => s.store ps fun q =>
    bytesLE q.n ((s.readV v.toNat).toNat / 2 ^ (8 * q.off))) s)

/-- An address computed without a modulus (00 R8): outside 0 to 2^64 - 1 it names nothing, so it fails translation with
its low 64 bits as fault address. -/
def wideAddr (a : Int) : Nat := if a < 0 then (2 ^ 65 + a).toNat else a.toNat

/-- The element accesses of a gather or scatter, in increasing element number (08 R191). -/
def elementAccess (z : BitVec 3) (v b i : BitVec 6) (k : BitVec 3) (kind : Access) (ok : List Piece → State → State)
    (s : State) : State :=
  s.needGrant [v.toNat, i.toNat] <|
    if z ≠ 2 ∧ z ≠ 3 then s.trapReserved
    else
      let w := sizeBytes z.toNat
      let base := (s.readS b).toNat
      let vi := s.readV i.toNat
      if base % w ≠ 0 then s.trapHere 0x04 base 0
      else s.access kind true ((actives w (s.readK k.toNat)).map fun e =>
        (wideAddr ((base : Int) + w * sextN (elem w vi e) (8 * w)), w, w * e)) ok

/-- vgath (08 R191). -/
def execVgath (z : BitVec 3) (v b i : BitVec 6) (k : BitVec 3) (s : State) : Out :=
  let w := sizeBytes z.toNat
  .next (elementAccess z v b i k .read (fun ps s =>
    s.load (vReg v.toNat) 7 (elemMask w (ps.map fun q => q.off / w)) ps) s)

/-- vscat: of two elements at one address the higher stays (08 R191). -/
def execVscat (z : BitVec 3) (v b i : BitVec 6) (k : BitVec 3) (s : State) : Out :=
  .next (elementAccess z v b i k .write (fun ps s => s.store ps fun q =>
    bytesLE q.n ((s.readV v.toNat).toNat / 2 ^ (8 * q.off))) s)

/-- ldacq: read at the home when its request arrives (12 R279, R280). -/
def execLdacq (sc : BitVec 3) (d b : BitVec 6) (o : BitVec 10) (s : State) : Out :=
  let a := s.addrOf b 8 o
  .next <| if 6 ≤ sc.toNat then s.trapReserved
    else if a % 8 ≠ 0 then s.trapHere 0x04 a 0
    else s.access .read false [(a, 8, 0)] fun ps s =>
      let q := ps.headD ⟨0, 0, 0, 0⟩
      s.launchOp fun op => { op with
        home := some .acquire, scope := sc.toNat, dest := sReg d.toNat, va := q.va, pa := q.pa
        sectors := [q.pa / 32], vas := [q.va] }

/-- The context's publication of everything unpublished and of bytes written last at physical address pa, a release,
posted: at once, or pending; the store itself takes its entry as any store does (08 R193, 12 R268, R280, 17 R328). -/
def postPublication (s : State) (x scope : Nat) (last : List LineWrite) (pa : Nat) : State :=
  if s.spillWait x last then s.block 12
  else
    let s := last.foldl (fun (s : State) l => s.enterLine x l) s
    let lines := (s.ctx x).mem.unpub
    let s := s.modMem x fun m => { m with unpub := [] }
    if s.mustHold x lines then
      s.modMem x fun m => { m with pubs := m.pubs ++ [⟨scope, lines, some pa, true, false, .nothing, m.nextId⟩] }
    else s.publishLines x scope lines true (some pa)

/-- strel: posted (12 R280). -/
def execStrel (sc : BitVec 3) (d b : BitVec 6) (o : BitVec 10) (s : State) : Out :=
  let a := s.addrOf b 8 o
  .next <| if 6 ≤ sc.toNat then s.trapReserved
    else if s.isHeld s.cur.ctx then s.trapHeld
    else if a % 8 ≠ 0 then s.trapHere 0x04 a 0
    else s.access .write false [(a, 8, 0)] fun ps s =>
      let q := ps.headD ⟨0, 0, 0, 0⟩
      postPublication s s.cur.ctx sc.toNat (linesOf .buffer q.va q.pa (bytesLE 8 (s.readS d).toNat)) q.pa

/-- Whether the issuing context may read the page of va. -/
def readable (s : State) (va : Nat) : Bool :=
  match s.translate s.cur.core (s.partOf s.cur.ctx) va .read with
  | .ok _ => true
  | .error _ => false

/-- The atomics and chunk: checked at issue, performed at the home (12 R281, 16 R323). -/
def atomicOp (op : HomeOp) (w : Nat) (d b v : BitVec 6) (sc : BitVec 3) (s : State) : State :=
  if 6 ≤ sc.toNat then s.trapReserved
  else if s.isHeld s.cur.ctx then s.trapHeld
  else
    let a := (s.readS b).toNat
    if a % w ≠ 0 then s.trapHere 0x04 a 0
    else s.access .write false [(a, w, 0)] fun ps s =>
      let q := ps.headD ⟨0, 0, 0, 0⟩
      if readable s q.va then
        s.launchOp fun o => { o with
          home := some op, scope := sc.toNat, dest := sReg d.toNat, va := q.va, pa := q.pa
          sectors := [q.pa / 32], vas := [q.va], operand := s.readS v, compare := s.readS d
          chunked := decide (op = HomeOp.chunk) }
      else s.trapHere 0x07 q.va 1

def execAadd (d b v : BitVec 6) (sc : BitVec 3) (s : State) : Out := .next (atomicOp .add 8 d b v sc s)
def execAmin (d b v : BitVec 6) (sc : BitVec 3) (s : State) : Out := .next (atomicOp .min 8 d b v sc s)
def execAmax (d b v : BitVec 6) (sc : BitVec 3) (s : State) : Out := .next (atomicOp .max 8 d b v sc s)
def execAxchg (d b v : BitVec 6) (sc : BitVec 3) (s : State) : Out := .next (atomicOp .xchg 8 d b v sc s)
def execAcas (d b v : BitVec 6) (sc : BitVec 3) (s : State) : Out := .next (atomicOp .cas 8 d b v sc s)
def execAfadd (d b v : BitVec 6) (sc : BitVec 3) (s : State) : Out := .next (atomicOp .fadd 4 d b v sc s)
def execChunk (d b v : BitVec 6) (sc : BitVec 3) (s : State) : Out := .next (atomicOp .chunk 32 d b v sc s)

/-- ldblk: releases the block under the tag, then forks the fill (10 R254), which in a bundle begins once its slots have run
(00 R8). -/
def execLdblk (n b t : BitVec 6) (s : State) : Out :=
  let x := s.cur.ctx
  let c := (s.readS n).toNat
  let a := (s.readS b).toNat
  .next <|
    if 64 < c then s.trapHere 0x05 a 0
    else if c = 0 then s.releaseBlock x t.toNat
    else if a % 128 ≠ 0 then s.trapHere 0x04 a 0
    else if inWindow (a + 128 * c - 1) ∨ inWindow a then s.trapHere 0x05 (max a windowBase) 0
    else if s.mustWait x t.toNat false then s.block 4
    else if s.cur.live then s.modCur fun i => { i with forks := i.forks ++ [s.forkOp x t.toNat (.block a c) [] [] 0 0 false []] }
    else (s.releaseBlock x t.toNat).fork x t.toNat (.block a c) [] [] 0 0 false

end Sys2Proof.Machine
end

