-- ==== Sys2Proof/Machine/Matrix.lean ====
section
/-! DEFINITION. Slot X: weight planes, beats, drains, heddle streams and mxgang (09 R200 to R217, R227). Each operation
takes its address as a number, so that a card step gives its own (09 R221). -/

namespace Sys2Proof.Machine

namespace State

/-- ctl.selv of the issuing context, or the owner's value at seqgo for a card step (09 R206). -/
def selv (s : State) : BitVec 64 :=
  if s.cur.card.isSome then (s.core s.cur.core).seq.selv else s.readC 0x021

/-- Valid rows, columns and K elements; a value above the maximum is read as the maximum (09 R206). -/
def selM (s : State) : Nat := min (bits s.selv 6 0) 64
def selN (s : State) : Nat := min (bits s.selv 13 7) 64
def selK (s : State) : Nat := min (bits s.selv 23 14) 512

/-- Schedules a result on a core of the issuer's quad. -/
def scheduleOn (s : State) (n lat : Nat) (w : Write) : State :=
  s.modCore n fun c =>
    { c with
      landings := insertLanding ⟨s.cyc n + lat, c.iss.seq, s.cur.ctx % 8, 0, w⟩ c.landings
      iss := { c.iss with seq := c.iss.seq + 1 } }

/-- The address of an X-slot instruction: s[A] + unit × off, unbounded (09 R204). -/
def beatAddr (s : State) (a : BitVec 6) (unit : Nat) (o : BitVec 6) : Nat := (s.readS a).toNat + unit * o.toNat

/-- The first poisoned sector of the active plane among byte ranges of its rows, as a fault address (08 R182). -/
def poisonedPlane (st : CoreStore) (offs : List Nat) : Option Nat :=
  if st.activePoison.isEmpty then none
  else (offs.find? fun o => badSector st.activePoison (o / 32)).map fun o => activeReg + o / 32 * 32 * 2 ^ 16

end State

open State

/-- Byte j of a plane row. -/
def planeByte (row : BitVec 1024) (j : Nat) : Nat := row.toNat / 2 ^ (8 * j) % 256

/-- What one product adds to a beat (07 R173). -/
def addProduct (acc : BeatTerm) (x y : Exact) : BeatTerm :=
  match x, y with
  | .nan _, _ => { acc with nan := true }
  | _, .nan _ => { acc with nan := true }
  | .inf a, .inf b => if a = b then { acc with pinf := true } else { acc with ninf := true }
  | .inf a, .num b m _ _ => infProduct acc a b m
  | .num b m _ _, .inf a => infProduct acc a b m
  | .num a m e _, .num b m' e' _ =>
    { acc with
      sum := acc.sum.add ((signedNum a m e).mul (signedNum b m' e'))
      negZero := acc.negZero && decide (m * m' = 0 ∧ a ≠ b) }
where
  infProduct (acc : BeatTerm) (a b : Bool) (m : Nat) : BeatTerm :=
    if m = 0 then { acc with nan := true }
    else if a = b then { acc with pinf := true } else { acc with ninf := true }

/-- P[n] of a beat: the exact sum of the products of column n (09 R208). -/
def beatColumn (as_ ws : List Exact) : BeatTerm :=
  (as_.zip ws).foldl (fun acc p => addProduct acc p.1 p.2) ⟨false, false, false, .zero, true⟩

/-- The format of a beat code, its element width and K depth (09 R208). -/
def beatFmt (f : Nat) : Option (Fmt × Nat × Nat) :=
  match f with
  | 0 => some (fmtBf16, 2, 64) | 1 => some (fmtE4m3, 1, 128) | 2 => some (fmtE5m2, 1, 128) | _ => none

/-- W[k][n] as the plane holds it for elements of width w (09 R203). -/
def planeElem (st : CoreStore) (w k n : Nat) : Nat :=
  if w = 2 then let r := st.active.get 0 k; planeByte r (2 * n) + 256 * planeByte r (2 * n + 1)
  else planeByte (st.active.get 0 (k / 2)) (2 * n + k % 2)

/-- mxacc at an address (09 R208). -/
def accBeat (bank row a : Nat) (f : Nat) (s : State) : State :=
  match beatFmt f with
  | none => s.trapReserved
  | some (fm, w, depth) =>
    let st := (s.core s.cur.core).st
    let kv := min s.selK depth
    let nv := s.selN
    if s.selM ≤ row ∨ kv = 0 then s
    else if a % 16 ≠ 0 then s.trapHere 0x04 a 0
    else match outside xstoreSize a (w * kv) with
    | some x => s.trapHere 0x05 x 0
    | none =>
      match poisonedAt st.xpoison a (w * kv) with
      | some x => s.trapHere 0x08 x 0
      | none =>
        let offs := (List.range (if w = 2 then kv else (kv + 1) / 2)).flatMap fun q =>
          (List.range nv).map fun n => 128 * q + 2 * n
        match poisonedPlane st offs with
        | some x => s.trapHere 0x08 x 0
        | none =>
          let as_ := (List.range kv).map fun k => fm.value (st.xstore.readNat (a + w * k) w)
          ((s.mend s.cur.core .xstore (sectorsOf a (w * kv))).mend s.cur.core .active (offs.map (· / 32))).schedule 68 0 (.beat (bank * 64 + row) ((List.range nv).map fun n =>
            beatColumn as_ ((List.range kv).map fun k => fm.value (planeElem st w k n))))

/-- c[j][n] × 2^p of a bit-plane beat (09 R209). -/
def planeTerm (st : CoreStore) (a kv half j n p : Nat) (neg : Bool) : Int :=
  let c : Int := (List.range (min 32 (kv - 32 * j))).foldl (fun acc i =>
    let k := 32 * j + i
    let o := 4096 * half + 8 * k
    let bit := planeByte (st.active.get 0 (o / 128)) (o % 128 + n / 8) / 2 ^ (n % 8) % 2
    if bit = 1 then acc + sextN (st.xstore.readNat (a + k) 1) 8 else acc) 0
  (if neg then -c else c) * 2 ^ p

/-- mxbp at an address (09 R209). -/
def planeBeat (bank g : Nat) (neg : Bool) (a p half : Nat) (s : State) : State :=
  let st := (s.core s.cur.core).st
  let kv := s.selK
  let nv := s.selN
  let nb := (kv + 31) / 32
  if s.selM ≤ 16 * g ∨ kv = 0 then s
  else if a % 16 ≠ 0 then s.trapHere 0x04 a 0
  else match outside xstoreSize a kv with
  | some x => s.trapHere 0x05 x 0
  | none =>
    match poisonedAt st.xpoison a kv with
    | some x => s.trapHere 0x08 x 0
    | none =>
      let offs := (List.range kv).flatMap fun k => (List.range ((nv + 7) / 8)).map fun j => 4096 * half + 8 * k + j
      match poisonedPlane st offs with
      | some x => s.trapHere 0x08 x 0
      | none =>
        ((s.mend s.cur.core .xstore (sectorsOf a kv)).mend s.cur.core .active (offs.map (· / 32))).schedule 70 0 (.plane bank g nb ((List.range nb).map fun j =>
          (List.range nv).map fun n => planeTerm st a kv half j n p neg))

/-- The bytes and the width of a drained word (09 R211). -/
def drainWord (f : Nat) (mode : Rounding) (x : Nat) : Nat :=
  match f with
  | 0 => (fmtBf16.round mode (fmtF32.value x)).1
  | 1 => (fmtE4m3.round mode (fmtF32.value x)).1
  | 2 => (fmtE5m2.round mode (fmtF32.value x)).1
  | 3 => x
  | _ => lowBits (satI8 (sextN x 32)) 8

def drainWidth (f : Nat) : Nat := match f with | 0 => 2 | 3 => 4 | _ => 1

/-- mxdrain at an address (09 R211). -/
def drainBeat (bank row a f : Nat) (s : State) : State :=
  if 5 ≤ f then s.trapReserved
  else match s.overrideMode with
  | none => s.trapReserved
  | some mode =>
    let st := (s.core s.cur.core).st
    let nv := s.selN
    let w := drainWidth f
    if s.selM ≤ row ∨ nv = 0 then s
    else if a % 16 ≠ 0 then s.trapHere 0x04 a 0
    else match outside xstoreSize a (w * nv) with
    | some x => s.trapHere 0x05 x 0
    | none =>
      match (List.range ((nv + 7) / 8)).find? fun i => badSector st.accPoison ((bank * 64 + row) * 8 + i) with
      | some i => s.trapHere 0x08 (accReg bank row + 32 * i * 2 ^ 16) 0
      | none =>
        let r := accRow st (bank * 64 + row)
        (s.mend s.cur.core .acc ((List.range ((nv + 7) / 8)).map ((bank * 64 + row) * 8 + ·))).schedule 12 0 (.xstore [(a, (List.range nv).flatMap fun n => bytesLE w (drainWord f mode (accWord r n)))])

/-- The poison bits of a plane row read from the W-store: a sector that receives any byte of a poisoned sector
(09 R204). -/
def pushPoison (p : Memory) (a : Nat) : BitVec 4 :=
  BitVec.ofNat 4 ((List.range 4).foldl (fun acc i => if (firstPoison p (a + 32 * i) 32).isSome then acc + 2 ^ i else acc) 0)

/-- mxpush from the W-store at an address (09 R204). -/
def pushWstore (q a : Nat) (s : State) : State :=
  let st := (s.core s.cur.core).st
  if a % 16 ≠ 0 then s.trapHere 0x04 a 0
  else match outside wstoreSize a 128 with
  | some x => s.trapHere 0x05 x 0
  | none => (s.mend s.cur.core .wstore (sectorsOf a 128)).schedule 1 0
      (.shadow q (bytesToBits 1024 (st.wstore.read a 128)) (pushPoison st.wpoison a))

/-- The next row of a stream for the cores named: a closed stream raises 0x09, a row not arrived makes the bundle wait
(09 R216). DESIGN CHOICE (log entry 66): a closed stream has no row 0, and the fault address of its trap is 0. -/
def pushStream (q h : Nat) (cores : List Nat) (s : State) : State :=
  let n := s.cur.core
  let v := s.stream n h
  if !v.opened then s.trapHere 0x09 0 (2 ^ 31 + (s.pinnedLines n).length)
  else if v.arrived ≤ v.pos then s.blockFor (rowWait h)
  else
    let (row, s) := s.takeRow n h
    cores.foldl (fun (s : State) c => s.scheduleOn c 1 (.shadow q row.1 row.2)) s

/-- mxzero of a row range (09 R210). -/
def zeroBeat (bank row cnt : Nat) (s : State) : State :=
  if 64 < row + cnt then s.trapHere 0x05 (accReg bank row) 0 else s.schedule 1 0 (.zeroRows bank row cnt)

def execMxpushWstore (q a o : BitVec 6) (s : State) : Out := .next (pushWstore q.toNat (s.beatAddr a 128 o) s)

def execMxpushStream (q : BitVec 6) (h : BitVec 2) (s : State) : Out :=
  .next (pushStream q.toNat h.toNat [s.cur.core] s)

/-- mxflip: the planes exchange at issue + 2 (09 R205). -/
def execMxflip (s : State) : Out := .next (s.schedule 2 0 .flip)

def execMxacc (b : BitVec 4) (r a : BitVec 6) (f : BitVec 4) (o : BitVec 6) (s : State) : Out :=
  .next (accBeat b.toNat r.toNat (s.beatAddr a 128 o) f.toNat s)

def execMxbp (b : BitVec 4) (g : BitVec 2) (n : BitVec 1) (a : BitVec 6) (p : BitVec 3) (h : BitVec 1) (o : BitVec 6)
    (s : State) : Out :=
  .next (planeBeat b.toNat g.toNat (decide (n = 1)) (s.beatAddr a 512 o) p.toNat h.toNat s)

def execMxdrain (b : BitVec 4) (r a : BitVec 6) (f : BitVec 4) (o : BitVec 6) (s : State) : Out :=
  .next (drainBeat b.toNat r.toNat (s.beatAddr a 64 o) f.toNat s)

def execMxzero (b : BitVec 4) (r c : BitVec 6) (s : State) : Out :=
  .next (zeroBeat b.toNat r.toNat (c.toNat + 1) s)

/-- The lines of a stream's rows, translated in row order; a line of another package fails protection (09 R214). -/
def streamLines : List Nat → State → Except (Nat × Nat) (List Nat × State)
  | [], s => .ok ([], s)
  | va :: rest, s =>
    match s.translate s.cur.core (s.partOf s.cur.ctx) va .read with
    | .error c => .error (c, va)
    | .ok (pa, s1) =>
      if pa / 2 ^ 51 % 2 = 1 ∨ pa / 2 ^ 40 % 64 ≠ s.pkg.number then .error (0x07, va)
      else match s.denied (s.partOf s.cur.ctx) pa 128 with
      | some i => .error (0x07, va + i)
      | none => match streamLines rest s1 with
      | .error e => .error e
      | .ok (ls, s2) => .ok (pa / 128 :: ls, s2)

/-- The lines of a new stream that are delivered unpinned: those that find 8 general ways of their set pinned or in
load-blocks, each line in row order (22 R382). -/
def looseLines (s : State) (ls : List Nat) : List Nat :=
  ((distinct ls).foldl (fun (acc : List Nat × List Nat) l =>
    let mine := s.inSetOf l
    let fixed := s.fixedIn mine
    let more := acc.1.filter fun k => mine k && !fixed.contains k
    if fixed.contains l || decide (fixed.length + more.length < 8) then (l :: acc.1, acc.2) else (acc.1, l :: acc.2)) ([], [])).2

/-- A row as the fork reads it: data and the poison of its four sectors. DESIGN CHOICE (log entry 66): a row of a line that is
written while the stream is open holds the value at the fork, which R217 allows with the later ones (09 R217). -/
def streamRow (s : State) (own : List LineWrite) (line : Nat) : BitVec 1024 × BitVec 4 :=
  let x := s.cur.ctx
  (bytesToBits 1024 ((List.range 128).map fun i => s.loadByte x (128 * line + i)),
    BitVec.ofNat 4 ((List.range 4).foldl (fun acc k =>
      if (List.range 32).any fun i => s.poisonedByte own (128 * line + 32 * k + i) then acc + 2 ^ k else acc) 0))

/-- mxhed: a stream already open is released first (09 R214). DESIGN CHOICE (log entry 66): the requested count in the record
of trap 0x09 is the row count, not the number of distinct lines. -/
def execMxhed (h : BitVec 2) (k : BitVec 1) (a c : BitVec 6) (s : State) : Out :=
  let n := s.cur.core
  let base := (s.readS a).toNat
  let cv := s.readS c
  let cnt := bits cv 8 0
  let st0 := sextN (bits cv 63 32) 32
  let st : Int := if st0 = 0 then 128 else st0
  .next <|
    let reqs := (List.range cnt).map fun (i : Nat) => (wideAddr ((base : Int) + (i : Int) * st), 128, 0)
    if s.homeAhead reqs then s.block 3
    else if reqs.any fun r => s.shooting (s.partOf s.cur.ctx) r.1 r.2.1 then
      s.blockFor (s.shotWait (s.partOf s.cur.ctx) reqs)
    else
      let s := s.closeStream n h.toNat
      if cnt = 0 then s
      else if base % 128 ≠ 0 ∨ st % 128 ≠ 0 then s.trapHere 0x04 base 0
      else if inWindow base then s.trapHere 0x05 base 0
      else match streamLines ((List.range cnt).map fun (i : Nat) => wideAddr ((base : Int) + (i : Int) * st)) s with
      | .error (code, va) => (if code = 0x06 then s.logWalk (s.partOf s.cur.ctx) va else s).trapHere code va 0
      | .ok (ls, s1) =>
        let have_ := (s.pinnedLines n).length
        let want := (distinct ls).length
        if 256 < have_ + want then s.trapHere 0x09 base (have_ + cnt * 2 ^ 16)
        else
          let own := s.ownWrites s.cur.ctx
          let loose := looseLines s1 ls
          let cold := (distinct ls).filter fun l => !s1.inL2 l
          ((s1.touchLines ((distinct ls).filter fun l => !loose.contains l) false).keepWalks (10000 + n) h.toNat).setStream n h.toNat
            { opened := true, base := base, count := cnt, stride := st, keep := decide (k = 1), pos := 0, arrived := 0
              asked := List.replicate (if k = 1 then 16 else min 16 cnt) s.pkg.now
              rows := ls.map (streamRow s own), lines := ls, loose := loose, cold := cold, owner := s.cur.ctx }

/-- mxunpin: closes the stream and releases its lines (09 R215). -/
def execMxunpin (h : BitVec 2) (s : State) : Out := .next (s.closeStream s.cur.core h.toNat)

/-- The cores of the issuer's quad that a mask names. -/
def quadCores (n mask : Nat) : List Nat :=
  ((List.range 4).filter fun q => decide (mask / 2 ^ q % 2 = 1)).map fun q => n / 4 * 4 + q

/-- mxgang: one row into the shadow planes of the cores named; a mask of 0 in a program raises 0x02 (09 R227). -/
def execMxgang (q : BitVec 6) (h : BitVec 2) (m : BitVec 4) (s : State) : Out :=
  .next <| if m = 0 then s.trapReserved else pushStream q.toNat h.toNat (quadCores s.cur.core m.toNat) s

end Sys2Proof.Machine
end

