-- ==== Sys2Proof/Machine/Control.lean ====
section
/-! DEFINITION. Slot C: control transfer, repetition, yield, software traps, return from a trap, control registers and
fence (02 R46, 04 R99 to R105, 12 R279, 14 R290 to R294). -/

namespace Sys2Proof.Machine

open State

/-! ### Transfers (04 R96, R99 to R103) -/

/-- A transfer: the bundle that follows (04 R96). -/
def jump (s : State) (target : BitVec 58) : State := s.modCur fun c => { c with target := some target }

/-- The byte address of the bundle after the issuing one. -/
def linkAddr (s : State) : BitVec 64 := bundleAddr (s.cur.pc + 1)

/-- PC plus an offset widened by the lend byte, modulo 2^58 (04 R96, R99). -/
def branchTarget (s : State) (o : BitVec 24) : BitVec 58 := s.cur.pc + (s.imm o).setWidth 58

/-- br (04 R99). -/
def execBr (o : BitVec 24) (s : State) : Out := .next (jump s (branchTarget s o))

/-- call: the link is the next bundle in address order (04 R99). -/
def execCall (o : BitVec 24) (s : State) : Out := .next (jump (s.writeS 62 1 (linkAddr s)) (branchTarget s o))

/-- A jump to a byte address (04 R100). -/
def jumpAddr (s : State) (d : BitVec 6) (a : BitVec 64) : State :=
  if a.toNat % 64 ≠ 0 then s.trapHere 0x04 a.toNat 0
  else jump (s.writeS d 1 (linkAddr s)) (BitVec.ofNat 58 (a.toNat / 64))

/-- jmpi (04 R100). -/
def execJmpi (a d : BitVec 6) (s : State) : Out := .next (jumpAddr s d (s.readS a))

/-- ret, as jmpi s62 (04 R101). -/
def execRet (s : State) : Out := .next (jumpAddr s 0 (s.readS 62))

/-- rep: the count of the next bundle's issues (02 R46). -/
def execRep (a : BitVec 6) (i : BitVec 16) (s : State) : Out :=
  let n := if a = 0 then s.cur.lend.toNat * 2 ^ 16 + i.toNat else (s.readS a).toNat % 2 ^ 24
  .next (s.modCur fun c => { c with repNext := some n })

/-- yield: the context gives up the issue unit after this issue, for n cycles (04 R103). -/
def execYield (a : BitVec 6) (i : BitVec 18) (s : State) : Out :=
  let n := if a = 0 then s.cur.lend.toNat * 2 ^ 18 + i.toNat else (s.readS a).toNat % 2 ^ 26
  .next (s.modCur fun c => { c with sleep := some n })

/-- trap: 0x14 at its slot with its operand (14 R290). -/
def execTrap (i : BitVec 16) (s : State) : Out := .next (s.trapHere 0x14 0 i.toNat)

/-! ### Return from a trap (14 R291, R293, R294) -/

/-- rett with no operand: return from a light trap (14 R291, R294). -/
def execRett (s : State) : Out :=
  let lret := s.ctl s.cur.ctx 0x03E
  .next <|
    if lret.getLsbD 0 then
      jump (s.setCtl s.cur.ctx 0x03E (lret &&& ~~~1#64)) (BitVec.ofNat 58 (lret.toNat / 64))
    else s.trapReserved

/-- The stop a context holds, as its record and ctl.tdone show it. -/
def stopOf (s : State) (x : Nat) : Stop :=
  let td := s.ctl x 0x012
  let st := (s.ctx x).trap.stop.getD
    { noStop with pc := (s.ctx x).pc }
  { st with done := td.setWidth 10, leaf := bits td 12 10 }

/-- What rett.skip makes of a stop (14 R291). -/
def skipStop (s : State) (x : Nat) (st : Stop) : Stop :=
  let code := bits (s.ctl x 0x038) 7 0
  let slot := bits (s.ctl x 0x038) 11 8
  let st : Stop := { st with deferred := none, done := if slot ≤ 9 then st.done ||| 1#10 <<< slot else st.done }
  match st.delivery with
  | .precise => st
  | .bundle =>
    if slot ≤ 9 then { st with skipSlots := 1#10 <<< slot }
    else { st with done := BitVec.allOnes 10, skipWhole := true }
  | .boundary => if (code = 0x0B ∨ code = 0x17) ∧ slot ≤ 9 then { st with skipSlots := 1#10 <<< slot } else st
  | .deferred => st

/-- Where a context stands after one issue of its bundle: at the bundle while issues are owed, else at the next one, which
a rep of this issue repeats or skips whole; a transfer ends the repetition (02 R46 to R48). The return from a light trap
gives back the issues that the bundle it interrupted owes, the first among them or not (02 R47; log entry 68). -/
def continueAt (s : State) (x : Nat) (next : BitVec 58) (rep repSet : Option Nat) (jumped : Bool) : State :=
  let left := if jumped then 0 else bits (s.ctl x 0x010) 23 0 - 1
  let go := fun (s : State) (pc : BitVec 58) (n : Nat) =>
    (s.modCtx x fun c => { c with pc := pc, iss := { c.iss with fresh := true } }).setCtl x 0x010 (BitVec.ofNat 64 n)
  let s :=
    if 0 < left then
      (s.modIss x fun i => { i with fresh := false }).setCtl x 0x010 (BitVec.ofNat 64 left)
    else match rep with
      | some 0 => go s (next + 1) 0
      | some n => go s next n
      | none => go s next 0
  let s := match repSet with
    | some v => s.setCtl x 0x010 (BitVec.ofNat 64 v)
    | none => s
  match (s.ctx x).trap.owed with
  | some q =>
    if s.inHandler x then s
    else ((s.setCtl x 0x010 (BitVec.ofNat 64 q.1)).modIss x fun i => { i with fresh := q.2 }).modTrap x fun t =>
      { t with owed := none }
  | none => s

/-- The continuation a stop recorded (14 R288). -/
def tnextOf (s : State) (x : Nat) : BitVec 58 := BitVec.ofNat 58 ((s.ctl x 0x03A).toNat / 64)

/-- The issue that a breakpoint stopped is taken back before the bundle issues in full without the skipped slot
(02 R36, 14 R291, 23 R401). -/
def takeBack (s : State) (x : Nat) (st : Stop) : State :=
  match st.before with
  | some (b, d) => s.modIss x fun i => { i with started := b, dtime := d }
  | none => s

/-- The pieces of an access translated anew, or the code and the address that fails. -/
def placeAgain (x : Nat) (k : Access) : List Piece → State → Except (Nat × Nat) (List Piece × State)
  | [], s => .ok ([], s)
  | q :: qs, s =>
    match s.translate (coreOf x) (s.partOf x) q.va k with
    | .error c => .error (c, q.va)
    | .ok (pa, s1) =>
      if k = .write ∧ s.inAnyTmem pa q.n then .error (0x07, q.va)
      else match s.denied (s.partOf x) pa q.n with
      | some i => .error (0x07, q.va + i)
      | none => match placeAgain x k qs s1 with
      | .error e => .error e
      | .ok (ps, s2) => .ok ({ q with pa := pa } :: ps, s2)

/-- The bytes that a home operation accesses. -/
def homeBytes (o : MemOp) : Nat :=
  match o.home with
  | some .fadd => 4
  | some .chunk => 32
  | _ => 8

/-- A failed access is performed again with its kept operands, its addresses translated anew (14 R293). A translation that
fails now is its deferred trap. -/
def redoAccess (s : State) (x : Nat) (o : MemOp) : State :=
  let o : MemOp := { o with issued := s.pkg.now, order := (s.ctx x).mem.fences }
  let home := o.home.isSome
  let k : Access := if home ∧ o.home ≠ some .acquire then .write else .read
  match placeAgain x k (if home then [⟨o.va, homeBytes o, o.pa, 0⟩] else o.pieces) s with
  | .error (c, va) =>
    (if c = 0x06 then s.logWalk (s.partOf x) va else s).pendFailed x
      ⟨c, o.slot, BitVec.ofNat 64 va, if k = .write then 1 else 0, .deferred⟩ o
  | .ok (ps, s1) =>
    let pa := (ps.headD ⟨0, 0, 0, 0⟩).pa
    let o : MemOp := if home then { o with pa := pa, sectors := [pa / 32] } else s1.loadNow x { o with pieces := ps, pa := pa }
    (s1.learnReads x (if home then [] else ps.flatMap fun q => (List.range q.n).map (q.pa + ·))).modMem x fun m =>
      { m with ops := m.ops ++ [o] }

/-- Whether the events of context x that have a place in the epoch order have all taken it: its posted ones, its atomics and
acquires (12 R265). -/
def caughtUp (s : State) (x : Nat) : Bool :=
  (s.ctx x).mem.pubs.isEmpty && (s.ctx x).mem.ops.all fun o => o.home.isNone

/-- Whether the lookups of an access to be performed again wait: at a shoot-down, or for the entry of a walk (22 R378, R388). -/
def redoHeld (s : State) (x : Nat) (o : MemOp) : Bool :=
  let home := o.home.isSome
  let k : Access := if home ∧ o.home ≠ some .acquire then .write else .read
  (if home then [⟨o.va, homeBytes o, o.pa, 0⟩] else o.pieces).any fun q =>
    s.shooting (s.partOf x) q.va q.n || s.walkHeld (coreOf x) (s.partOf x) q.va k

/-- A context that has a snapshot to open does so once its earlier events have taken their places in the epoch order, and
then performs its failed access again, where no lookup of it waits (12 R265, R270, 14 R293, 22 R388). -/
def reopen (s : State) (x : Nat) : State :=
  match (s.ctx x).trap.redo with
  | none => s
  | some o? =>
    if caughtUp s x && !(o?.any (redoHeld s x)) then
      let s := (s.modTrap x fun t => { t with redo := none }).snapshot x
      match o? with
      | some o => redoAccess s x o
      | none => s
    else s

/-- THE RETURN FROM A STOP: the one operation by which a stopped context goes on, by rett.resume, rett.skip or its
owner (14 R291, R293). It opens a new snapshot and can issue from the next cycle. -/
def resumeStop (s : State) (x : Nat) (skip : Bool) : State :=
  let st := if skip then skipStop s x (stopOf s x) else stopOf s x
  let s := s.setCtl x 0x012 ((s.ctl x 0x012 &&& ~~~0x3FF#64) ||| st.done.setWidth 64)
  let s := if st.skipWhole then continueAt s x (tnextOf s x) none none false else s
  let s := reopen (s.modTrap x fun t => { t with redo := some st.deferred }) x
  let issued := decide (st.delivery = .precise) || (st.before.isSome && decide (st.skipSlots = 0) && !st.skipWhole)
  let again := (issued && (st.before.isSome || decide (st.done ≠ BitVec.allOnes 10))) || decide (st.skipSlots ≠ 0)
  let s := if st.skipSlots ≠ 0 then takeBack s x st else s
  let s := s.modTrap x fun t => { t with stop := none, rerun := if again then some st else none }
  let s := if issued && !again then continueAt s x (tnextOf s x) st.rep st.repSet st.jumped else s
  s.modIss x fun i => { i with phase := .eligible, pred := s.cyc (coreOf x), waitFrom := none, wait := none }

/-- The leaf check: the context takes trap 0x02 with slot 15, as its bundle's, and stays stopped (04 R111, 14 R288, R291). -/
def leafTrap (s : State) (x : Nat) : State :=
  let st := stopOf s x
  s.takeTrap x ⟨0x02, 15, 0, 0, st.delivery⟩ (s.ctl x 0x039) (s.ctl x 0x039 + 64) (s.ctl x 0x012) { st with delivery := .bundle }

/-- What a return names: a context of this package and partition by its place h[18:0] (14 R291). -/
def returnTo (s : State) (x : Nat) (mode : Nat) : State :=
  if (s.ctx x).iss.phase ≠ .stopped ∨ (s.ctx x).iss.saving.isSome then s
  else
    let td := s.ctl x 0x012
    if td.getLsbD 13 ∧ 4 < bits td 12 10 then leafTrap s x
    else if mode = 2 then s.endTask x true else resumeStop s x (decide (mode = 1))

/-- rett.resume, rett.skip and rett.end (14 R291). The place's own check against 96 cores finds no stopped context. -/
def returnOther (a : BitVec 6) (mode : Nat) (s : State) : State :=
  let h := s.readS a
  let own := s.ctl s.cur.ctx 0x000
  if a = 0 then s.trapReserved
  else if bits h 23 13 ≠ bits own 23 13 then s.trapHere 0x07 0 0
  else if 96 ≤ bits h 9 3 then s
  else returnTo s (8 * (96 * bits h 12 10 + bits h 9 3) + bits h 2 0) mode

def execRettResume (a : BitVec 6) (s : State) : Out := .next (returnOther a 0 s)
def execRettSkip (a : BitVec 6) (s : State) : Out := .next (returnOther a 1 s)
def execRettEnd (a : BitVec 6) (s : State) : Out := .next (returnOther a 2 s)

/-! ### Control registers (04 R104 to R106) -/

/-- The writable bits of a control register; none for a number the map leaves unassigned, `some none` for a register
that is read only (04 R106). -/
def ctlAccess (num : Nat) : Option (Option (BitVec 64)) :=
  match num with
  | 0x000 => some none | 0x001 => some none | 0x002 => some none | 0x003 => some none
  | 0x008 => some none | 0x009 => some none | 0x00A => some none | 0x00B => some none | 0x00C => some none
  | 0x010 => some (some 0xFFFFFF) | 0x011 => some (some 1) | 0x012 => some (some 0x3FFF)
  | 0x018 => some (some 7) | 0x019 => some (some 0x1F)
  | 0x020 => some (some 0x7FFF0) | 0x021 => some (some 0xFFFFFF) | 0x022 => some (some 0xFFFF000F)
  | 0x023 => some (some 0xFFFFFFFFFF) | 0x024 => some none | 0x025 => some (some 0xFFFFFFFF)
  | 0x028 => some (some 0xFFFFFFFF) | 0x029 => some (some 0xFFFF)
  | 0x030 => some (some 0xFFFF) | 0x031 => some (some 1) | 0x032 => some (some 0x1FFFFFFFF)
  | 0x038 => some none | 0x039 => some none | 0x03A => some none | 0x03B => some none | 0x03C => some none
  | 0x03D => some (some 0xFFFFFFFFFFFFFFC0) | 0x03E => some (some 0xFFFFFFFFFFFFFFC1) | 0x03F => some (some 3)
  | _ => none

/-- The value of a control register as context x reads it at issue (04 R104, R110). DESIGN CHOICE (log entry 66): ctl.selv
reads as written; its fields are limited only where a beat uses them (09 R206). -/
def ctlRead (s : State) (x num : Nat) : BitVec 64 :=
  match num with
  | 0x008 => BitVec.ofNat 64 (s.cyc (coreOf x))
  | 0x009 => BitVec.ofNat 64 (s.icyc x)
  | 0x00A => BitVec.ofNat 64 (s.ctx x).iss.dtime
  | 0x00B => BitVec.ofNat 64 (s.cyc (coreOf x))
  | 0x00C => s.ptime
  | 0x024 => s.arrivals x
  | 0x025 => (s.core (coreOf x)).stray.setWidth 64
  | 0x010 => match (s.ctx x).trap.owed with
    | some q => if s.ctl x 0x010 = 0 then BitVec.ofNat 64 q.1 else s.ctl x 0x010
    | none => s.ctl x 0x010
  | _ => s.ctl x num

/-- rdctl, latency 2; reading ctl.ab joins the tags it shows ready (04 R104, 10 R235). -/
def execRdctl (d : BitVec 6) (n : BitVec 12) (s : State) : Out :=
  let x := s.cur.ctx
  .next <|
    match ctlAccess n.toNat with
    | none => s.trapReserved
    | some _ => (if n = 0x024 then s.joinTags x (s.arrivals x) else s).writeS d 2 (ctlRead s x n.toNat)

/-- ctl.fpf is written in the next cycle, before the flags that land in it (07 R158). DESIGN CHOICE (log entry 75): the cycle of
the write is the one after the wrctl's issue, so flags that land in the issue cycle are overwritten. -/
def writeFpf (s : State) (v : BitVec 64) : State :=
  s.modCore s.cur.core fun c =>
    let now := s.cyc s.cur.core + 1
    { c with landings := (c.landings.filter fun l => l.cycle < now) ++
        [⟨now, c.iss.seq, s.cur.ctx % 8, 0, .ctl 0x019 v⟩] ++ (c.landings.filter fun l => ¬ l.cycle < now) }

/-- What a wrctl does to the register it writes (04 R104, and the chapter of each register). -/
def ctlWrite (s : State) (x num : Nat) (v : BitVec 64) : State :=
  match num with
  | 0x019 => writeFpf s v
  | 0x025 => s.modCore (coreOf x) fun c => { c with stray := v.setWidth 32 }
  | 0x030 =>
    -- the requests are compared with the new hysteresis from the next cycle on (19 R348, R349)
    s.schedule 1 0 (.ctl num v)
  | 0x032 =>
    -- a wrctl of 0 to the armed bit disarms, a wrctl of 1 is ignored (23 R396)
    s.setCtl x num (v &&& (s.ctl x num ||| 0xFFFFFFFF))
  | 0x010 =>
    -- it takes effect at the next bundle the context issues (02 R48)
    if s.cur.live then s.modCur fun c => { c with repSet := some (bits v 23 0) } else s.setCtl x num v
  | 0x03F =>
    -- a bit set pends that light trap with extra information 0 (14 R288)
    (s.modTrap x fun t => { t with lightInfo := if v.getLsbD 0 then 0 else t.lightInfo
                                   riskInfo := if v.getLsbD 1 then 0 else t.riskInfo }).setCtl x num v
  | _ => s.setCtl x num v

/-- wrctl (04 R104, R105); modes 6 and 7 of ctl.rm raise 0x02 (07 R157). DESIGN CHOICE (log entry 66): trap 0x07 at a
read-only register has fault address 0 and extra information 0. -/
def execWrctl (a : BitVec 6) (n : BitVec 12) (s : State) : Out :=
  let v := s.readS a
  .next <|
    match ctlAccess n.toNat with
    | none => s.trapReserved
    | some none => s.trapHere 0x07 0 0
    | some (some m) =>
      if n = 0x018 ∧ 6 ≤ bits v 2 0 then s.trapReserved else ctlWrite s s.cur.ctx n.toNat (v &&& m)

/-! ### fence -/

/-- fence: later accesses are performed after every earlier one (12 R279). -/
def execFence (s : State) : Out := .next (s.modMem s.cur.ctx fun m => { m with fences := m.fences + 1 })

end Sys2Proof.Machine
end

