-- ==== Sys2Proof/Machine/Copies.lean ====
section
/-! DEFINITION. Slot C: copies, chains, multicasts, cancel, tags, barriers, shuttle rings, and the card sequencer's
seqld, seqgo, seqwait and gang (09 R223 to R226, 10). -/

namespace Sys2Proof.Machine

open State

/-! ### Copies (10 R237 to R241, R250) -/

/-- Whether any of n bytes at an engine address are global. -/
def touchesGlobal (s : State) (a n : Nat) : Bool :=
  decide (n ≠ 0) && decide (placeOf s.cur.core a n = .global)

def touchesGap (s : State) (a n : Nat) : Bool := decide (n ≠ 0) && decide (placeOf s.cur.core a n = .gap)

/-- A bound operation with nothing to do completes ok at once (10 R237, R250). -/
def bindDone (s : State) (x t : Nat) : State := (s.bindTag x t).completeTag x t 0 0

/-- copy (10 R237). One of no bytes completes as it issues, and gives its sample of 0 too (10 R237, 19 R344). -/
def execCopy (d a n t : BitVec 6) (s : State) : Out :=
  let x := s.cur.ctx
  let dst := (s.readS d).toNat
  let src := (s.readS a).toNat
  let len := (s.readS n).toNat % 2 ^ 32
  .next <|
    if touchesGap s dst len then s.trapHere 0x05 (gapAddr dst) 0
    else if touchesGap s src len then s.trapHere 0x05 (gapAddr src) 0
    else if s.mustWait x t.toNat true then s.blockFor (s.bindWait x t.toNat)
    else if len = 0 then (bindDone s x t.toNat).giveSample x 4 0
    else if s.homeAhead [(src, len, 0)] then s.block 3
    else match s.readIssuer x src len with
    | .error (_, va) => s.fork x t.toNat (.copy dst src len) [] [] 1 (BitVec.ofNat 64 va) false
    | .ok (data, bad, s1) => s1.fork x t.toNat (.copy dst src len) data bad 0 0 false

/-- copych: one operation for the whole chain (10 R240). DESIGN CHOICE (log entry 66): a head address in the window region
ends the chain with status error, as R240 says, and raises no trap 0x05. -/
def execCopych (h t : BitVec 6) (s : State) : Out :=
  let x := s.cur.ctx
  .next <|
    if s.mustWait x t.toNat true then s.blockFor (s.bindWait x t.toNat)
    else if s.forkHeld then s.block 3
    else s.fork x t.toNat (.chain (s.readS h).toNat) [] [] 0 0 false

/-- copymc (10 R250). -/
def execCopymc (a n q t : BitVec 6) (s : State) : Out :=
  let x := s.cur.ctx
  let o := (s.readS a).toNat
  let len := (s.readS n).toNat % 2 ^ 32
  let cfg := s.readC 0x022
  let mask := bits cfg 3 0
  let boff := 16 * bits cfg 31 16
  .next <|
    if o % 32 ≠ 0 ∨ len % 32 ≠ 0 then s.trapHere 0x04 o 0
    else if xstoreSize < o + len then s.trapHere 0x05 (max o xstoreSize) 0
    else if 0x5FFF0 < boff then s.trapHere 0x05 boff 0
    else if s.mustWait x t.toNat true then s.blockFor (s.bindWait x t.toNat)
    else if len = 0 ∨ mask = 0 then bindDone s x t.toNat
    else s.fork x t.toNat (.multicast o len mask boff (s.readS q) []) [] [] 0 0 false

/-- cancel: a request to every operation bound to the tag (10 R241). -/
def execCancel (t : BitVec 6) (s : State) : Out :=
  let x := s.cur.ctx
  .next (s.modCore s.cur.core fun c =>
    { c with engines := c.engines.map fun e => if e.ctx = x ∧ e.tag = t.toNat then { e with cancel := true } else e })

/-! ### Tags (10 R243, R244) -/

/-- The index of the lowest set bit, or all ones where there is none. -/
def lowestBit (v : BitVec 64) : BitVec 64 :=
  match (List.range 64).find? fun i => v.getLsbD i with
  | some i => BitVec.ofNat 64 i
  | none => BitVec.allOnes 64

/-- The end of a wait: the tags seen ready are joined and a new snapshot opens (10 R235, 12 R270). -/
def passTags (s : State) (seen : BitVec 64) : State := (s.joinTags s.cur.ctx seen).snapshot s.cur.ctx

/-- An instruction that opens a snapshot as it completes comes after every publication its context has posted and every atomic
of its earlier bundles: it waits for them (12 R265). -/
def inEpochs (s : State) (ok : State) : State := if s.outOfTurn then s.blockFor orderWait else ok

/-- waitany (10 R243). -/
def execWaitany (d m : BitVec 6) (s : State) : Out :=
  let seen := s.arrivals s.cur.ctx &&& s.readS m
  .next (if s.readS m ≠ 0 ∧ seen = 0 then s.blockTimed else inEpochs s ((passTags s seen).writeS d 1 (lowestBit seen)))

/-- waitall (10 R243). -/
def execWaitall (m : BitVec 6) (s : State) : Out :=
  let seen := s.arrivals s.cur.ctx &&& s.readS m
  .next (if seen ≠ s.readS m then s.blockTimed else inEpochs s (passTags s seen))

/-- ffrdy: never waits (10 R243). -/
def execFfrdy (d m : BitVec 6) (s : State) : Out :=
  let seen := s.arrivals s.cur.ctx &&& s.readS m
  .next ((s.joinTags s.cur.ctx seen).writeS d 2 (lowestBit seen))

/-- tagclr: tags with nothing pending (10 R244). -/
def execTagclr (m : BitVec 6) (s : State) : Out :=
  let v := s.readS m
  .next ((List.range 64).foldl (fun (s : State) t =>
    if v.getLsbD t && decide (((s.ctx s.cur.ctx).tags.get resetTag t).pend = 0) then
      s.setTag s.cur.ctx t fun _ => resetTag else s) s)

/-- The word of tagst (10 R244). -/
def tagWord (g : Tag) : BitVec 64 :=
  BitVec.ofNat 64 (g.st + (if g.ready then 8 else 0) + g.pend * 16 + (if g.st = 1 then g.fa.toNat / 2 ^ 16 * 2 ^ 16 else 0))

def execTagst (d t : BitVec 6) (s : State) : Out :=
  let x := s.cur.ctx
  let g := (s.ctx x).tags.get resetTag t.toNat
  .next ((if g.ready then s.joinTag x t.toNat else s).writeS d 2 (tagWord g))

/-! ### Barriers (10 R245 to R247) -/

/-- The barrier a slot names: aligned, in an X-store window or a global address it may read and write (10 R246). -/
def withBarrier (s : State) (b : BitVec 64) (ok : Home → State → State) : State :=
  let a := b.toNat
  if a % 16 ≠ 0 then s.trapHere 0x04 a 0
  else match placeOf s.cur.core a 16 with
  | .xstore c o =>
    match poisonedAt (s.core c).st.xpoison o 16 with
    | some v => s.trapHere 0x08 (a - o + v) 0
    | none => ok (.store c o) (s.mendBarrier (.store c o))
  | .global =>
    if s.fenced s.cur.ctx then s.block 3
    else s.access .write false [(a, 16, 0)] fun ps s =>
      let pa := (ps.headD ⟨0, 0, 0, 0⟩).pa
      if !readable s a then s.trapHere 0x07 a 1
      else ok (.memory pa) s
  | _ => s.trapHere 0x05 a 0

/-- A posted event of the epoch order: the slot never waits. Where the event comes behind others, or version pressure holds for
the lines of which it makes versions, it is performed later (12 R265, R271). DEDUCED (log entry 8). -/
def State.postEvent (s : State) (lines : List Nat) (after : After) (ok : State) : State :=
  if s.behindOthers s.cur.ctx || s.linesOff s.cur.ctx lines then
    s.modMem s.cur.ctx fun m => { m with pubs := m.pubs ++ [⟨5, [], none, false, false, after, m.nextId⟩] }
  else ok

/-- A posted update of a barrier, which in global memory is an event of the epoch order (10 R246). -/
def postBarrier (s : State) (h : Home) (after : Nat → After) (ok : State) : State :=
  match h with
  | .store _ _ => ok
  | .memory pa => s.postEvent [pa / 128] (after pa) ok

/-- barinit (10 R246); the phase is kept. -/
def execBarinit (b e : BitVec 6) (s : State) : Out :=
  .next <| if s.isHeld s.cur.ctx then s.trapHeld
    else withBarrier s (s.readS b) fun h s =>
      let n := (s.readS e).toNat % 2 ^ 32
      postBarrier s h (.arm (s.readS b).toNat · n) (s.armBarrier s.cur.ctx h n)

/-- bararr (10 R246, R247). -/
def execBararr (b n : BitVec 6) (s : State) : Out :=
  .next <| if s.isHeld s.cur.ctx then s.trapHeld
    else withBarrier s (s.readS b) fun h s =>
      let k := (s.readS n).toNat % 2 ^ 32
      postBarrier s h (.arrive (s.readS b).toNat · k) (s.arriveAt s.cur.ctx (s.readS b).toNat h k true)

/-- Whether a change of a barrier in global memory has to wait for version pressure on its line (12 R271). -/
def flipHeld (s : State) (x : Nat) : Home → Bool
  | .store _ _ => false
  | .memory pa => s.linesOff x [pa / 128]

/-- barwait: met, or the phase has left the one first read, which it keeps over every wait (10 R246). Its own posted updates
come first (12 R265). -/
def execBarwait (b : BitVec 6) (s : State) : Out :=
  let x := s.cur.ctx
  .next <| withBarrier s (s.readS b) fun h s =>
    let v := s.barrierAt h
    let read := ((s.ctx x).iss.wait).bind (·.phase)
    let ph := read.getD v.phase
    let turn := fun (ok : State) => if s.outOfTurn then s.blockFor { orderWait with phase := some ph } else ok
    if Home.isGlobal h ∧ s.outOfTurn then s.blockFor { orderWait with phase := read }
    else if v.phase ≠ ph then turn ((s.joinBarrier x h).snapshot x)
    else if v.met then
      if flipHeld s x h then s.blockFor (flipWait (s.readS b).toNat ph)
      else turn (((s.setBarrier x h { v with w0 := barrierWord false (!v.phase) v.count }).joinBarrier x h).snapshot x)
    else s.blockFor ⟨4, 0x0B, s.readS b, some ph⟩

/-! ### Shuttle rings (10 R255 to R259) -/

/-- The ring a descriptor and the address of its record make (10 R256); `none` where a field is out of range. -/
def ringOf (s : State) (x a : Nat) (record : Nat) : Option Ring :=
  let m := (s.core s.cur.core).st.xstore
  let f := fun o n => m.readNat (a + o) n
  let count := f 6 2
  let size := f 8 4
  if 2 ≤ f 4 1 ∨ 2 ≤ f 5 1 ∨ count = 0 ∨ 64 < count ∨ size % 128 ≠ 0 ∨ size = 0 ∨ 65536 < size then none
  else
    let mem := (s.ctx x).mem
    some { resetRing with
      owner := some x, base := f 0 4, wstore := decide (f 4 1 = 1), output := decide (f 5 1 = 1), count := count
      ssize := size, recAddr := record, view := mem.view, snap := mem.snap, eo := s.pkg.eo, own := s.ownWrites x
      held := mem.held.isSome, freed := (List.range count).map fun j => (j, s.pkg.now) }

/-- subscr (10 R257). -/
def execSubscr (a p h : BitVec 6) (s : State) : Out :=
  let x := s.cur.ctx
  let n := s.cur.core
  let da := (s.readS a).toNat
  let ra := (s.readS p).toNat
  .next <|
    if 15 < h.toNat then s.trapReserved
    else if da % 16 ≠ 0 then s.trapHere 0x04 da 0
    else if ra % 64 ≠ 0 then s.trapHere 0x04 ra 0
    else if xstoreSize < da + 16 then s.trapHere 0x05 (max da xstoreSize) 0
    else match poisonedAt (s.core n).st.xpoison da 16 with
    | some v => s.trapHere 0x08 v 0
    | none =>
      match ringOf s x da ra with
      | none => s.trapHere 0x05 da 0
      | some r =>
        let size := if r.wstore then wstoreSize else xstoreSize
        if size < r.base + r.count * r.ssize then s.trapHere 0x05 (max r.base size) 0
        else if inWindow ra then s.trapHere 0x05 ra 0
        else match (s.ring n h.toNat).owner with
        | none => if s.forkHeld then s.block 3 else (s.mend n .xstore (sectorsOf da 16)).setRing n h.toNat r
        | some y =>
          if y ≠ x then s.trapHere 0x07 0 0
          else if !(s.ring n h.toNat).drained ∨ s.forkHeld then s.block 4
          else ((s.mend n .xstore (sectorsOf da 16)).freeRing n h.toNat).setRing n h.toNat r

/-- The common checks of the ring instructions: the handle, its binding, its direction where one is asked, a failed
tile at the head (10 R259). -/
def withRing (s : State) (h : BitVec 6) (dir : Option Bool) (ok : Ring → State) : State :=
  if 15 < h.toNat then s.trapReserved
  else
    let r := s.ring s.cur.core h.toNat
    if r.owner ≠ some s.cur.ctx then s.trapHere 0x05 0 0
    else if dir.any (fun d => d != r.output) then s.trapHere 0x05 0 0
    else match Ring.atFailure r with
    | some (code, fa) => s.trapHere code fa.toNat 0
    | none => ok r

/-- The status word of slotwait (10 R259). -/
def slotWord (r : Ring) : BitVec 64 :=
  BitVec.ofNat 64
    ((if Ring.ended r then 0 else r.base + r.head % r.count * r.ssize)
      + (if r.wstore then 2 ^ 32 else 0)
      + (if !r.output && r.poisoned.contains (r.head % r.count) && !Ring.ended r then 2 ^ 33 else 0)
      + (if Ring.ended r then 2 ^ 34 else 0))

/-- The head slot is ready or the stream has ended, which the stream's record tells; else the bundle waits. -/
def whenSlot (s : State) (r : Ring) (ok : State) : State :=
  if Ring.usable r || Ring.ended r then inEpochs s ok else s.blockTimed

/-- slotwait: joins the fill, or the pull that freed the slot (10 R259, 12 R274). -/
def execSlotwait (d h : BitVec 6) (s : State) : Out :=
  let x := s.cur.ctx
  .next <| withRing s h none fun r =>
    whenSlot s r (((s.joinKey x (slotKey h.toNat (r.head % r.count))).snapshot x).writeS d 1 (slotWord r))

/-- slotpop (10 R259). -/
def execSlotpop (h : BitVec 6) (s : State) : Out :=
  let x := s.cur.ctx
  let n := s.cur.core
  .next <| withRing s h (some false) fun r =>
    whenSlot s r <|
      let s := (s.joinKey x (slotKey h.toNat (r.head % r.count))).snapshot x
      if Ring.ended r then s
      else s.setRing n h.toNat { r with head := r.head + 1, freed := r.freed.put (r.head % r.count) s.pkg.now
                                        poisoned := r.poisoned.filter fun j => ¬ j = r.head % r.count }

/-- slotdone: the slot is read as it stands now (08 R196, 10 R258, R259). -/
def execSlotdone (h : BitVec 6) (s : State) : Out :=
  let x := s.cur.ctx
  let n := s.cur.core
  .next <| withRing s h (some true) fun r =>
    whenSlot s r <|
      let s := (s.joinKey x (slotKey h.toNat (r.head % r.count))).snapshot x
      if Ring.ended r then s
      else
        let a := r.base + r.head % r.count * r.ssize
        let st := (s.core n).st
        let data := (if r.wstore then st.wstore else st.xstore).read a r.ssize
        let bad := badOffsets (if r.wstore then st.wpoison else st.xpoison) a r.ssize
        (s.mend n (if r.wstore then .wstore else .xstore) (sectorsOf a r.ssize)).setRing n h.toNat { r with head := r.head + 1, queued := r.queued ++ [(data, bad)] }

/-- unsub: waits until every done slot is pulled (10 R259). -/
def execUnsub (d h : BitVec 6) (s : State) : Out :=
  let n := s.cur.core
  .next <|
    if 15 < h.toNat then s.trapReserved
    else
      let r := s.ring n h.toNat
      if r.owner ≠ some s.cur.ctx then s.trapHere 0x05 0 0
      else if !Ring.drained r then s.block 4
      else (s.freeRing n h.toNat).writeS d 1 (BitVec.ofNat 64 r.worst)

/-! ### The card sequencer (09 R223 to R226) -/

/-- Whether the sequencer of core n is loading or running. -/
def seqBusy (s : State) (n : Nat) : Bool := (s.core n).seq.running || (s.core n).seq.loading.isSome

/-- seqld: the deck is read as an engine read and its tag set at completion (09 R223). -/
def execSeqld (a n t : BitVec 6) (s : State) : Out :=
  let x := s.cur.ctx
  let cn := s.cur.core
  let addr := (s.readS a).toNat
  let len := 64 * (n.toNat + 1)
  .next <|
    if addr % 64 ≠ 0 then s.trapHere 0x04 addr 0
    else if touchesGap s addr len then s.trapHere 0x05 (gapAddr addr) 0
    else if seqBusy s cn || s.mustWait x t.toNat false then s.block 4
    else if s.homeAhead [(addr, len, 0)] then s.block 3
    else
      let load := fun (s : State) => s.modCore cn fun c =>
        { c with seq := { c.seq with loading := some c.nextId, loader := x, usable := false } }
      match s.readIssuer x addr len with
      | .error (_, va) =>
        (load s).fork x t.toNat (.deck addr (n.toNat + 1)) [] [] 1 (BitVec.ofNat 64 va) false
      | .ok (data, bad, s1) =>
        (load s1).fork x t.toNat (.deck addr (n.toNat + 1)) data bad (if bad.isEmpty then 0 else 3) 0 false

/-- The record of seqgo and gang: A0 to A3, C0 to C3, read from an X-store (09 R223). -/
def seqCounters (st : CoreStore) (a : Nat) : Tab (BitVec 32) × Tab (BitVec 16) :=
  ((List.range 4).map fun i => (i, BitVec.ofNat 32 (st.xstore.readNat (a + 4 * i) 4)),
   (List.range 4).map fun i => (i, BitVec.ofNat 16 (st.xstore.readNat (a + 16 + 2 * i) 2)))

/-- A deck starts on core n for its owner, of which a save may be pending; its first card is visited in the next cycle (09 R221,
R223, R225, R226). -/
def startDeck (s : State) (n owner a start members leader boff : Nat) (cards : List (BitVec 512)) : State :=
  let cs := seqCounters (s.core n).st a
  (s.mend n .xstore (sectorsOf a 32)).modCore n fun c => { c with
    seq := { resetSequencer with
      cards := cards, usable := true, running := true, owner := owner, loader := owner, a := cs.1, c := cs.2
      card := start, selv := s.ctl owner 0x021, gang := members, leader := leader, boff := boff
      savePending := (s.ctx owner).iss.saving.isSome, notBefore := s.cyc n + 1 } }

/-- The checks of a start that come before any wait: the record's address (09 R223, R226). -/
def recordChecks (s : State) (a : Nat) (ok : State) : State :=
  if a % 32 ≠ 0 then s.trapHere 0x04 a 0
  else if xstoreSize < a + 32 then s.trapHere 0x05 (max a xstoreSize) 0
  else ok

/-- Cause 4 of the card fault: no usable deck, or a start beyond it (09 R224). -/
def deckCheck (s : State) (start : Nat) (ok : State) : State :=
  let q := (s.core s.cur.core).seq
  if !q.usable || decide (q.cards.length ≤ start) then s.trapHere 0x18 0 (start + 4 * 2 ^ 8) else ok

/-- seqgo (09 R223). -/
def execSeqgo (a st : BitVec 6) (s : State) : Out :=
  let n := s.cur.core
  let addr := (s.readS a).toNat
  .next <| recordChecks s addr <|
    if seqBusy s n then s.block 4
    else deckCheck s st.toNat <|
      match poisonedAt (s.core n).st.xpoison addr 32 with
      | some v => s.trapHere 0x08 v 0
      | none => startDeck s n s.cur.ctx addr st.toNat 0 n 0 (s.core n).seq.cards

/-- seqwait: until no deck of the context loads or runs; the card copies are joined (09 R223, 12 R274). -/
def execSeqwait (s : State) : Out :=
  let x := s.cur.ctx
  .next <|
    if s.deckBusy x then s.blockTimed
    else inEpochs s (((List.range 64).foldl (fun (s : State) t => s.joinKey x (cardKey t)) s).snapshot x)

/-- The context of a core that holds a member of the issuer's gang (09 R226). -/
def gangMember (s : State) (n : Nat) : Option Nat :=
  match (s.ctx s.cur.ctx).task with
  | none => if n = s.cur.core then some s.cur.ctx else none
  | some t => (s.membersOf t.part t.slot).find? fun y => coreOf y = n

/-- gang (09 R226). A poisoned record of any member raises trap 0x08 at the slot. DEDUCED (log entry 66). -/
def execGang (a m st : BitVec 6) (s : State) : Out :=
  let n := s.cur.core
  let mask := (s.readS m).toNat % 16
  let cores := quadCores n mask
  let addr := (s.readS a).toNat
  .next <|
    if cores.length < 2 || !cores.contains n || cores.any (fun c => (gangMember s c).isNone) then s.trapHere 0x0E 0 1
    else recordChecks s addr <|
      if cores.any (seqBusy s) then s.block 4
      else deckCheck s st.toNat <|
        match least (cores.map fun c => poisonedAt (s.core c).st.xpoison addr 32) with
        | some v => s.trapHere 0x08 v 0
        | none =>
          let cards := (s.core n).seq.cards
          let boff := 16 * bits (s.readC 0x022) 31 16
          cores.foldl (fun (s' : State) c =>
            startDeck s' c ((gangMember s c).getD s.cur.ctx) addr st.toNat mask n boff cards) s

end Sys2Proof.Machine
end

