-- ==== Sys2Proof/Machine/Tasks.lean ====
section
/-! DEFINITION. Slot C: publications that the context waits for and what follows them, phase, spawn, taskend, trigger and
decide (12 R266, R278, 16 R314 to R317, 17 R332 to R335). -/

namespace Sys2Proof.Machine

namespace State

/-! ### The end of a task (16 R316, 17 R332) -/

/-- The parked end of a held task: its buffer stays under its slot; a surrogate's end, that of its last member, releases
its check (17 R332). -/
def parkTask (s : State) (x : Nat) (t : Task) (h : HeldMode) : State :=
  let scope := s.taskScope x
  let g := s.agent x
  let live := s.slotLive t.part t.slot - 1
  let s := s.modPart t.part fun r => { r with
    parked := r.parked ++ [⟨t.slot, dieOf g.core, x, g.core, g.me, g.knows, scope, h.lines⟩] }
  let s := s.slotPut t.part t.slot 3 1 live
  let s := match s.pairOf t.part t.slot with
    | some q => if q.surrogate = t.slot ∧ live = 0 then s.decrement g t.part q.check scope else s
    | none => s
  s.freeContext x

/-- Steps 3 and 4 of taskend for an agent: the successors in order, the pick's end, the slot (16 R316). -/
def closeSlot (s : State) (g : Agent) (p slot scope : Nat) : State :=
  let trig := decide (s.slotTrig p slot = 1)
  let s := (s.successors p slot).foldl (fun (s : State) h => s.releaseSuccessor g p scope trig h) s
  (s.endPick g p slot false).dropSlot p slot

/-- A member ends: the last one ends the task. A slot that end_task has failed releases nothing and stays for its owner
(14 R292, 16 R308, R309, R316). -/
def endMember (s : State) (x : Nat) (t : Task) : State :=
  let live := s.slotLive t.part t.slot - 1
  let s := s.slotPut t.part t.slot 3 1 live
  if live = 0 ∧ s.slotState t.part t.slot ≠ 4 then
    (s.closeSlot (s.agent x) t.part t.slot (s.taskScope x)).freeContext x
  else s.freeContext x

/-- The held lines over the unpublished ones. -/
def withHeldLines (h : HeldMode) (unpub : List LineWrite) : List LineWrite := h.lines.reverse.foldl addLine unpub

/-- Joins every engine of the held mode: its writes stand in the held buffer (17 R331). -/
def joinHeld (s : State) (x : Nat) : State :=
  let s := s.learn x (((s.ctx x).mem.engineReads.filter fun q => heldKey 0 ≤ q.1).map (·.2))
  s.modMem x fun m => { m with engineReads := m.engineReads.filter fun q => ¬ heldKey 0 ≤ q.1 }

/-- What follows a task's last publication: its buffer is parked, or the last member ends the task. The winner of a decision
that came while it waited publishes its held writes too, and then completes (17 R332, R334). -/
def finishTask (s : State) (x : Nat) : State :=
  match (s.ctx x).task with
  | none => s.freeContext x
  | some t =>
    match (s.ctx x).mem.held with
    | some h =>
      if s.slotState t.part t.slot = 4 then s.endMember x t
      else if h.decided = some true then
        let lines := withHeldLines h (s.ctx x).mem.unpub
        let s := ((s.joinHeld x).leaveHeld x).modMem x fun m => { m with unpub := [] }
        if s.mustPost x lines .ending then
          s.modMem x fun m => { m with pubs := m.pubs ++ [⟨s.taskScope x, lines, none, false, true, .ending, m.nextId⟩] }
        else (s.publishLines x (s.taskScope x) lines false none).endMember x t
      else s.parkTask x t h
    | none => s.endMember x t

/-- The successors a trigger releases: neither stale nor past waiting (16 R317). -/
def triggerOne (s : State) (g : Agent) (p h : Nat) : State :=
  let i := h % 2 ^ 20
  if s.stale p h ∨ s.slotState p i ≠ 1 then s else (s.slotAdd g p i 16 8 1 3).decrement g p i 3

/-- The releases of the first trigger of a task (16 R317). -/
def fireTrigger (s : State) (x : Nat) : State :=
  match (s.ctx x).task with
  | none => s
  | some t =>
    if s.slotTrig t.part t.slot ≠ 0 then s
    else
      let s := s.retain x ((s.followLines x .trigger).map (·.1))
      let s := (s.successors t.part t.slot).foldl (fun (s : State) h => s.triggerOne (s.agent x) t.part h) s
      s.slotPut t.part t.slot 2 1 1

/-- A guard that passed: the surrogate's slot is freed and the buffers of the pair are released, those of every member of the
check (17 R337). -/
def passGuard (s : State) (x d : Nat) : State :=
  let s := match (s.ctx x).task, s.checkPair x with
    | some t, some q => (((s.unpark t.part q.surrogate).dropPair t.part q).dropSlot t.part q.surrogate).leaveAll t.part t.slot
    | _, _ => s
  (s.leaveHeld x).setRegS x d 1

/-- What follows a publication of context x. -/
def afterPublication (s : State) (x : Nat) : After → State
  | .nothing => s
  | .snap => if (s.ctx x).iss.phase = .stopped then s else s.snapshot x
  | .ending => s.finishTask x
  | .trigger => s.fireTrigger x
  | .commit => s.leaveHeld x
  | .guard d => s.passGuard x d
  | .arm _ _ _ => s
  | .arrive _ _ _ => s
  | .decide _ _ _ => s

/-- A publication of lines at one eo point for which the context waits: at once, or pending (12 R266, R271). That of a
phase is a release at every location it publishes; taskend and trigger release with their decrements (12 R273). -/
def post (s : State) (x scope : Nat) (lines : List LineWrite) (after : After) : State :=
  let release := decide (after = .snap)
  if s.mustPost x lines after then
    s.modMem x fun m => { m with pubs := m.pubs ++ [⟨scope, lines, none, release, true, after, m.nextId⟩] }
  else (s.publishLines x scope lines release none).afterPublication x after

/-- publish(ctx, S): everything unpublished (12 R266). -/
def postAll (s : State) (x scope : Nat) (after : After) : State :=
  let lines := (s.ctx x).mem.unpub
  (s.modMem x fun m => { m with unpub := [] }).post x scope lines after

/-- Engines of context x forked in held mode. -/
def heldEngines (s : State) (x : Nat) : List EngineOp := (s.enginesOf x).filter fun (e : EngineOp) => e.held

/-- Whether engines of the held mode are still at work: operations, or pulls of the done slots of rings (17 R331). -/
def heldBusy (s : State) (x : Nat) : Bool :=
  !(s.heldEngines x).isEmpty || (s.ringsOf x).any fun h => (s.ring (coreOf x) h).held && !(s.ring (coreOf x) h).drained

/-- squash: the held-mode engines are cancelled, the held writes dropped (17 R331). -/
def squashHeld (s : State) (x : Nat) : State :=
  ((s.heldEngines x).foldl (fun (s : State) (e : EngineOp) => s.acknowledge (coreOf x) e) s).leaveHeld x

/-- Whether a taskend has to wait for engine operations, decks and subscriptions (16 R316). -/
def unfinished (s : State) (x : Nat) : Bool :=
  !(s.enginesOf x).isEmpty || (s.ctx x).mem.ops.any (fun o => decide (o.size = 8)) || s.deckBusy x || (s.ringsOf x).any fun h => !(s.ring (coreOf x) h).drained

/-- taskend of context x (16 R316, 17 R332, R335). -/
def endOfTask (s : State) (x : Nat) : State :=
  let s := match (s.ctx x).mem.held with
    | some h =>
      if h.gov = Governor.held then s.squashHeld x
      else match (s.ctx x).task, s.checkPair x with
        | some t, some q => (s.leaveHeld x).failPair t.part (dieOf (coreOf x)) q (bits (s.ctl x 0x029) 15 0)
        | _, _ => s
    | none => s
  if s.unfinished x then s.block 4
  else
    let s := (s.ringsOf x).foldl (fun (s : State) h => s.freeRing (coreOf x) h) s
    ((s.joinAll x).closeUnits x).postAll x (s.taskScope x) .ending

end State

open State

/-- phase (12 R278): the publication, then a snapshot at the point after it. -/
def execPhase (sc : BitVec 3) (s : State) : Out :=
  .next (if 6 ≤ sc.toNat then s.trapReserved else s.postAll s.cur.ctx sc.toNat .snap)

/-! ### spawn (16 R314) -/

/-- What a packet holds of its task: its dependence count and its template id (16 R305, R306). -/
def packetDeps (packet : List (BitVec 8)) : Nat := ofBytesLE ((packet.drop 12).take 2)
def packetTmpl (packet : List (BitVec 8)) : Nat := ofBytesLE ((packet.drop 2).take 2)

/-- The checks of a packet and the waits for a slot and for the ring; the packet is copied into the slot, and the handle
lands later (16 R309, R313, R314; log entry 11). -/
def spawnPacket (s : State) (d : BitVec 6) (va : Nat) (packet : List (BitVec 8)) : State :=
  let p := s.partOf s.cur.ctx
  let b := fun i => (packet.getD i 0).toNat
  if b 0 / 8 % 16 ≠ 0 ∨ b 1 / 32 = 7 ∨ packet.length < payloadOff (b 1 / 32) then s.trapReserved
  else if (s.part p).ent.tmplCount ≤ packetTmpl packet then s.trapHere 0x05 va 0
  else match s.freeSlot p with
  | none => s.block 4
  | some i =>
    let g := s.slotGen p i
    let s1 := s.fillSlot p i packet (packetDeps packet)
    match (if packetDeps packet = 0 then s1.queueTask p (dieOf s.cur.core) ⟨i, g⟩ else (.queued, s1)) with
    | (.full, _) => s.block 13
    | (.unmapped page, _) => s.trapHere 0x19 page 0
    | (.queued, s2) => s2.launchOp fun o => { o with
        dest := sReg d.toNat, size := 8, va := va, operand := BitVec.ofNat 64 packet.length, value := BitVec.ofNat 8192 (handleOf i g) }

/-- spawn: the packet is read with the issuer's view at issue (16 R314). -/
def execSpawn (d a : BitVec 6) (s : State) : Out :=
  let x := s.cur.ctx
  let va := (s.readS a).toNat
  .next <|
    if s.isHeld x then s.trapHeld
    else if va % 32 ≠ 0 then s.trapHere 0x04 va 0
    else if touchesGap s va 32 then s.trapHere 0x05 (gapAddr va) 0
    else if s.homeAhead [(va, 256, 0)] then s.block 3
    else match s.readIssuer x va 1 with
    | .error (code, fa) => (s.logFault (s.partOf x) code fa).trapHere code fa 0
    | .ok (head, _, s1) =>
      let len := 32 * ((head.headD 0).toNat % 8 + 1)
      if touchesGap s1 va len then s1.trapHere 0x05 (gapAddr va) 0
      else match s1.readIssuer x va len with
      | .error (code, fa) => (s1.logFault (s1.partOf x) code fa).trapHere code fa 0
      | .ok (packet, bad, s2) =>
        match bad with
        | o :: _ => s2.trapHere 0x08 (va + o / 32 * 32) 0
        | [] =>
          let (seen, s3) := s2.takeReads
          spawnPacket (s3.learn x seen) d va packet

/-- taskend (16 R316, 17 R332). -/
def execTaskend (s : State) : Out := .next (s.endOfTask s.cur.ctx)

/-- trigger (16 R317). -/
def execTrigger (s : State) : Out :=
  .next (if s.isHeld s.cur.ctx then s.trapHeld else s.postAll s.cur.ctx 3 .trigger)

/-! ### decide (17 R334) -/

/-- Whether a save record holds a member of a slot's task. -/
def savedOf (s : State) (p slot : Nat) : Bool :=
  s.recs.saves.any fun r => match r.ctx.task with
    | some t => decide (t.part = p ∧ t.slot = slot)
    | none => false

/-- The decision has been made: it is marked in the task's held mode, where a decision governs it. -/
def markDecided (won : Bool) (m : CtxMem) : CtxMem :=
  let mark := fun (h : HeldMode) => if h.gov = .decision then { h with decided := some won } else h
  { m with held := m.held.map mark, entering := m.entering.map mark }

/-- A decision reaches the saved members of a slot's task: it applies when they resume (17 R338). -/
def decideSaved (s : State) (p slot : Nat) (won : Bool) : State :=
  { s with recs := { s.recs with saves := s.recs.saves.map fun r => match r.ctx.task with
      | some t => if t.part = p ∧ t.slot = slot then { r with ctx := { r.ctx with mem := markDecided won r.ctx.mem } } else r
      | none => r } }

/-- The task of a handle, when the decision may act on it; else a device error log entry (17 R334). -/
def decided (s : State) (p h : Nat) (act : Nat → State → State) : State :=
  let i := h % 2 ^ 20
  if s.stale p h ∨ s.packetByte p i 0 / 128 % 2 = 0 then s.log 0 0 p h else act i s

/-- The agent that wrote a parked buffer. -/
def Parked.agent (k : Parked) : Agent := ⟨k.me, k.core, k.knows⟩

/-- A parked buffer is published at its task's template scope, for the agent that wrote it. -/
def State.publishParked (s : State) (k : Parked) : State :=
  s.publishAs (Parked.agent k) k.scope k.lines false none

/-- The loser's end: its members end as by end_task, but the slot is freed; a saved member ends when it resumes, and its
slot with it (17 R334, R338). A failed slot is its owner's (16 R309). -/
def loseTask (p i : Nat) (s : State) : State :=
  if s.slotState p i = 4 then s
  else
    let ys := s.membersOf p i
    let s := match ys with
      | y :: _ => s.endPick (s.agent y) p i true
      | [] => s
    let s := (decideSaved (ys.foldl (fun (s : State) y => s.dropContext y) s) p i false).unpark p i
    if savedOf s p i then s.slotPut p i 3 1 (s.slotLive p i - ys.length) else s.dropSlot p i

/-- The winner's release: one that has not started runs unheld; a running or saved member is marked and publishes at its
next boundary; parked members publish, and the last one closes the slot (17 R334, R338). -/
def winTask (p i : Nat) (s : State) : State :=
  if s.slotState p i = 1 ∨ s.slotState p i = 2 then s.slotPut p i 64 1 (s.packetByte p i 0 % 128)
  else
    let s := decideSaved ((s.membersOf p i).foldl (fun (s : State) y => s.modMem y (markDecided true)) s) p i true
    let ks := (s.part p).parked.filter fun k => k.slot = i
    let e := s.pkg.eo
    let s := (ks.foldl State.publishParked s).unpark p i
    match ks.getLast? with
    | none => s
    | some k =>
      let g : Agent := { Parked.agent k with knows := (List.range (s.pkg.eo - e)).map (e + ·) ++ k.knows }
      if (s.membersOf p i).isEmpty && !savedOf s p i then s.closeSlot g p i k.scope else s

/-- decide (17 R333, R334): the object is updated once, at .pkg; the loser is squashed before the winner's effect. -/
def decideAt (s : State) (x w pa : Nat) : State :=
  let p := s.partOf x
  let h := fun i => s.mem.readNat (pa + 4 * i) 4
  let s := s.readHome x (bytesFrom pa 16) none
  if s.mem.get (pa + 8) = 1 then s
  else
    let s1 := s.homeUpdate x 3 [(pa + 8, (1 : BitVec 8)), (pa + 9, BitVec.ofNat 8 w)]
    decided (decided s1 p (h (1 - w)) (loseTask p)) p (h w) (winTask p)

/-- The lines that a decide of context x publishes, with their addresses: the object's, and those of the winner's parked
members, with the words that their end decrements; one that finds the decision made publishes none (17 R334). -/
def State.decideLines (s : State) (x w va pa : Nat) : List (Nat × Nat) :=
  let p := s.partOf x
  if s.mem.get (pa + 8) = 1 then []
  else
    let i := s.mem.readNat (pa + 4 * w) 4 % 2 ^ 20
    let ks := (s.part p).parked.filter fun k => k.slot = i
    (pa / 128, va) :: (ks.flatMap fun k => k.lines.map fun l => (l.line, 128 * l.vline))
      ++ if ks.isEmpty then [] else s.closingLines p i

/-- decide is posted: an event of the epoch order, which comes after what its context has posted, and is performed later while
version pressure holds for a line that it publishes (12 R265, R271, 17 R334). DEDUCED (log entry 8). -/
def decideInTurn (s : State) (w va pa : Nat) : State :=
  let x := s.cur.ctx
  s.postEvent ((s.decideLines x w va pa).map (·.1)) (.decide w va pa) (decideAt s x w pa)

def execDecide (b c : BitVec 6) (s : State) : Out :=
  let a := (s.readS b).toNat
  .next <|
    if s.isHeld s.cur.ctx then s.trapHeld
    else if a % 16 ≠ 0 then s.trapHere 0x04 a 0
    else if s.fenced s.cur.ctx then s.block 3
    else s.access .write false [(a, 16, 0)] fun ps s =>
      let pa := (ps.headD ⟨0, 0, 0, 0⟩).pa
      if !readable s a then s.trapHere 0x07 a 1
      else if s.poison.get (pa / 32) != 0 then s.trapHere 0x08 (a / 32 * 32) 0
      else decideInTurn s ((s.readS c).toNat % 2) a pa

end Sys2Proof.Machine
end

