-- ==== Sys2Proof/Machine/Wefts.lean ====
section
/-! DEFINITION. Slot C: stages of a weft, held mode, and guarded surrogates (17 R326 to R337). -/

namespace Sys2Proof.Machine

open State

/-! ### Stages (17 R325 to R328) -/

/-- v of the stage instructions: s[A][15:0], or the immediate where a is 0 (17 R328). -/
def stageValue (s : State) (a : BitVec 6) (i : BitVec 16) : Nat :=
  if a = 0 then i.toNat else (s.readS a).toNat % 2 ^ 16

/-- The weft of the issuing pick with its pick index; none outside a weft (17 R326). -/
def pickIndex (s : State) : Option Nat :=
  let v := s.ctl s.cur.ctx 0x003
  if v.getLsbD 25 then some (bits v 19 0) else none

/-- The scope of the weft that ctl.pick holds. -/
def pickScope (s : State) : Nat := weftScope ((s.ctl s.cur.ctx 0x003).getLsbD 24)

/-- The stage table of the issuing pick. -/
def stageTable (s : State) : Nat :=
  ((s.ctx s.cur.ctx).task.map fun t => t.stab).getD 0

/-- A stage entry as it stands: the pick's own pending writes first, else the home (17 R327). -/
def stageEntry (s : State) (pa : Nat) : Nat :=
  let own := s.ownWrites s.cur.ctx
  ofBytesLE ((List.range 2).map fun i => (ownByte (pa + i) own).getD (s.mem.get (pa + i)))

/-- The access to the entry of pick p, by its virtual and physical address: it waits, translates and traps as the global
accesses of slots do (08 R184, 12 R279, 22 R385 to R388; log entry 17). -/
def withEntry (s : State) (p : Nat) (k : Access) (ok : Nat → Nat → State → State) : State :=
  let va := stageTable s + 2 * p
  if s.fenced s.cur.ctx then s.block 3
  else s.access k false [(va, 2, 0)] fun ps s =>
    let pa := (ps.headD ⟨0, 0, 0, 0⟩).pa
    if s.poisonedByte (s.ownWrites s.cur.ctx) pa then s.trapHere 0x08 va (if k = .write then 1 else 0) else ok va pa s

/-- The publication at the weft scope with the new stage last (17 R328). -/
def writeStage (s : State) (va pa new : Nat) : State :=
  postPublication s s.cur.ctx (pickScope s) (linesOf .buffer va pa (bytesLE 2 new)) pa

/-- pkadv (17 R328). -/
def execPkadv (a : BitVec 6) (i : BitVec 16) (s : State) : Out :=
  .next <| match pickIndex s with
  | none => s.trapHere 0x07 0 0
  | some p =>
    if s.isHeld s.cur.ctx then s.trapHeld
    else withEntry s p .write fun va pa s => writeStage s va pa (min (stageEntry s pa + stageValue s a i) 0xFFFE)

/-- pkset: never below the current stage (17 R328). -/
def execPkset (a : BitVec 6) (i : BitVec 16) (s : State) : Out :=
  .next <| match pickIndex s with
  | none => s.trapHere 0x07 0 0
  | some p =>
    if s.isHeld s.cur.ctx then s.trapHeld
    else withEntry s p .write fun va pa s =>
      if stageValue s a i < stageEntry s pa then s.trapHere 0x10 0 (stageEntry s pa + stageValue s a i * 2 ^ 16)
      else writeStage s va pa (min (stageValue s a i) 0xFFFE)

/-- waitl: the left neighbour's stage, read at the home, an acquire at the weft scope; then a new snapshot (17 R328,
12 R270, R272). -/
def execWaitl (a : BitVec 6) (i : BitVec 16) (s : State) : Out :=
  .next <| match pickIndex s with
  | none => s.trapHere 0x07 0 0
  | some 0 => inEpochs s (s.snapshot s.cur.ctx)
  | some (p + 1) => withEntry s p .read fun _ pa s =>
      if s.mem.readNat pa 2 < stageValue s a i then s.blockTimed
      else inEpochs s ((s.readHome s.cur.ctx (bytesFrom pa 2) (some (pickScope s))).snapshot s.cur.ctx)

/-! ### Held mode (17 R329 to R332) -/

/-- Held buffers in use on a die, of 24: those of contexts and those parked (17 R330, R338). -/
def State.heldUse (s : State) (d : Nat) : Nat :=
  (s.ctxs.filter fun c => decide (dieOf (coreOf c.1) = d) && c.2.mem.held.isSome && decide (c.2.iss.phase ≠ .saved)).length
    + s.parts.foldl (fun acc p => acc + (p.2.parked.filter fun k => k.die = d).length) 0

/-- held (17 R331). -/
def execHeld (s : State) : Out :=
  let x := s.cur.ctx
  .next <|
    if s.isHeld x then s
    else if 24 ≤ s.heldUse (dieOf s.cur.core) then s.block 11
    else s.modMem x fun m => { m with held := some ⟨.held, [], none⟩ }

/-- commit: every engine of the held mode, then one publication with the held writes (17 R331). -/
def execCommit (sc : BitVec 3) (s : State) : Out :=
  let x := s.cur.ctx
  .next <|
    if 6 ≤ sc.toNat then s.trapReserved
    else match (s.ctx x).mem.held with
    | none => s
    | some h =>
      if h.gov ≠ .held then s.trapHere 0x07 0 0
      else if s.heldBusy x then s.block 4
      else
        let s := s.joinHeld x
        let lines := withHeldLines h (s.ctx x).mem.unpub
        (s.modMem x fun m => { m with unpub := [], held := some { h with lines := [] } }).post x sc.toNat lines .commit

/-- squash (17 R331). -/
def execSquash (s : State) : Out :=
  let x := s.cur.ctx
  .next <| match (s.ctx x).mem.held with
  | none => s
  | some h => if h.gov ≠ .held then s.trapHere 0x07 0 0 else s.squashHeld x

/-! ### Guarded surrogates (17 R335 to R337) -/

/-- abs(r) ≤ t on f32 patterns; a NaN fails (17 R337). -/
def guardPasses (r t : Nat) : Bool :=
  let a := match fmtF32.value r with
    | .num _ m e k => Exact.num false m e k
    | .inf _ => .inf false
    | v => v
  let b := fmtF32.value t
  !a.isNan && !b.isNan && (exactLt a b || exactEq a b)

/-- The held writes of the other members of a gang check, saved ones too, with those members out of held mode: their buffers go
with the pair (17 R337, R338; log entry 72). -/
def takeMembers (s : State) (x : Nat) (t : Task) : List LineWrite × State :=
  let ys := (s.membersOf t.part t.slot).filter (· ≠ x)
  let saved := s.recs.saves.filter fun r => r.ctx.task.any fun u => decide (u.part = t.part ∧ u.slot = t.slot)
  let lines := (ys.flatMap fun y => match heldModeOf (s.ctx y).mem with | some h => h.lines | none => [])
    ++ saved.flatMap fun r => match heldModeOf r.ctx.mem with | some h => h.lines | none => []
  (lines, (ys.foldl (fun (s : State) y => (s.joinHeld y).leaveHeld y) s).leaveSaved t.part t.slot)

/-- Whether a guard of context x has passed and waits for its publication (17 R337). -/
def State.guardWaits (s : State) (x : Nat) : Bool :=
  (s.ctx x).mem.pubs.any fun p => match p.after with | .guard _ => true | _ => false

/-- guard: it waits for the engines that the members of the check forked in held mode (17 R337). -/
def execGuard (d a : BitVec 6) (s : State) : Out :=
  let x := s.cur.ctx
  .next <| match s.checkPair x, (s.ctx x).task, (s.ctx x).mem.held with
  | some q, some t, some h =>
    if (s.membersOf t.part t.slot).any s.heldBusy || s.heldBusy x then s.block 4
    else if guardPasses (bits (s.readS a) 31 0) (bits (s.ctl x 0x028) 31 0) then
      let r := takeMembers s x t
      let lines := withHeldLines h (withHeldLines { h with lines := r.1 }
        (((s.part t.part).parked.filter fun k => k.slot = q.surrogate).flatMap (·.lines)))
      ((r.2.joinHeld x).modMem x fun m => { m with held := some { h with lines := [] } }).post x q.scope lines (.guard d.toNat)
    else (((s.joinHeld x).leaveHeld x).failPair t.part (dieOf s.cur.core) q (bits (s.ctl x 0x029) 15 0)).writeS d 1 0
  | some q, some t, none =>
    -- another member's guard has passed and waits for its publication; or the check filled its buffer
    if (s.membersOf t.part t.slot).any s.guardWaits then s.block 10
    else ((s.unpark t.part q.surrogate).dropPair t.part q).writeS d 1 0
  | _, _, _ => s.trapHere 0x07 0 0

end Sys2Proof.Machine
end

