-- ==== Sys2Proof/Machine/Symbols.lean ====
section
/-! DEFINITION. Slot C: latency symbols, symdecl, symrd and symgen (19 R342, R343, R354 to R356). -/

namespace Sys2Proof.Machine

open State

/-- The symbols that the issuing bundle sees, with their generation: those before its cut (19 R350, R355, R356). -/
def symbolsNow (s : State) : Tab Symbol × BitVec 64 :=
  match s.cur.symsAt with
  | some q => q
  | none => ((s.ctx s.cur.ctx).syms, (s.ctx s.cur.ctx).symgen)

def symbol (s : State) (k : Nat) : Symbol := (symbolsNow s).1.get resetSymbol k

/-- The record of Lk in a declaration block: none where a field is out of range (19 R343, R354). -/
def readRecord (mhz : Nat) (block : List (BitVec 8)) (k : Nat) : Option Symbol :=
  let b := fun o n => ofBytesLE ((block.drop (16 * k + o)).take n)
  if b 8 1 = 0 then some resetSymbol
  else if 7 ≤ b 8 1 ∨ 2 ≤ b 10 1 ∨ b 4 4 < b 0 4 ∨ 65535 < b 4 4 then none
  else some
    { min := b 0 4, max := b 4 4, src := b 8 1, win := b 9 1 + 1, pol := b 10 1, window := [], b := b 4 4
      db := if mhz = 0 then 0 else b 4 4 * 1000000 / mhz, floor := none, request := false }

/-- The symbols a mask names, with their records; none where one is not allowed. -/
def readRecords (mhz : Nat) (block : List (BitVec 8)) : List Nat → Option (List (Nat × Symbol))
  | [] => some []
  | k :: ks => match readRecord mhz block k, readRecords mhz block ks with
    | some y, some l => some ((k, y) :: l)
    | _, _ => none

def declare (s : State) (x : Nat) (ys : List (Nat × Symbol)) : State :=
  s.modCtx x fun c => { c with syms := ys.foldl (fun t y => t.put y.1 y.2) c.syms }

/-- Declarations take effect with the next bundle, after the cut of a marker (19 R350, R354). -/
def declareNext (s : State) (ys : List (Nat × Symbol)) : State :=
  if s.cur.live then s.modCur fun c => { c with symsAfter := ys } else declare s s.cur.ctx ys

/-- symdecl (19 R354). The next bundle waits for the reading of the records. -/
def execSymdecl (a : BitVec 6) (m : BitVec 16) (s : State) : Out :=
  let x := s.cur.ctx
  let p := (s.readS a).toNat
  .next <|
    if m = 0 then s
    else if p % 16 ≠ 0 then s.trapHere 0x04 p 0
    else if touchesGap s p 256 then s.trapHere 0x05 (gapAddr p) 0
    else if s.homeAhead [(p, 256, 0)] then s.block 3
    else match s.readIssuer x p 256 with
    | .error (code, fa) => (s.logFault (s.partOf x) code fa).trapHere code fa 0
    | .ok (block, bad, s1) =>
      match bad with
      | o :: _ => s1.trapHere 0x08 ((p + o) / 32 * 32) 0
      | [] =>
        match readRecords (s.die (dieOf s.cur.core)).mhz block ((List.range 16).filter fun k => m.getLsbD k) with
        | none => s1.trapReserved
        | some ys =>
          let (seen, s2) := s1.takeReads
          declareNext ((s2.learn x seen).launchOp fun o => { o with size := 9, va := p }) ys

/-- The word of a symrd form (19 R355). -/
def symWord (mhz : Nat) (y : Symbol) (what : Nat) : BitVec 64 :=
  BitVec.ofNat 64 <| match what with
  | 0 => y.b
  | 1 => y.min
  | 2 => y.max
  | _ => cand mhz y + y.window.length * 2 ^ 16 + (if y.request then 2 ^ 32 else 0)

/-- symrd (19 R355). -/
def execSymrd (d : BitVec 6) (k : BitVec 4) (w : BitVec 2) (s : State) : Out :=
  let y := symbol s k.toNat
  .next (s.writeS d 2 (if y.src = 0 then 0 else symWord (s.die (dieOf s.cur.core)).mhz y w.toNat))

/-- symgen (19 R356). -/
def execSymgen (d : BitVec 6) (s : State) : Out := .next (s.writeS d 2 (symbolsNow s).2)

end Sys2Proof.Machine
end

