-- ==== Sys2Proof/Machine/Energy.lean ====
section
/-! DEFINITION. Slot C: deadline, stepend and coll, with the step table, the reports and the governor's choice of an
entry (21 R362 to R373). -/

namespace Sys2Proof.Machine

/-- An entry of a frequency table (21 R365). -/
structure Entry where
  fmhz : Nat
  vmax : Nat
  vmin : Nat
  nt : Bool
deriving DecidableEq, Repr

/-- Whether the fields of an entry are in their ranges (21 R365). -/
def Entry.proper (e : Entry) : Bool := decide (250 ≤ e.fmhz ∧ e.fmhz ≤ 2000 ∧ e.vmax ≤ 950 ∧ 420 ≤ e.vmin ∧ e.vmin ≤ e.vmax)

namespace State

/-- The entry of a doubleword of a frequency table (21 R365). -/
def entryOf (w : BitVec 64) : Entry := ⟨bits w 15 0, bits w 25 16, bits w 35 26, w.getLsbD 36⟩

def entryAt (s : State) (d i : Nat) : Entry := entryOf ((s.die d).table.get 0 i)

/-- The usable entries of a die, in ascending order of frequency: those in use whose fields are in their ranges (21 R365; log
entry 3). -/
def usableEntries (s : State) (d : Nat) : List Nat := (List.range 256).filter fun i => Entry.proper (s.entryAt d i)

/-- Whether a die stands at an entry: at its index and, after a change of the table, still at its clock (01 R15). -/
def standsAt (s : State) (d i : Nat) : Bool := decide ((s.die d).entry = i ∧ (s.die d).mhz = (s.entryAt d i).fmhz)

/-- Charges an account with an energy weight on a die at its entry's voltage, or with bytes moved on a die or a stack
(21 R375): the house is account 32, the stacks are units 8 to 19. -/
def charge (s : State) (account unit weight bytes : Nat) : State :=
  let u := s.recs.usage.get (0, 0) (32 * account + unit)
  { s with recs := { s.recs with usage := s.recs.usage.put (32 * account + unit) (u.1 + weight, u.2 + bytes) } }

def chargeWeight (s : State) (account d w : Nat) : State :=
  let v := (s.entryAt d (s.die d).entry).vmax
  s.charge account d (w * v * v) 0

/-- Bytes that an engine of core n moves for an account, between the die and a stack where a physical address names one. -/
def chargeBytes (s : State) (account n bytes : Nat) (pa : Option Nat) : State :=
  let s := s.charge account (dieOf n) 0 bytes
  match pa with
  | some a => s.charge account (8 + a / 2 ^ 36 % 16) 0 bytes
  | none => s

/-- The profile a power grant in µW gives at an entry: the weight units of 4 pJ at 0.75 V in 64 cycles (21 R362). The
entry's voltage is its ceiling (log entry 18). -/
def profileOf (grant : Nat) (e : Entry) : Nat :=
  if e.vmax = 0 ∨ e.fmhz = 0 then 0 else min 16320 (grant * 64 * 750 * 750 / (4 * e.vmax * e.vmax * e.fmhz))

/-! ### Steps (21 R363, R364, R366) -/

/-- The key of a context's step: partition, slot and member. -/
def stepKey (s : State) (x : Nat) : Nat × Nat × Nat :=
  match (s.ctx x).task with
  | some t => (t.part, t.slot, s.taskMember x)
  | none => (s.partOf x, 2 ^ 20 + x, 0)

/-- The context that runs a step's task and member. -/
def stepCtx (s : State) (e : StepEntry) : Option Nat :=
  (s.ctxs.map (·.1)).find? fun x => decide ((s.ctx x).iss.phase ≠ .free) && decide (s.stepKey x = (e.part, e.slot, e.member))

/-- Cycles a step has run; those of a saved task stand with its record (21 R363). -/
def stepRun (s : State) (e : StepEntry) : Nat :=
  match s.stepCtx e with
  | some x => s.icyc x - e.icyc0
  | none =>
    match s.recs.saves.find? fun r => match r.ctx.task with
      | some t => decide (t.part = e.part ∧ t.slot = e.slot ∧ bits (r.ctx.ctl.get 0 0x001) 11 10 = e.member)
      | none => false with
    | some r => r.ctx.iss.icyc - e.icyc0
    | none => 0

/-- An open step follows its task to die d, to be tracked there when the table has room (21 R363). -/
def moveStep (s : State) (p slot member d : Nat) : State :=
  match s.findStep p slot member with
  | none => s
  | some (o, e) =>
    if o = d then s
    else
      let room := decide (((s.die d).steps.filter (·.tracked)).length < 1024)
      (s.dropStep p slot member).modDie d fun v => { v with steps := v.steps ++ [{ e with tracked := e.tracked && room }] }

/-- Predicted cycles and weight sum of a step (21 R366). -/
def predict (s : State) (e : StepEntry) : Nat × Nat :=
  match s.recs.reports.get [] e.cls with
  | [] =>
    let c := ((e.deadline.toNat - e.startTime.toNat) * 16 + 9) / 10
    let p := match s.stepCtx e with | some x => (s.core (coreOf x)).iss.profile | none => 8192
    (c, c * p / 64)
  | h => (h.foldl (fun a r => max a r.1) 0, h.foldl (fun a r => max a r.2) 0)

def remaining (s : State) (e : StepEntry) : Nat := (s.predict e).1 - s.stepRun e

/-- Whether a step is predicted to end at or before its deadline at a clock: the cycles to the deadline are rounded up, as
the prediction is (21 R366; log entry 28). -/
def onTime (s : State) (mhz : Nat) (e : StepEntry) : Bool :=
  decide (s.remaining e ≤ ((e.deadline.toNat - s.ptime.toNat) * mhz + 999) / 1000)

/-- The cores of die d whose partition has a power grant, each with the profile that an equal part of the grant gives at an
entry (21 R362; log entry 18). -/
def grantedCores (s : State) (d : Nat) (e : Entry) : List (Nat × Nat) :=
  s.pkg.grants.flatMap fun g =>
    let qs := (s.part g.1).ent.quads
    let n := 4 * ((List.range 192).filter fun q => qs.getLsbD q).length
    ((List.range 96).filter fun k => qs.getLsbD (24 * d + k / 4)).map fun k => (96 * d + k, max 64 (profileOf (g.2 / n) e))

/-- The busy cores of die d that run no open tracked step, each with its partition: the power at which they run is that of
the profile they are granted (21 R362, R366; log entry 18). -/
def plainCores (s : State) (d : Nat) : List (Nat × Nat) :=
  let on := (s.die d).steps.filterMap fun e => if e.tracked then (s.stepCtx e).map coreOf else none
  (s.ctxs.filter fun c => decide (dieOf (coreOf c.1) = d) && decide (c.2.iss.phase ≠ .free) && decide (c.2.iss.phase ≠ .saved)).foldl
    (fun acc c => if on.contains (coreOf c.1) || acc.any (fun q => decide (q.1 = coreOf c.1)) then acc
      else (coreOf c.1, s.partOf c.1) :: acc) []

/-- The predicted power in µW of a die at an entry, for the partitions `which` selects: of its open steps the declared
weights at the entry's voltage over the time of their cycles, of the busy cores beside them the profile (21 R362, R366; log
entry 18). -/
def stepPower (s : State) (d : Nat) (e : Entry) (which : Nat → Bool) : Nat :=
  let power := fun (w c : Nat) => 4 * w * e.vmax * e.vmax * e.fmhz / (750 * 750 * max c 1)
  let steps := (s.die d).steps.foldl (fun acc k =>
    if k.tracked && which k.part then acc + power (s.predict k).2 (s.predict k).1 else acc) 0
  let granted : Tab Nat := s.grantedCores d e
  (s.plainCores d).foldl (fun acc q =>
    if which q.2 then acc + power (granted.get (s.core q.1).iss.profile q.1) 64 else acc) steps

/-- Whether an entry of die d keeps the package within its cap and each partition within its grant, the other dies at
the entries planned for them, or at their own. -/
def withinCaps (s : State) (plan : Tab Nat) (d i : Nat) : Bool :=
  let e := s.entryAt d i
  let total := fun (which : Nat → Bool) => (List.range 8).foldl (fun acc k =>
    acc + s.stepPower k (if k = d then e else s.entryAt k (plan.get (s.die k).entry k)) which) 0
  (match s.pkg.cap with | some c => decide (total (fun _ => true) ≤ c) | none => true)
    && s.pkg.grants.all fun g => decide (total (fun p => decide (p = g.1)) ≤ g.2)

/-- Whether a context runs, waits, is eligible or stopped on a die. -/
def dieBusy (s : State) (d : Nat) : Bool :=
  s.ctxs.any fun c => decide (dieOf (coreOf c.1) = d) && decide (c.2.iss.phase ≠ .free) && decide (c.2.iss.phase ≠ .saved)

/-- The governor's choice for a die (21 R366); none where the table has no usable entry. -/
def chooseEntry (s : State) (plan : Tab Nat) (d : Nat) : Option Nat :=
  let us := s.usableEntries d
  let ok := us.filter (s.withinCaps plan d)
  let open_ := (s.die d).steps.filter (·.tracked)
  if open_.isEmpty then
    if s.dieBusy d then
      match ok.find? fun i => decide ((s.entryAt d i).fmhz = 1600) with
      | some i => some i
      | none => ((ok.filter fun i => decide ((s.entryAt d i).fmhz < 1600)).getLast?).orElse fun _ => us.head?
    else us.head?
  else match ok.find? fun i => open_.all (s.onTime (s.entryAt d i).fmhz) with
    | some i => some i
    | none => ok.getLast?.orElse fun _ => us.head?

/-- Whether the firmware's governor runs: not while the watchdog has expired or an update runs (21 R370). -/
def governing (s : State) : Bool := !s.pkg.watchdog && !s.pkg.updating

/-- The governor's choice for every die, each made with the choices before it: all of them together keep the caps. -/
def planEntries (s : State) : Tab Nat :=
  (List.range 8).foldl (fun (plan : Tab Nat) d =>
    if (s.die d).gated then plan
    else match s.chooseEntry plan d with
    | some i => plan.put d i
    | none => plan) []

/-- The clock changes the governor wants now come next, those that lower a clock first (21 R366; log entry 4). -/
def govern (s : State) : State :=
  if s.governing && !s.pkg.hostGovernor then
    let plan := s.planEntries
    let lower := fun d => decide ((s.entryAt d (plan.get (s.die d).entry d)).fmhz < (s.die d).mhz)
    { s with agenda := s.agenda ++ (((List.range 8).filter lower) ++ (List.range 8).filter fun d => !lower d).filterMap fun d =>
        let i := plan.get (s.die d).entry d
        if s.standsAt d i || (s.die d).gated then none else some (.clockChange d i) }
  else s

/-- The report of a step that ends: class, cycles, weight sum, duration and slack. The governor keeps that of a tracked
step for its class (21 R363, R364, R366). -/
def reportStep (s : State) (e : StepEntry) : State :=
  let cycles := s.stepRun e
  let slack : Int := (e.deadline - s.ptime).toInt
  let kept := s.recs.reports.get [] e.cls
  { s with recs := { s.recs with
      reports := if e.tracked then s.recs.reports.put e.cls (((cycles, e.weights) :: kept).take 8) else s.recs.reports
      lastReport := some (e.cls, cycles, e.weights, s.ptime.toNat - e.startTime.toNat, slack) } }

/-- Ends the open step of a key with its report, at which the governor chooses anew where the step is tracked. -/
def endStep (s : State) (k : Nat × Nat × Nat) (e : StepEntry) : State :=
  let s := (s.reportStep e).dropStep k.1 k.2.1 k.2.2
  if e.tracked then s.govern else s

/-- The weight of an issue enters the open step of its context (21 R364). -/
def addWeight (s : State) (x w : Nat) : State :=
  let k := s.stepKey x
  match s.findStep k.1 k.2.1 k.2.2 with
  | none => s
  | some (d, _) => s.modDie d fun v => { v with steps := v.steps.map fun e =>
      if e.part = k.1 ∧ e.slot = k.2.1 ∧ e.member = k.2.2 then { e with weights := e.weights + w } else e }

end State

open State

/-- deadline (21 R364): a deadline that has passed raises the light trap at once, for a tracked step. -/
def execDeadline (a : BitVec 6) (c : BitVec 16) (s : State) : Out :=
  let x := s.cur.ctx
  let k := s.stepKey x
  let s := match s.findStep k.1 k.2.1 k.2.2 with
    | some (_, e) => s.endStep k e
    | none => s
  let d := dieOf s.cur.core
  let tracked := decide (((s.die d).steps.filter (·.tracked)).length < 1024)
  let late := tracked && s.governing && decide ((s.readS a).toNat ≤ s.ptime.toNat)
  let e : StepEntry :=
    { part := k.1, slot := k.2.1, member := k.2.2, cls := c.toNat, deadline := s.readS a, startTime := s.ptime
      startCyc := s.cyc s.cur.core, icyc0 := s.icyc x, weights := 0, tracked := tracked, risk := late }
  let s := s.modDie d fun v => { v with steps := v.steps ++ [e] }
  .next (if late then s.pendLight x 1 0 else s)

/-- stepend (21 R364). -/
def execStepend (d : BitVec 6) (s : State) : Out :=
  let k := s.stepKey s.cur.ctx
  .next <| match s.findStep k.1 k.2.1 k.2.2 with
  | none => s.writeS d 1 0
  | some (_, e) => (s.writeS d 1 (e.deadline - s.ptime)).endStep k e

/-! ### Collectives (21 R373) -/

/-- A descriptor of a collective. -/
structure CollDesc where
  group : Nat
  src : Nat
  dst : Nat
  count : Nat
  op : Nat
  root : Nat
  key : Nat
deriving DecidableEq, Repr

def collDesc (bs : List (BitVec 8)) : CollDesc :=
  let f := fun o n => ofBytesLE ((bs.drop o).take n)
  ⟨f 0 8, f 8 8, f 16 8, f 24 4, f 28 1, f 29 1, f 32 8⟩

/-- Bytes a participant contributes. -/
def CollDesc.bytes (c : CollDesc) (pkg : Nat) : Nat :=
  match c.op with
  | 0 => 0
  | 4 => c.count
  | 5 => if c.root = pkg then c.count else 0
  | _ => 4 * c.count

def CollDesc.valid (c : CollDesc) (pkg : Nat) : Bool :=
  decide (c.op ≤ 5) && decide (c.group / 2 ^ pkg % 2 = 1) && decide (1 ≤ c.count ∧ c.count ≤ 2 ^ 24)

/-- coll: the descriptor and the contribution are read as the fork sees them; a poisoned descriptor is a fault of the
descriptor (08 R182, 21 R373; log entry 67). -/
def execColl (a t : BitVec 6) (s : State) : Out :=
  let x := s.cur.ctx
  let va := (s.readS a).toNat
  .next <|
    if s.isHeld x then s.trapHeld
    else if va % 64 ≠ 0 then s.trapHere 0x04 va 0
    else if inWindow va then s.trapHere 0x05 va 0
    else if s.mustWait x t.toNat true then s.blockFor (s.bindWait x t.toNat)
    else if s.forkHeld then s.block 3
    else
      let go := fun (s : State) (data : List (BitVec 8)) (bad : List Nat) (st fa : Nat) =>
        s.fork x t.toNat (.coll va) data bad st (BitVec.ofNat 64 fa) false
      match s.readIssuer x va 64 with
      | .error _ => go s [] [] 1 va
      | .ok (desc, spoilt, s1) =>
        let c := collDesc desc
        if !spoilt.isEmpty || !c.valid s.pkg.number then go s1 desc [] 1 va
        else match s1.readIssuer x c.src (c.bytes s.pkg.number) with
        | .error (_, fa) => go s1 desc [] 1 fa
        | .ok (data, bad, s2) => go s2 (desc ++ data) (bad.map (· + 64)) 0 0

end Sys2Proof.Machine
end

