-- ==== Sys2Proof/Machine/Tables.lean ====
section
/-! DEFINITION. What the bundle layer needs to know of each slot operation: registers read and written, ports, and its
place in the order of a bundle's effects (02 R38 to R50). -/

namespace Sys2Proof.Machine

open State

/-- The ports of one operation: X-store accesses, W-store accesses, the bank accessed at issue, and the bank written
back with its latency (02 R50). -/
structure Ports where
  x : Nat
  w : Nat
  bank : Option Nat
  back : Option (Nat × Nat)
deriving DecidableEq, Repr

/-- The designators of n accumulator rows of a bank: no row lies past its last, 63 (02 R49). -/
def rowsOf (bank row n : Nat) : List Nat := ((List.range n).filter fun j => decide (row + j < 64)).map fun j => accReg bank (row + j)

/-- The registers a slot operation reads (00 R8, 02 R43, R53). -/
def readsOf (rowAt : BitVec 6 → BitVec 6 → Nat) : Instr → List Nat
  | .add _ a b | .sub _ a b | .mul _ a b | .mulh _ a b | .mulhu _ a b | .divu _ a b | .remu _ a b | .and _ a b
  | .or _ a b | .xor _ a b | .shl _ a b | .shr _ a b | .sra _ a b | .min _ a b | .max _ a b | .minu _ a b
  | .maxu _ a b | .slt _ a b | .sltu _ a b | .seq _ a b | .fnsb _ a b => [sReg a.toNat, sReg b.toNat]
  | .sel _ c a b => [sReg c.toNat, sReg a.toNat, sReg b.toNat]
  | .mov _ a | .popc _ a | .clz _ a | .ctz _ a | .brev _ a | .addi _ a _ | .andi _ a _ | .ori _ a _ | .xori _ a _
  | .shli _ a _ | .shri _ a _ | .srai _ a _ | .extr _ a _ _ | .mxpushWstore _ a _ | .jmpi a _ | .rep a _
  | .yield a _ | .rettResume a | .rettSkip a | .rettEnd a | .seqld a _ _ | .seqgo a _ | .spawn _ a | .pkadv a _
  | .pkset a _ | .waitl a _ | .guard _ a | .symdecl a _ | .deadline a _ | .wrctl a _ | .coll a _ => [sReg a.toNat]
  | .movi _ _ | .vmovi _ _ _ | .bobpop _ | .mxpushStream _ _ | .mxzero _ _ _ | .mxunpin _ | .mxgang _ _ _ | .br _
  | .call _ | .trap _ | .rett | .cancel _ | .tagst _ _ | .phase _ | .fence | .slotwait _ _ | .slotpop _
  | .slotdone _ | .unsub _ _ | .seqwait | .taskend | .trigger | .held | .commit _ | .squash | .symrd _ _ _
  | .symgen _ | .stepend _ => []
  | .movk d _ => [sReg d.toNat]
  | .depo d a _ _ => [sReg d.toNat, sReg a.toNat]
  | .vadd _ _ a b k _ | .vsub _ _ a b k _ | .vmul _ _ a b k _ | .vmulh _ _ a b k _ | .vmin _ _ a b k _
  | .vmax _ _ a b k _ | .vand _ _ a b k _ | .vor _ _ a b k _ | .vxor _ _ a b k _ | .vandn _ _ a b k _
  | .vfnsb _ _ a b k | .vcmp _ _ _ a b k _ | .vsel _ _ a b k | .vperm _ _ a b k | .vfadd _ _ a b k
  | .vfsub _ _ a b k | .vfmul _ _ a b k | .vfmin _ _ a b k | .vfmax _ _ a b k | .vfcmp _ _ _ a b k
    => [vReg a.toNat, vReg b.toNat, kReg k.toNat]
  | .vabs _ _ a k | .vpopc _ _ a k | .vclz _ _ a k | .vctz _ _ a k | .vbrev _ _ a k | .vmov _ _ a k
  | .xcl _ _ a _ k | .vred _ _ a _ k _ | .vfneg _ _ a k _ | .fexp2 _ _ _ a k _ | .flog2 _ _ _ a k _
  | .frcp _ _ _ a k _ | .frsq _ _ _ a k _ | .fsqrt _ _ _ a k _ | .ftanh _ _ _ a k _ | .fcvt _ _ _ a k _
  | .fbpk _ _ _ a k _ | .fscl _ _ _ a k _ | .frnd _ _ _ a k _ => [vReg a.toNat, kReg k.toNat]
  | .vshl _ _ a b k s | .vshr _ _ a b k s | .vsra _ _ a b k s | .vrot _ _ a b k s
    => vReg a.toNat :: kReg k.toNat :: (if s = 1 then [] else [vReg b.toNat])
  | .vbcast _ _ a k => [sReg a.toNat, kReg k.toNat]
  | .vextr _ _ a _ _ => [vReg a.toNat]
  | .vfma _ d a b k => [vReg d.toNat, vReg a.toNat, vReg b.toNat, kReg k.toNat]
  | .kand _ a b | .kor _ a b | .kxor _ a b => [kReg a.toNat, kReg b.toNat]
  | .knot _ a | .kmov _ a => [kReg a.toNat]
  | .fbunpk _ _ _ a k _ => [vReg a.toNat, vReg (a.toNat + 1), kReg k.toNat]
  | .ldx _ b _ | .ldxs _ _ b _ | .ldw _ b _ | .ldg _ _ b _ | .vldg _ b _ | .ldacq _ _ b _ | .barwait b
    => [sReg b.toNat]
  | .stx v b _ | .stw v b _ | .vstg v b _ => [vReg v.toNat, sReg b.toNat]
  | .stxs _ d b _ | .stg _ d b _ | .strel _ d b _ => [sReg d.toNat, sReg b.toNat]
  | .lda _ k r i => sReg r.toNat :: rowsOf k.toNat (rowAt r i) 4
  | .sta v _ r _ => [vReg v.toNat, sReg r.toNat]
  | .vgath _ _ b i k => [sReg b.toNat, vReg i.toNat, kReg k.toNat]
  | .vscat _ v b i k => [vReg v.toNat, sReg b.toNat, vReg i.toNat, kReg k.toNat]
  | .aadd _ b v _ | .amin _ b v _ | .amax _ b v _ | .axchg _ b v _ | .afadd _ b v _ | .chunk _ b v _
    => [sReg b.toNat, sReg v.toNat]
  | .acas d b v _ => [sReg b.toNat, sReg v.toNat, sReg d.toNat]
  | .ldblk n b _ | .bufhold n b _ | .buffree n b _ => [sReg n.toNat, sReg b.toNat]
  | .scacc _ _ b g e c => vReg e.toNat :: rowsOf b.toNat (16 * g.toNat) (c.toNat + 1)
  | .mxflip => [shadowReg, activeReg]
  | .mxacc _ _ a _ _ | .mxbp _ _ _ a _ _ _ => [sReg a.toNat, activeReg]
  | .mxdrain b r a _ _ => [sReg a.toNat, accReg b.toNat r.toNat]
  | .mxhed _ _ a c => [sReg a.toNat, sReg c.toNat]
  | .ret => [sReg 62]
  | .copy d s n _ => [sReg d.toNat, sReg s.toNat, sReg n.toNat]
  | .copych h _ => [sReg h.toNat]
  | .copymc a n q _ => [sReg a.toNat, sReg n.toNat, sReg q.toNat]
  | .waitany _ m | .waitall m | .ffrdy _ m | .tagclr m => [sReg m.toNat]
  | .barinit b e => [sReg b.toNat, sReg e.toNat]
  | .bararr b n => [sReg b.toNat, sReg n.toNat]
  | .subscr a s _ => [sReg a.toNat, sReg s.toNat]
  | .gang a m _ => [sReg a.toNat, sReg m.toNat]
  | .decide b c => [sReg b.toNat, sReg c.toNat]
  | .rdctl _ n => [ctlReg n.toNat]
  | .bundleIssue _ | .yieldWake _ | .waitTimeout _ | .barrierTimeout _ | .globalLoadReturn _ _ _
  | .atomicPerformed _ _ _ | .publication _ | .forcedSnapshotBoundary _ | .copyComplete _ _ | .chainRecord _ _
  | .cancelAcknowledge _ _ | .multicastPieceLanding _ _ _ | .loadBlockFill _ _ _ | .shuttleFill _ _
  | .shuttlePull _ _ | .heddleRowArrival _ _ | .deckLoadComplete _ _ | .cardVisit _ | .cardStep _
  | .cardCopyRequest _ | .collComplete _ _ _ | .spawnComplete _ | .dispatch _ _ | .ringRefill _
  | .contextSave _ | .resumption _ _ | .streamTailRead _ | .launchPacket _ | .waitsemPacket _
  | .sigsemPacket _ | .patchPacket _ | .replayPacket _ | .fencePacket _ | .replayComplete _
  | .shootDownComplete _ | .refreshInterval _ | .perBankRefresh _ | .allBankRefresh _ | .bobbinPauseEnd _
  | .governorEpoch _ _ | .clockChange _ _ | .clockSwitchPauseEnd _ | .deadlineRisk _ _ | .ballastBundle _
  | .watchdogExpiry | .dieGate _ | .ungateComplete _ | .handoverTimeout | .ownershipLapse
  | .tracePostExpiry _ | .checkpoint _ | .fixedLatencyWriteback _ | .dump _ _ | .translationWalk _ _ _ _
  | .shootDown _ _ _ _ | .temperatureRead _ _ | .patrolScrub _ _ _ | .sliceScrub _ _ _ | .bobbinPush _
  | .bobbinHealthFailure _ | .hostEntryChoice _ _ | .columnTrimTick _ _ | .marginAlarm _ _
  | .currentLimit _ _ | .thermalTrip _ | .thermalRecovery _ | .dieUngate _ | .shrink _ _ | .grow _ _
  | .packageReset _ _ | .ownershipClaim _ _ | .ownerHandover _ _ | .handoverAcceptance _
  | .controlWindowWrite _ _ _ _ | .masterRelease _ _ | .partitionStart _ _ | .partitionStop _ _
  | .traceStart _ _ _ | .traceStop _ _ | .attestation _ | .firmwareUpdate _ _ | .hostOrPeerRequest _ _ _ _
  | .translationMemoryEdit _ _ _ _ | .currentBelowLimit _ _ => []

/-- The registers a slot operation writes with the fixed latency of each, none for an interlocked result (02 R38, R40, R49). DESIGN
CHOICE (log entry 75): for the checking scoreboard (02 R41) a selvage beat writes what its beat writes, an mxbp of a short K every
row of its plane, and an mxgang the shadow plane of the issuing core, whatever its mask. -/
def writesOf (rowAt : BitVec 6 → BitVec 6 → Nat) : Instr → List (Nat × Option Nat)
  | .add d _ _ | .sub d _ _ | .and d _ _ | .or d _ _ | .xor d _ _ | .shl d _ _ | .shr d _ _ | .sra d _ _
  | .min d _ _ | .max d _ _ | .minu d _ _ | .maxu d _ _ | .slt d _ _ | .sltu d _ _ | .seq d _ _ | .sel d _ _ _
  | .mov d _ | .popc d _ | .clz d _ | .ctz d _ | .fnsb d _ _ | .brev d _ | .addi d _ _ | .andi d _ _ | .ori d _ _
  | .xori d _ _ | .shli d _ _ | .shri d _ _ | .srai d _ _ | .movi d _ | .movk d _ | .extr d _ _ _ | .depo d _ _ _
  | .jmpi _ d => [(sReg d.toNat, some 1)]
  | .mul d _ _ | .mulh d _ _ | .mulhu d _ _ => [(sReg d.toNat, some 3)]
  | .divu d _ _ | .remu d _ _ => [(sReg d.toNat, some 24)]
  | .vadd _ d _ _ _ _ | .vsub _ d _ _ _ _ | .vmul _ d _ _ _ _ | .vmulh _ d _ _ _ _ | .vmin _ d _ _ _ _
  | .vmax _ d _ _ _ _ | .vabs _ d _ _ | .vand _ d _ _ _ _ | .vor _ d _ _ _ _ | .vxor _ d _ _ _ _
  | .vandn _ d _ _ _ _ | .vshl _ d _ _ _ _ | .vshr _ d _ _ _ _ | .vsra _ d _ _ _ _ | .vrot _ d _ _ _ _
  | .vpopc _ d _ _ | .vclz _ d _ _ | .vctz _ d _ _ | .vfnsb _ d _ _ _ | .vbrev _ d _ _ | .vsel _ d _ _ _
  | .vmov _ d _ _ | .vmovi _ d _ | .vbcast _ d _ _ | .vperm _ d _ _ _ => [(vReg d.toNat, some 2)]
  | .vcmp _ e _ _ _ _ _ => [(kReg e.toNat, some 2)]
  | .vextr _ d _ _ _ | .ffrdy d _ | .tagst d _ | .symrd d _ _ | .symgen d | .rdctl d _ => [(sReg d.toNat, some 2)]
  | .xcl _ d _ _ _ => [(vReg d.toNat, some 6)]
  | .vred t d _ _ _ _ => [(vReg d.toNat, some (if 4 ≤ t.toNat then 4 else 2))]
  | .vfadd _ d _ _ _ | .vfsub _ d _ _ _ | .vfmul _ d _ _ _ | .vfma _ d _ _ _ | .vfmin _ d _ _ _ | .vfmax _ d _ _ _
  | .vfneg _ d _ _ _ => [(vReg d.toNat, some 4)]
  | .vfcmp _ e _ _ _ _ => [(kReg e.toNat, some 4)]
  | .kand d _ _ | .kor d _ _ | .kxor d _ _ | .knot d _ | .kmov d _ => [(kReg d.toNat, some 2)]
  | .fexp2 _ _ d _ _ _ | .flog2 _ _ d _ _ _ | .frcp _ _ d _ _ _ | .frsq _ _ d _ _ _ | .fsqrt _ _ d _ _ _
  | .ftanh _ _ d _ _ _ | .fcvt _ _ d _ _ _ | .fbunpk _ _ d _ _ _ | .fscl _ _ d _ _ _ | .frnd _ _ d _ _ _
    => [(vReg d.toNat, some 8)]
  | .fbpk _ _ d _ _ _ => [(vReg d.toNat, some 8), (vReg (d.toNat + 1), some 8)]
  | .bobpop d => [(sReg d.toNat, some 8)]
  | .ldx v _ _ | .ldw v _ _ => [(vReg v.toNat, some 5)]
  | .stx _ _ _ | .stxs _ _ _ _ | .stw _ _ _ | .stg _ _ _ _ | .vstg _ _ _ | .vscat _ _ _ _ _ | .strel _ _ _ _
  | .ldblk _ _ _ | .bufhold _ _ _ | .buffree _ _ _ | .mxdrain _ _ _ _ _ | .mxhed _ _ _ _ | .mxunpin _ | .br _
  | .ret | .rep _ _ | .yield _ _ | .trap _ | .rett | .rettResume _ | .rettSkip _ | .rettEnd _ | .copy _ _ _ _
  | .copych _ _ | .copymc _ _ _ _ | .cancel _ | .waitall _ | .tagclr _ | .barinit _ _ | .bararr _ _ | .barwait _
  | .phase _ | .fence | .subscr _ _ _ | .slotpop _ | .slotdone _ | .seqld _ _ _ | .seqgo _ _ | .seqwait
  | .gang _ _ _ | .taskend | .trigger | .decide _ _ | .pkadv _ _ | .pkset _ _ | .waitl _ _ | .held | .commit _
  | .squash | .symdecl _ _ | .deadline _ _ | .coll _ _ => []
  | .ldxs _ d _ _ => [(sReg d.toNat, some 5)]
  | .lda v _ _ _ => [(vReg v.toNat, some 4)]
  | .sta _ k r i => (rowsOf k.toNat (rowAt r i) 4).map fun x => (x, some 1)
  | .ldg _ d _ _ | .ldacq _ d _ _ | .aadd d _ _ _ | .amin d _ _ _ | .amax d _ _ _ | .axchg d _ _ _ | .acas d _ _ _
  | .afadd d _ _ _ | .chunk d _ _ _ | .waitany d _ | .slotwait d _ | .unsub d _ | .spawn d _ | .guard d _
  | .stepend d => [(sReg d.toNat, none)]
  | .vldg v _ _ | .vgath _ v _ _ _ => [(vReg v.toNat, none)]
  | .scacc d r _ _ _ _ => [(accReg d.toNat r.toNat, some 12)]
  | .mxpushWstore _ _ _ | .mxpushStream _ _ | .mxgang _ _ _ => [(shadowReg, some 1)]
  | .mxflip => [(shadowReg, some 2), (activeReg, some 2)]
  | .mxacc b r _ _ _ => [(accReg b.toNat r.toNat, some 68)]
  | .mxbp b g _ _ _ _ _ => (rowsOf b.toNat (16 * g.toNat) 16).map fun x => (x, some 70)
  | .mxzero b r c => (rowsOf b.toNat r.toNat (c.toNat + 1)).map fun x => (x, some 1)
  | .call _ => [(sReg 62, some 1)]
  | .wrctl _ n => [(ctlReg n.toNat, none)]
  | .bundleIssue _ | .yieldWake _ | .waitTimeout _ | .barrierTimeout _ | .globalLoadReturn _ _ _
  | .atomicPerformed _ _ _ | .publication _ | .forcedSnapshotBoundary _ | .copyComplete _ _ | .chainRecord _ _
  | .cancelAcknowledge _ _ | .multicastPieceLanding _ _ _ | .loadBlockFill _ _ _ | .shuttleFill _ _
  | .shuttlePull _ _ | .heddleRowArrival _ _ | .deckLoadComplete _ _ | .cardVisit _ | .cardStep _
  | .cardCopyRequest _ | .collComplete _ _ _ | .spawnComplete _ | .dispatch _ _ | .ringRefill _
  | .contextSave _ | .resumption _ _ | .streamTailRead _ | .launchPacket _ | .waitsemPacket _
  | .sigsemPacket _ | .patchPacket _ | .replayPacket _ | .fencePacket _ | .replayComplete _
  | .shootDownComplete _ | .refreshInterval _ | .perBankRefresh _ | .allBankRefresh _ | .bobbinPauseEnd _
  | .governorEpoch _ _ | .clockChange _ _ | .clockSwitchPauseEnd _ | .deadlineRisk _ _ | .ballastBundle _
  | .watchdogExpiry | .dieGate _ | .ungateComplete _ | .handoverTimeout | .ownershipLapse
  | .tracePostExpiry _ | .checkpoint _ | .fixedLatencyWriteback _ | .dump _ _ | .translationWalk _ _ _ _
  | .shootDown _ _ _ _ | .temperatureRead _ _ | .patrolScrub _ _ _ | .sliceScrub _ _ _ | .bobbinPush _
  | .bobbinHealthFailure _ | .hostEntryChoice _ _ | .columnTrimTick _ _ | .marginAlarm _ _
  | .currentLimit _ _ | .thermalTrip _ | .thermalRecovery _ | .dieUngate _ | .shrink _ _ | .grow _ _
  | .packageReset _ _ | .ownershipClaim _ _ | .ownerHandover _ _ | .handoverAcceptance _
  | .controlWindowWrite _ _ _ _ | .masterRelease _ _ | .partitionStart _ _ | .partitionStop _ _
  | .traceStart _ _ _ | .traceStop _ _ | .attestation _ | .firmwareUpdate _ _ | .hostOrPeerRequest _ _ _ _
  | .translationMemoryEdit _ _ _ _ | .currentBelowLimit _ _ => []

/-- The ports a slot operation counts on (02 R50). -/
def portsOf : Instr → Ports
  | .add _ _ _ | .sub _ _ _ | .mul _ _ _ | .mulh _ _ _ | .mulhu _ _ _ | .divu _ _ _ | .remu _ _ _ | .and _ _ _
  | .or _ _ _ | .xor _ _ _ | .shl _ _ _ | .shr _ _ _ | .sra _ _ _ | .min _ _ _ | .max _ _ _ | .minu _ _ _
  | .maxu _ _ _ | .slt _ _ _ | .sltu _ _ _ | .seq _ _ _ | .sel _ _ _ _ | .mov _ _ | .popc _ _ | .clz _ _ | .ctz _ _
  | .fnsb _ _ _ | .brev _ _ | .addi _ _ _ | .andi _ _ _ | .ori _ _ _ | .xori _ _ _ | .shli _ _ _ | .shri _ _ _
  | .srai _ _ _ | .movi _ _ | .movk _ _ | .extr _ _ _ _ | .depo _ _ _ _ | .vadd _ _ _ _ _ _ | .vsub _ _ _ _ _ _
  | .vmul _ _ _ _ _ _ | .vmulh _ _ _ _ _ _ | .vmin _ _ _ _ _ _ | .vmax _ _ _ _ _ _ | .vabs _ _ _ _
  | .vand _ _ _ _ _ _ | .vor _ _ _ _ _ _ | .vxor _ _ _ _ _ _ | .vandn _ _ _ _ _ _ | .vshl _ _ _ _ _ _
  | .vshr _ _ _ _ _ _ | .vsra _ _ _ _ _ _ | .vrot _ _ _ _ _ _ | .vpopc _ _ _ _ | .vclz _ _ _ _ | .vctz _ _ _ _
  | .vfnsb _ _ _ _ _ | .vbrev _ _ _ _ | .vcmp _ _ _ _ _ _ _ | .vsel _ _ _ _ _ | .vmov _ _ _ _ | .vmovi _ _ _
  | .vbcast _ _ _ _ | .vextr _ _ _ _ _ | .vperm _ _ _ _ _ | .xcl _ _ _ _ _ | .vred _ _ _ _ _ _ | .vfadd _ _ _ _ _
  | .vfsub _ _ _ _ _ | .vfmul _ _ _ _ _ | .vfma _ _ _ _ _ | .vfmin _ _ _ _ _ | .vfmax _ _ _ _ _ | .vfneg _ _ _ _ _
  | .vfcmp _ _ _ _ _ _ | .kand _ _ _ | .kor _ _ _ | .kxor _ _ _ | .knot _ _ | .kmov _ _ | .fexp2 _ _ _ _ _ _
  | .flog2 _ _ _ _ _ _ | .frcp _ _ _ _ _ _ | .frsq _ _ _ _ _ _ | .fsqrt _ _ _ _ _ _ | .ftanh _ _ _ _ _ _
  | .fcvt _ _ _ _ _ _ | .fbpk _ _ _ _ _ _ | .fbunpk _ _ _ _ _ _ | .fscl _ _ _ _ _ _ | .frnd _ _ _ _ _ _ | .bobpop _
  | .ldg _ _ _ _ | .stg _ _ _ _ | .vldg _ _ _ | .vstg _ _ _ | .vgath _ _ _ _ _ | .vscat _ _ _ _ _ | .ldacq _ _ _ _
  | .strel _ _ _ _ | .aadd _ _ _ _ | .amin _ _ _ _ | .amax _ _ _ _ | .axchg _ _ _ _ | .acas _ _ _ _
  | .afadd _ _ _ _ | .chunk _ _ _ _ | .ldblk _ _ _ | .bufhold _ _ _ | .buffree _ _ _ | .mxpushStream _ _ | .mxflip
  | .mxhed _ _ _ _ | .mxunpin _ | .mxgang _ _ _ | .br _ | .jmpi _ _ | .call _ | .ret | .rep _ _ | .yield _ _
  | .trap _ | .rett | .rettResume _ | .rettSkip _ | .rettEnd _ | .copy _ _ _ _ | .copych _ _ | .copymc _ _ _ _
  | .cancel _ | .waitany _ _ | .waitall _ | .ffrdy _ _ | .tagclr _ | .tagst _ _ | .barinit _ _ | .bararr _ _
  | .barwait _ | .phase _ | .fence | .subscr _ _ _ | .slotwait _ _ | .slotpop _ | .slotdone _ | .unsub _ _
  | .seqld _ _ _ | .seqgo _ _ | .seqwait | .gang _ _ _ | .spawn _ _ | .taskend | .trigger | .decide _ _
  | .pkadv _ _ | .pkset _ _ | .waitl _ _ | .held | .commit _ | .squash | .guard _ _ | .symdecl _ _ | .symrd _ _ _
  | .symgen _ | .deadline _ _ | .stepend _ | .rdctl _ _ | .wrctl _ _ | .coll _ _ => ⟨0, 0, none, none⟩
  | .ldx _ _ _ | .stx _ _ _ | .ldxs _ _ _ _ | .stxs _ _ _ _ => ⟨1, 0, none, none⟩
  | .ldw _ _ _ | .stw _ _ _ | .mxpushWstore _ _ _ => ⟨0, 1, none, none⟩
  | .lda _ k _ _ | .sta _ k _ _ => ⟨0, 0, some k.toNat, none⟩
  | .scacc d _ b _ _ _ => ⟨0, 0, some b.toNat, some (d.toNat, 12)⟩
  | .mxacc b _ _ _ _ => ⟨1, 0, none, some (b.toNat, 68)⟩
  | .mxbp b _ _ _ _ _ _ => ⟨1, 0, none, some (b.toNat, 70)⟩
  | .mxdrain b _ _ _ _ => ⟨1, 0, some b.toNat, none⟩
  | .mxzero b _ _ => ⟨0, 0, some b.toNat, none⟩
  | .bundleIssue _ | .yieldWake _ | .waitTimeout _ | .barrierTimeout _ | .globalLoadReturn _ _ _
  | .atomicPerformed _ _ _ | .publication _ | .forcedSnapshotBoundary _ | .copyComplete _ _ | .chainRecord _ _
  | .cancelAcknowledge _ _ | .multicastPieceLanding _ _ _ | .loadBlockFill _ _ _ | .shuttleFill _ _
  | .shuttlePull _ _ | .heddleRowArrival _ _ | .deckLoadComplete _ _ | .cardVisit _ | .cardStep _
  | .cardCopyRequest _ | .collComplete _ _ _ | .spawnComplete _ | .dispatch _ _ | .ringRefill _
  | .contextSave _ | .resumption _ _ | .streamTailRead _ | .launchPacket _ | .waitsemPacket _
  | .sigsemPacket _ | .patchPacket _ | .replayPacket _ | .fencePacket _ | .replayComplete _
  | .shootDownComplete _ | .refreshInterval _ | .perBankRefresh _ | .allBankRefresh _ | .bobbinPauseEnd _
  | .governorEpoch _ _ | .clockChange _ _ | .clockSwitchPauseEnd _ | .deadlineRisk _ _ | .ballastBundle _
  | .watchdogExpiry | .dieGate _ | .ungateComplete _ | .handoverTimeout | .ownershipLapse
  | .tracePostExpiry _ | .checkpoint _ | .fixedLatencyWriteback _ | .dump _ _ | .translationWalk _ _ _ _
  | .shootDown _ _ _ _ | .temperatureRead _ _ | .patrolScrub _ _ _ | .sliceScrub _ _ _ | .bobbinPush _
  | .bobbinHealthFailure _ | .hostEntryChoice _ _ | .columnTrimTick _ _ | .marginAlarm _ _
  | .currentLimit _ _ | .thermalTrip _ | .thermalRecovery _ | .dieUngate _ | .shrink _ _ | .grow _ _
  | .packageReset _ _ | .ownershipClaim _ _ | .ownerHandover _ _ | .handoverAcceptance _
  | .controlWindowWrite _ _ _ _ | .masterRelease _ _ | .partitionStart _ _ | .partitionStop _ _
  | .traceStart _ _ _ | .traceStop _ _ | .attestation _ | .firmwareUpdate _ _ | .hostOrPeerRequest _ _ _ _
  | .translationMemoryEdit _ _ _ _ | .currentBelowLimit _ _ => ⟨0, 0, none, none⟩

/-- The order in which the committing slots of a bundle take effect (00 R8, 12 preface; log entry 19): 0 slots that read what earlier bundles left, 1 global stores, 2 the C slot that starts no engine. -/
def phaseOf : Instr → Nat
  | .add _ _ _ | .sub _ _ _ | .mul _ _ _ | .mulh _ _ _ | .mulhu _ _ _ | .divu _ _ _ | .remu _ _ _ | .and _ _ _
  | .or _ _ _ | .xor _ _ _ | .shl _ _ _ | .shr _ _ _ | .sra _ _ _ | .min _ _ _ | .max _ _ _ | .minu _ _ _
  | .maxu _ _ _ | .slt _ _ _ | .sltu _ _ _ | .seq _ _ _ | .sel _ _ _ _ | .mov _ _ | .popc _ _ | .clz _ _ | .ctz _ _
  | .fnsb _ _ _ | .brev _ _ | .addi _ _ _ | .andi _ _ _ | .ori _ _ _ | .xori _ _ _ | .shli _ _ _ | .shri _ _ _
  | .srai _ _ _ | .movi _ _ | .movk _ _ | .extr _ _ _ _ | .depo _ _ _ _ | .vadd _ _ _ _ _ _ | .vsub _ _ _ _ _ _
  | .vmul _ _ _ _ _ _ | .vmulh _ _ _ _ _ _ | .vmin _ _ _ _ _ _ | .vmax _ _ _ _ _ _ | .vabs _ _ _ _
  | .vand _ _ _ _ _ _ | .vor _ _ _ _ _ _ | .vxor _ _ _ _ _ _ | .vandn _ _ _ _ _ _ | .vshl _ _ _ _ _ _
  | .vshr _ _ _ _ _ _ | .vsra _ _ _ _ _ _ | .vrot _ _ _ _ _ _ | .vpopc _ _ _ _ | .vclz _ _ _ _ | .vctz _ _ _ _
  | .vfnsb _ _ _ _ _ | .vbrev _ _ _ _ | .vcmp _ _ _ _ _ _ _ | .vsel _ _ _ _ _ | .vmov _ _ _ _ | .vmovi _ _ _
  | .vbcast _ _ _ _ | .vextr _ _ _ _ _ | .vperm _ _ _ _ _ | .xcl _ _ _ _ _ | .vred _ _ _ _ _ _ | .vfadd _ _ _ _ _
  | .vfsub _ _ _ _ _ | .vfmul _ _ _ _ _ | .vfma _ _ _ _ _ | .vfmin _ _ _ _ _ | .vfmax _ _ _ _ _ | .vfneg _ _ _ _ _
  | .vfcmp _ _ _ _ _ _ | .kand _ _ _ | .kor _ _ _ | .kxor _ _ _ | .knot _ _ | .kmov _ _ | .fexp2 _ _ _ _ _ _
  | .flog2 _ _ _ _ _ _ | .frcp _ _ _ _ _ _ | .frsq _ _ _ _ _ _ | .fsqrt _ _ _ _ _ _ | .ftanh _ _ _ _ _ _
  | .fcvt _ _ _ _ _ _ | .fbpk _ _ _ _ _ _ | .fbunpk _ _ _ _ _ _ | .fscl _ _ _ _ _ _ | .frnd _ _ _ _ _ _ | .bobpop _
  | .ldx _ _ _ | .stx _ _ _ | .ldxs _ _ _ _ | .stxs _ _ _ _ | .ldw _ _ _ | .stw _ _ _ | .lda _ _ _ _ | .sta _ _ _ _
  | .ldg _ _ _ _ | .vldg _ _ _ | .vgath _ _ _ _ _ | .ldacq _ _ _ _ | .aadd _ _ _ _ | .amin _ _ _ _ | .amax _ _ _ _
  | .axchg _ _ _ _ | .acas _ _ _ _ | .afadd _ _ _ _ | .chunk _ _ _ _ | .bufhold _ _ _ | .buffree _ _ _
  | .scacc _ _ _ _ _ _ | .mxpushWstore _ _ _ | .mxpushStream _ _ | .mxflip | .mxacc _ _ _ _ _ | .mxbp _ _ _ _ _ _ _
  | .mxdrain _ _ _ _ _ | .mxzero _ _ _ | .mxhed _ _ _ _ | .mxunpin _ | .mxgang _ _ _ | .copy _ _ _ _ | .copych _ _
  | .copymc _ _ _ _ | .subscr _ _ _ | .seqld _ _ _ | .spawn _ _ | .symdecl _ _ | .coll _ _ => 0
  | .stg _ _ _ _ | .vstg _ _ _ | .vscat _ _ _ _ _ | .strel _ _ _ _ => 1
  | .ldblk _ _ _ => 0
  | .br _ | .jmpi _ _ | .call _ | .ret | .rep _ _ | .yield _ _ | .trap _ | .rett | .rettResume _ | .rettSkip _
  | .rettEnd _ | .cancel _ | .waitany _ _ | .waitall _ | .ffrdy _ _ | .tagclr _ | .tagst _ _ | .barinit _ _
  | .bararr _ _ | .barwait _ | .phase _ | .fence | .slotwait _ _ | .slotpop _ | .slotdone _ | .unsub _ _
  | .seqgo _ _ | .seqwait | .gang _ _ _ | .taskend | .trigger | .decide _ _ | .pkadv _ _ | .pkset _ _ | .waitl _ _
  | .held | .commit _ | .squash | .guard _ _ | .symrd _ _ _ | .symgen _ | .deadline _ _ | .stepend _ | .rdctl _ _
  | .wrctl _ _ => 2
  | .bundleIssue _ | .yieldWake _ | .waitTimeout _ | .barrierTimeout _ | .globalLoadReturn _ _ _
  | .atomicPerformed _ _ _ | .publication _ | .forcedSnapshotBoundary _ | .copyComplete _ _ | .chainRecord _ _
  | .cancelAcknowledge _ _ | .multicastPieceLanding _ _ _ | .loadBlockFill _ _ _ | .shuttleFill _ _
  | .shuttlePull _ _ | .heddleRowArrival _ _ | .deckLoadComplete _ _ | .cardVisit _ | .cardStep _
  | .cardCopyRequest _ | .collComplete _ _ _ | .spawnComplete _ | .dispatch _ _ | .ringRefill _
  | .contextSave _ | .resumption _ _ | .streamTailRead _ | .launchPacket _ | .waitsemPacket _
  | .sigsemPacket _ | .patchPacket _ | .replayPacket _ | .fencePacket _ | .replayComplete _
  | .shootDownComplete _ | .refreshInterval _ | .perBankRefresh _ | .allBankRefresh _ | .bobbinPauseEnd _
  | .governorEpoch _ _ | .clockChange _ _ | .clockSwitchPauseEnd _ | .deadlineRisk _ _ | .ballastBundle _
  | .watchdogExpiry | .dieGate _ | .ungateComplete _ | .handoverTimeout | .ownershipLapse
  | .tracePostExpiry _ | .checkpoint _ | .fixedLatencyWriteback _ | .dump _ _ | .translationWalk _ _ _ _
  | .shootDown _ _ _ _ | .temperatureRead _ _ | .patrolScrub _ _ _ | .sliceScrub _ _ _ | .bobbinPush _
  | .bobbinHealthFailure _ | .hostEntryChoice _ _ | .columnTrimTick _ _ | .marginAlarm _ _
  | .currentLimit _ _ | .thermalTrip _ | .thermalRecovery _ | .dieUngate _ | .shrink _ _ | .grow _ _
  | .packageReset _ _ | .ownershipClaim _ _ | .ownerHandover _ _ | .handoverAcceptance _
  | .controlWindowWrite _ _ _ _ | .masterRelease _ _ | .partitionStart _ _ | .partitionStop _ _
  | .traceStart _ _ _ | .traceStop _ _ | .attestation _ | .firmwareUpdate _ _ | .hostOrPeerRequest _ _ _ _
  | .translationMemoryEdit _ _ _ _ | .currentBelowLimit _ _ => 2

end Sys2Proof.Machine
end

