-- ==== Sys2Proof/Machine/Slots.lean ====
section
/-! DEFINITION. The meaning of the operation that stands in a slot of a bundle: the same meanings `exec` gives them. -/

namespace Sys2Proof.Machine

/-- The effect of one slot operation of the issuing bundle (02 R53, step 5). An event stands in no slot. -/
def slotMeaning (i : Instr) (s : State) : Out :=
  match i with
  | .add a b c => execAdd a b c s
  | .sub a b c => execSub a b c s
  | .mul a b c => execMul a b c s
  | .mulh a b c => execMulh a b c s
  | .mulhu a b c => execMulhu a b c s
  | .divu a b c => execDivu a b c s
  | .remu a b c => execRemu a b c s
  | .and a b c => execAnd a b c s
  | .or a b c => execOr a b c s
  | .xor a b c => execXor a b c s
  | .shl a b c => execShl a b c s
  | .shr a b c => execShr a b c s
  | .sra a b c => execSra a b c s
  | .min a b c => execMin a b c s
  | .max a b c => execMax a b c s
  | .minu a b c => execMinu a b c s
  | .maxu a b c => execMaxu a b c s
  | .slt a b c => execSlt a b c s
  | .sltu a b c => execSltu a b c s
  | .seq a b c => execSeq a b c s
  | .sel a b c d => execSel a b c d s
  | .mov a b => execMov a b s
  | .popc a b => execPopc a b s
  | .clz a b => execClz a b s
  | .ctz a b => execCtz a b s
  | .fnsb a b c => execFnsb a b c s
  | .brev a b => execBrev a b s
  | .addi a b c => execAddi a b c s
  | .andi a b c => execAndi a b c s
  | .ori a b c => execOri a b c s
  | .xori a b c => execXori a b c s
  | .shli a b c => execShli a b c s
  | .shri a b c => execShri a b c s
  | .srai a b c => execSrai a b c s
  | .movi a b => execMovi a b s
  | .movk a b => execMovk a b s
  | .extr a b c d => execExtr a b c d s
  | .depo a b c d => execDepo a b c d s
  | .vadd a b c d e f => execVadd a b c d e f s
  | .vsub a b c d e f => execVsub a b c d e f s
  | .vmul a b c d e f => execVmul a b c d e f s
  | .vmulh a b c d e f => execVmulh a b c d e f s
  | .vmin a b c d e f => execVmin a b c d e f s
  | .vmax a b c d e f => execVmax a b c d e f s
  | .vabs a b c d => execVabs a b c d s
  | .vand a b c d e f => execVand a b c d e f s
  | .vor a b c d e f => execVor a b c d e f s
  | .vxor a b c d e f => execVxor a b c d e f s
  | .vandn a b c d e f => execVandn a b c d e f s
  | .vshl a b c d e f => execVshl a b c d e f s
  | .vshr a b c d e f => execVshr a b c d e f s
  | .vsra a b c d e f => execVsra a b c d e f s
  | .vrot a b c d e f => execVrot a b c d e f s
  | .vpopc a b c d => execVpopc a b c d s
  | .vclz a b c d => execVclz a b c d s
  | .vctz a b c d => execVctz a b c d s
  | .vfnsb a b c d e => execVfnsb a b c d e s
  | .vbrev a b c d => execVbrev a b c d s
  | .vcmp a b c d e f g => execVcmp a b c d e f g s
  | .vsel a b c d e => execVsel a b c d e s
  | .vmov a b c d => execVmov a b c d s
  | .vmovi a b c => execVmovi a b c s
  | .vbcast a b c d => execVbcast a b c d s
  | .vextr a b c d e => execVextr a b c d e s
  | .vperm a b c d e => execVperm a b c d e s
  | .xcl a b c d e => execXcl a b c d e s
  | .vred a b c d e f => execVred a b c d e f s
  | .vfadd a b c d e => execVfadd a b c d e s
  | .vfsub a b c d e => execVfsub a b c d e s
  | .vfmul a b c d e => execVfmul a b c d e s
  | .vfma a b c d e => execVfma a b c d e s
  | .vfmin a b c d e => execVfmin a b c d e s
  | .vfmax a b c d e => execVfmax a b c d e s
  | .vfneg a b c d e => execVfneg a b c d e s
  | .vfcmp a b c d e f => execVfcmp a b c d e f s
  | .kand a b c => execKand a b c s
  | .kor a b c => execKor a b c s
  | .kxor a b c => execKxor a b c s
  | .knot a b => execKnot a b s
  | .kmov a b => execKmov a b s
  | .fexp2 a b c d e f => execFexp2 a b c d e f s
  | .flog2 a b c d e f => execFlog2 a b c d e f s
  | .frcp a b c d e f => execFrcp a b c d e f s
  | .frsq a b c d e f => execFrsq a b c d e f s
  | .fsqrt a b c d e f => execFsqrt a b c d e f s
  | .ftanh a b c d e f => execFtanh a b c d e f s
  | .fcvt a b c d e f => execFcvt a b c d e f s
  | .fbpk a b c d e f => execFbpk a b c d e f s
  | .fbunpk a b c d e f => execFbunpk a b c d e f s
  | .fscl a b c d e f => execFscl a b c d e f s
  | .frnd a b c d e f => execFrnd a b c d e f s
  | .bobpop a => execBobpop a s
  | .ldx a b c => execLdx a b c s
  | .stx a b c => execStx a b c s
  | .ldxs a b c d => execLdxs a b c d s
  | .stxs a b c d => execStxs a b c d s
  | .ldw a b c => execLdw a b c s
  | .stw a b c => execStw a b c s
  | .lda a b c d => execLda a b c d s
  | .sta a b c d => execSta a b c d s
  | .ldg a b c d => execLdg a b c d s
  | .stg a b c d => execStg a b c d s
  | .vldg a b c => execVldg a b c s
  | .vstg a b c => execVstg a b c s
  | .vgath a b c d e => execVgath a b c d e s
  | .vscat a b c d e => execVscat a b c d e s
  | .ldacq a b c d => execLdacq a b c d s
  | .strel a b c d => execStrel a b c d s
  | .aadd a b c d => execAadd a b c d s
  | .amin a b c d => execAmin a b c d s
  | .amax a b c d => execAmax a b c d s
  | .axchg a b c d => execAxchg a b c d s
  | .acas a b c d => execAcas a b c d s
  | .afadd a b c d => execAfadd a b c d s
  | .chunk a b c d => execChunk a b c d s
  | .ldblk a b c => execLdblk a b c s
  | .bufhold a b c => execBufhold a b c s
  | .buffree a b c => execBuffree a b c s
  | .scacc a b c d e f => execScacc a b c d e f s
  | .mxpushWstore a b c => execMxpushWstore a b c s
  | .mxpushStream a b => execMxpushStream a b s
  | .mxflip => execMxflip s
  | .mxacc a b c d e => execMxacc a b c d e s
  | .mxbp a b c d e f g => execMxbp a b c d e f g s
  | .mxdrain a b c d e => execMxdrain a b c d e s
  | .mxzero a b c => execMxzero a b c s
  | .mxhed a b c d => execMxhed a b c d s
  | .mxunpin a => execMxunpin a s
  | .mxgang a b c => execMxgang a b c s
  | .br a => execBr a s
  | .jmpi a b => execJmpi a b s
  | .call a => execCall a s
  | .ret => execRet s
  | .rep a b => execRep a b s
  | .yield a b => execYield a b s
  | .trap a => execTrap a s
  | .rett => execRett s
  | .rettResume a => execRettResume a s
  | .rettSkip a => execRettSkip a s
  | .rettEnd a => execRettEnd a s
  | .copy a b c d => execCopy a b c d s
  | .copych a b => execCopych a b s
  | .copymc a b c d => execCopymc a b c d s
  | .cancel a => execCancel a s
  | .waitany a b => execWaitany a b s
  | .waitall a => execWaitall a s
  | .ffrdy a b => execFfrdy a b s
  | .tagclr a => execTagclr a s
  | .tagst a b => execTagst a b s
  | .barinit a b => execBarinit a b s
  | .bararr a b => execBararr a b s
  | .barwait a => execBarwait a s
  | .phase a => execPhase a s
  | .fence => execFence s
  | .subscr a b c => execSubscr a b c s
  | .slotwait a b => execSlotwait a b s
  | .slotpop a => execSlotpop a s
  | .slotdone a => execSlotdone a s
  | .unsub a b => execUnsub a b s
  | .seqld a b c => execSeqld a b c s
  | .seqgo a b => execSeqgo a b s
  | .seqwait => execSeqwait s
  | .gang a b c => execGang a b c s
  | .spawn a b => execSpawn a b s
  | .taskend => execTaskend s
  | .trigger => execTrigger s
  | .decide a b => execDecide a b s
  | .pkadv a b => execPkadv a b s
  | .pkset a b => execPkset a b s
  | .waitl a b => execWaitl a b s
  | .held => execHeld s
  | .commit a => execCommit a s
  | .squash => execSquash s
  | .guard a b => execGuard a b s
  | .symdecl a b => execSymdecl a b s
  | .symrd a b c => execSymrd a b c s
  | .symgen a => execSymgen a s
  | .deadline a b => execDeadline a b s
  | .stepend a => execStepend a s
  | .rdctl a b => execRdctl a b s
  | .wrctl a b => execWrctl a b s
  | .coll a b => execColl a b s
  | .bundleIssue _ | .yieldWake _ | .waitTimeout _ | .barrierTimeout _ | .globalLoadReturn _ _ _
  | .atomicPerformed _ _ _ | .publication _ | .forcedSnapshotBoundary _ | .copyComplete _ _ | .chainRecord _ _
  | .cancelAcknowledge _ _ | .multicastPieceLanding _ _ _ | .loadBlockFill _ _ _ | .shuttleFill _ _
  | .shuttlePull _ _ | .heddleRowArrival _ _ | .deckLoadComplete _ _ | .cardVisit _ | .cardStep _
  | .cardCopyRequest _ | .collComplete _ _ _ | .spawnComplete _ | .dispatch _ _ | .ringRefill _ | .contextSave _
  | .resumption _ _ | .streamTailRead _ | .launchPacket _ | .waitsemPacket _ | .sigsemPacket _ | .patchPacket _
  | .replayPacket _ | .fencePacket _ | .replayComplete _ | .shootDownComplete _ | .refreshInterval _
  | .perBankRefresh _ | .allBankRefresh _ | .bobbinPauseEnd _ | .governorEpoch _ _ | .clockChange _ _
  | .clockSwitchPauseEnd _ | .deadlineRisk _ _ | .ballastBundle _ | .watchdogExpiry | .dieGate _
  | .ungateComplete _ | .handoverTimeout | .ownershipLapse | .tracePostExpiry _ | .checkpoint _
  | .fixedLatencyWriteback _ | .dump _ _ | .translationWalk _ _ _ _ | .shootDown _ _ _ _ | .temperatureRead _ _
  | .patrolScrub _ _ _ | .sliceScrub _ _ _ | .bobbinPush _ | .bobbinHealthFailure _ | .hostEntryChoice _ _
  | .columnTrimTick _ _ | .marginAlarm _ _ | .currentLimit _ _ | .thermalTrip _ | .thermalRecovery _ | .dieUngate _
  | .shrink _ _ | .grow _ _ | .packageReset _ _ | .ownershipClaim _ _ | .ownerHandover _ _
  | .handoverAcceptance _ | .controlWindowWrite _ _ _ _ | .masterRelease _ _ | .partitionStart _ _
  | .partitionStop _ _ | .traceStart _ _ _ | .traceStop _ _ | .attestation _ | .firmwareUpdate _ _
  | .hostOrPeerRequest _ _ _ _ | .translationMemoryEdit _ _ _ _ | .currentBelowLimit _ _ => .next s

/-- The state after one slot operation. -/
def runSlot (i : Instr) (s : State) : State :=
  match slotMeaning i s with
  | .next s' => s'
  | _ => s

end Sys2Proof.Machine
end

