-- ==== Sys2Proof/Machine/Bundle.lean ====
section
/-! DEFINITION. A bundle's issue: fetch, legality, tree tests, the checking scoreboard, the committing slots, and what
follows (02 R25 to R54, 04 R86 to R98, 14 R284 to R294, 19 R350, 21 R359, 23 R395 to R401). -/

namespace Sys2Proof.Machine

/-- What an attempt to issue comes to: the context's own stall, a wait that gives up the issue unit with the stall cause of its
cycle, a hold of the whole core, a stop in place of the issue, a stop at a breakpoint of the issue, or the issue. -/
inductive Attempt where
  | stall (cause : Nat)
  | wait (w : WaitFor) (cause : Nat)
  | hold (cause : Nat)
  | moved (s : State)
  | broke (s : State)
  | issued (s : State)
deriving DecidableEq, Repr

/-- An issue about to happen: its bundle, leaf and executing slots, the operand latch, whether it is a full issue, its
draft time, the continuation without a transfer by slot C, and what an interrupted issue left. -/
structure Plan where
  bundle : Bundle
  leaf : Nat
  on : List Nat
  annulled : BitVec 10
  latch : List Latched
  full : Bool
  dt : Nat
  next : BitVec 58
  rep : Option Nat
  repSet : Option Nat
  jumped : Bool
deriving DecidableEq, Repr

namespace State

/-! ### Fetch and tests (02 R53, R54, 04 R94 to R96) -/

/-- The operation decoded in slot i, when the slot holds an assigned one. -/
def opAt (b : Bundle) (i : Nat) : Option Instr :=
  match b.slots.getD i .nop with
  | .op ins => some ins
  | _ => none

/-- What the fetch of the next bundle waits for: an access of an earlier bundle, a shoot-down, its walk (02 R37, 12 R279,
22 R386, R388). -/
def fetchHold (s : State) (x : Nat) : Option WaitFor :=
  let va := 64 * (s.ctx x).pc.toNat
  let p := s.partOf x
  if s.homeMeets x va 64 then some ⟨3, 0, 0, none⟩
  else if s.shooting p va 64 then some (s.shotWait p [(va, 64, 0)])
  else if s.walkHeld (coreOf x) p va .fetch then some ⟨3, 0, 0, none⟩
  else none

/-- The sixteen words at the context's PC, as a plain read returns them (02 R54), or the trap of the fetch; it takes no time but
that of its waits (02 R37). -/
def fetchWords (s : State) (x : Nat) : Except Trap (List Nat × State) :=
  let va := 64 * (s.ctx x).pc.toNat
  match s.translate (coreOf x) (s.partOf x) va .fetch with
  | .error code => .error ⟨code, 15, BitVec.ofNat 64 va, 0, .bundle⟩
  | .ok (pa, s1) =>
    if (s.denied (s.partOf x) pa 64).isSome then .error ⟨0x07, 15, BitVec.ofNat 64 va, 0, .bundle⟩
    else
    let s1 := s1.forgetWalks.touchL2 (pa / 128) false
    .ok ((List.range 16).map fun i => ofBytesLE ((List.range 4).map fun j => s1.loadByte x (pa + 4 * i + j)), s1)

/-- The tests a bundle's shape uses. -/
def usedTests (b : Bundle) : List TreeTest :=
  match b.kind with
  | .tree => b.tests.take (shapeTests b.shape)
  | _ => []

/-- The leaf a bundle ends at; none for a reserved relation (02 R31, 04 R95). -/
def treeLeaf (s : State) (x : Nat) (b : Bundle) : Option Nat :=
  match b.kind with
  | .tree =>
    let ts := (usedTests b).map fun t => testHolds t.rel.toNat (s.regS x t.reg.toNat)
    if ts.any Option.isNone then none
    else
      let v := fun i => ((ts.getD i none).getD false)
      some (leafOf b.shape (v 0) (v 1) (v 2) (v 3))
  | _ => some 0

/-- The offset of a leaf, in bundles (02 R32). -/
def leafOffset (b : Bundle) (leaf : Nat) : Int :=
  let w := if leaf ≤ 2 then b.b0 else b.b1
  sextN (if leaf % 2 = 1 then w % 2 ^ 16 else w / 2 ^ 16 % 2 ^ 16) 16

/-- The bundle after this one where slot C transfers nothing (04 R96). -/
def leafNext (s : State) (x : Nat) (b : Bundle) (leaf : Nat) : BitVec 58 :=
  let pc := (s.ctx x).pc
  if leaf = 0 then pc + 1 else pc + (ofInt (leafOffset b leaf)).setWidth 58

/-- Whether a slot's path mask names the leaf. -/
def onPath (b : Bundle) (leaf i : Nat) : Bool := decide ((b.path.getD i 0) / 2 ^ leaf % 2 = 1)

/-- A mask of slots. -/
def slotMask (is : List Nat) : BitVec 10 := is.foldl (fun m i => m ||| (1#10 <<< i)) 0

def annulledOf (b : Bundle) (leaf : Nat) : BitVec 10 :=
  slotMask ((List.range 10).filter fun i => !onPath b leaf i)

/-- The slots that commit: occupied, on the path, not skipped (02 R31, 14 R291). -/
def committing (b : Bundle) (leaf : Nat) (skip : BitVec 10) : List Nat :=
  (List.range 10).filter fun i => b.slots.getD i .nop != .nop && onPath b leaf i && !skip.getLsbD i

/-! ### Interlocks (02 R40, 04 R90) -/

/-- The first of some designators with a pending interlocked write. -/
def pendingReg (s : State) (x : Nat) (regs : List Nat) : Option Nat :=
  regs.find? fun r => decide (r ≠ 0) && (s.ctx x).mem.ops.any fun o => decide (o.dest = r)

/-- The registers a slot operation reads and writes. -/
def readsAt (s : State) (b : Bundle) (i : Nat) : List Nat :=
  match opAt b i with
  | some ins => readsOf (accRowOf s) ins
  | none => []

def writesAt (s : State) (b : Bundle) (i : Nat) : List (Nat × Option Nat) :=
  match opAt b i with
  | some ins => (writesOf (accRowOf s) ins).filter fun w => decide (w.1 ≠ 0)
  | none => []

def portsAt (b : Bundle) (i : Nat) : Ports :=
  match opAt b i with
  | some ins => portsOf ins
  | none => ⟨0, 0, none, none⟩

/-- The wait for a pending interlocked write that the slots read or write. -/
def interlock (s : State) (x : Nat) (b : Bundle) (on : List Nat) (reads : Bool) : Option WaitFor :=
  (s.pendingReg x (on.flatMap fun i =>
    (if reads then s.readsAt b i else []) ++ (s.writesAt b i).map (·.1))).map fun r => ⟨3, 0, BitVec.ofNat 64 r, none⟩

/-! ### Legality and the scoreboard (02 R41, R49 to R52) -/

/-- The mask of offending slots; 0 where the bundle is legal. Two writebacks that meet offend nothing: DEDUCED (log entry
20). No operation names a literal word, so the fourth cause of 02 R49 never holds. DEDUCED (log entry 42): scheduled bank
writebacks count neither for nor from the bundles of a light trap's handler, whose draft time stands still (02 R49 to R51). -/
def illegalMask (s : State) (x : Nat) (b : Bundle) (dt : Nat) : Nat :=
  match b.kind with
  | .reserved => 0xFFF
  | _ =>
    let is := (List.range 10).filter fun i => (opAt b i).isSome
    let regs := fun i => (s.writesAt b i).map (·.1)
    let two := is.filter fun i => is.any fun j => decide (i ≠ j) && (regs i).any fun r => (regs j).contains r
    let xs := is.filter fun i => decide (0 < (portsAt b i).x)
    let ws := is.filter fun i => decide (0 < (portsAt b i).w)
    let banks := is.filter fun i => (portsAt b i).bank.isSome &&
      is.any fun j => decide (i ≠ j ∧ (portsAt b i).bank = (portsAt b j).bank)
    let sched := if s.inHandler x then [] else (s.ctx x).iss.backs
    let meets := is.filter fun i =>
      match (portsAt b i).bank with | some k => sched.contains ⟨k, dt⟩ | none => false
    (slotMask (two ++ (if 2 < xs.length then xs else []) ++ (if 1 < ws.length then ws else []) ++ banks ++ meets)).toNat

/-- A read too early, or a write that would land before an earlier one, in draft time (02 R41). -/
def shortRead (board : List DraftWrite) (dt r : Nat) : Bool :=
  decide (r ≠ 0) && board.any fun e => decide (e.reg = r ∧ dt < e.lands)

def shortWrite (board : List DraftWrite) (dt : Nat) (w : Nat × Option Nat) : Bool :=
  match w.2 with
  | some l => board.any fun e => decide (e.reg = w.1 ∧ dt + l ≤ e.lands)
  | none => false

/-- The slot and designator of a stall shortfall (02 R41); slot 15 is a test. DESIGN CHOICE (log entry 66): where the slot
offends with several registers, the record holds its first read that does, else its first write. -/
def shortfall (s : State) (x : Nat) (b : Bundle) (on : List Nat) (dt : Nat) : Option (Nat × Nat) :=
  let bd := (s.ctx x).iss.board
  let here := on.findSome? fun i =>
    match (s.readsAt b i).find? (shortRead bd dt) with
    | some r => some (i, r)
    | none => ((s.writesAt b i).find? (shortWrite bd dt)).map fun w => (i, w.1)
  match here with
  | some p => some p
  | none => ((usedTests b).find? fun t => shortRead bd dt (sReg t.reg.toNat)).map fun t => (15, sReg t.reg.toNat)

/-! ### Running the slots (02 R53, step 5) -/

/-- Sets the issue record for a bundle of context x. -/
def startIssue (s : State) (x : Nat) (b : Bundle) : State :=
  { s with cur :=
      { resetIssue with
        core := coreOf x, ctx := x, kind := b.kind, pc := (s.ctx x).pc, live := true
        posted := (s.ctx x).mem.pubs.length } }

/-- One slot; nothing runs after the task has ended. -/
def runAt (b : Bundle) (latch : List Latched) (s : State) (i : Nat) : State :=
  if s.cur.ended then s
  else
    let s := s.modCur fun c => { c with
      slot := i, word := wordOf b.words (4 + i), lend := b.lend.getD i 0
      latch := ((latch.find? fun l => l.slot = i).map (·.regs)).getD [] }
    match b.slots.getD i .nop with
    | .nop => s
    | .bad => s.trapReserved
    | .op ins => runSlot ins s

/-- The phase of a slot's operation. -/
def phaseAt (b : Bundle) (i : Nat) : Nat :=
  match opAt b i with
  | some ins => phaseOf ins
  | none => 0

/-- The load-blocks that the slots forked begin: no slot of their bundle has seen them (00 R8). Those of a task that has
ended in their bundle do not. -/
def startForks (s : State) : State :=
  if s.cur.forks.isEmpty || s.cur.ended then s
  else s.cur.forks.foldl (fun (s : State) e => (s.releaseBlock e.ctx e.tag).startEngine e) (s.modCur fun c => { c with forks := [] })

/-- The executing slots in the order of their effects (log entry 19). -/
def runSlots (s : State) (b : Bundle) (latch : List Latched) (on : List Nat) : State :=
  startForks (([0, 1, 2].flatMap fun p => on.filter fun i => phaseAt b i = p).foldl (runAt b latch) s)

/-- The stored control registers that slot operations read at issue: ctl.frm, ctl.xcs, ctl.selv and ctl.mcfg. -/
def latchedCtl : List Nat := [0x018, 0x020, 0x021, 0x022]

/-- The operand latch of an undone slot: what it read at the issue, registers and control registers (14 R286). A vector register
beyond the grant is not read (06 R130). -/
def latchSlot (s : State) (x : Nat) (b : Bundle) (old : List Latched) (i : Nat) : Latched :=
  match old.find? fun l => l.slot = i with
  | some l => l
  | none => ⟨i, latchedCtl.map (fun k => (ctlReg k, (s.ctl x k).setWidth 8192)) ++ (s.readsAt b i).filterMap fun r =>
      if r < 0x1000 then some (r, (s.regS x r).setWidth 8192)
      else if r < 0x2000 then if r - 0x1000 < s.grant x then some (r, s.regV x (r - 0x1000)) else none
      else if r < 0x3000 then some (r, (s.regK x (r - 0x2000)).setWidth 8192)
      else none⟩

/-! ### Holds of the core (21 R359, R360, R366, 02 R51) -/

/-- Whether a bundle of weight w would exceed the profile (21 R359). -/
def damped (s : State) (n w : Nat) : Bool :=
  let now := s.cyc n
  let recent := (s.core n).iss.weights.filter fun e => decide (now < e.1 + 64 ∧ e.1 < now)
  !recent.isEmpty && decide ((s.core n).iss.profile < recent.foldl (fun a e => a + e.2) 0 + w)

/-- Whether a bank access of the slots meets a writeback in actual time (02 R51; log entry 20). -/
def portHeld (s : State) (n : Nat) (b : Bundle) (on : List Nat) : Bool :=
  let now := s.cyc n
  let backs := (s.core n).iss.backs
  on.any fun i =>
    (match (portsAt b i).bank with | some k => backs.contains (now, k) | none => false)
      || (match (portsAt b i).back with | some (k, l) => backs.contains (now + l, k) | none => false)

/-- The column of a core in its die (01 R15). -/
def columnOf (n : Nat) : Nat := n % 96 / 8

/-- Whether a clock switch pauses core n (21 R366). -/
def paused (s : State) (n : Nat) : Bool :=
  match (s.die (dieOf n)).pauseEnd with
  | some e => decide (s.cyc n < e)
  | none => false

/-- The stall cause that holds the whole core, if any. -/
def holdCause (s : State) (n w : Nat) (b : Bundle) (on : List Nat) : Option Nat :=
  if s.damped n w then some 5
  else if (s.die (dieOf n)).limited.get false (columnOf n) then some 6
  else if s.portHeld n b on then some 8
  else if s.paused n then some 15
  else none

/-! ### Cuts and drift (19 R350, 23 R395, R396) -/

/-- What a cut at actual cycle u does to a symbol. With a hysteresis of 0 the comparison of 19 R348 holds always, so
the request is set again at once. DEDUCED (log entry 7). -/
def cutSymbol (mhz hys u : Nat) (y : Symbol) : Symbol :=
  let y := reconsider mhz hys y
  if y.request then
    reconsider mhz hys
      { y with floor := some (max (y.floor.getD 0) (u + y.b)), db := candSample y, b := cand mhz y, request := false }
  else y

/-- Whether a cut now changes some bound of context x. -/
def cutMoves (s : State) (x : Nat) : Bool :=
  let mhz := (s.die (dieOf (coreOf x))).mhz
  let hys := bits (s.ctl x 0x030) 15 0
  (s.ctx x).syms.any fun y => (reconsider mhz hys y.2).request && decide (cand mhz y.2 ≠ y.2.b)

/-- The drift at a marker with expected cycle b1 (23 R395). -/
def driftOf (s : State) (x b1 : Nat) : Int := sextN (lowBits ((s.elapsed x : Int) - b1) 32) 32

/-- What a cut does before the marker's slots execute: the drift record, arming, and the re-time event. -/
def cutBefore (s : State) (x b1 : Nat) : State :=
  let d := s.driftOf x b1
  let s := s.sampleIf (s.partOf x) 1 x (s.ctx x).pc.toNat (lowBits d 32)
  let v := s.ctl x 0x032
  let thr := bits v 31 0
  let s :=
    if thr ≠ 0 ∧ thr < d.natAbs then
      let s := if v.getLsbD 32 then s else s.traceTrigger (coreOf x) 2
      s.setCtl x 0x032 (v ||| 0x100000000)
    else if d.natAbs ≤ thr then s.setCtl x 0x032 (v &&& 0xFFFFFFFF)
    else s
  if s.cutMoves x ∧ (s.ctl x 0x031).getLsbD 0 then s.pendLight x 0 ((s.ctx x).symgen + 1) else s

/-- The new bindings, which the bundles after the marker use. -/
def cutAfter (s : State) (x : Nat) : State :=
  let mhz := (s.die (dieOf (coreOf x))).mhz
  let u := s.cyc (coreOf x)
  let moved := s.cutMoves x
  s.modCtx x fun c => { c with
    syms := c.syms.map fun y => (y.1, cutSymbol mhz (bits (s.ctl x 0x030) 15 0) u y.2)
    symgen := if moved then c.symgen + 1 else c.symgen }

/-! ### Breakpoints (23 R400, R401) -/

/-- The lowest-numbered breakpoint register that matches, with its slot. -/
def breakpoint (s : State) (x : Nat) (on : List Nat) : Option (Nat × Nat) :=
  (List.range 4).findSome? fun r =>
    let v := (s.core (coreOf x)).iss.breaks.get 0 r
    let slot := bits v 4 1
    if v.getLsbD 0 ∧ bits v 12 5 / 2 ^ (x % 8) % 2 = 1 ∧ bits v 58 13 = (s.ctx x).pc.toNat
        ∧ (slot = 15 ∨ on.contains slot) then some (r, slot)
    else none

/-! ### Stops -/

/-- A bundle-delivered stop before any slot commits: ctl.tnext names the next bundle in address order (14 R288). -/
def bundleStop (s : State) (x : Nat) (b : Bundle) (t : Trap) (done : BitVec 10) (leaf : Nat)
    (before : Option (Bool × Nat)) (syms : Option (Tab Symbol × BitVec 64)) (latch : List Latched) : State :=
  let pc := (s.ctx x).pc
  s.takeTrap x t (bundleAddr pc) (bundleAddr (pc + 1)) (tdoneOf done leaf (decide (b.kind = .tree)))
    { noStop with delivery := .bundle, words := b.words, pc := pc, done := done, leaf := leaf, before := before,
                  syms := syms, latch := latch }

/-- One more cycle of the issue unit, for a context that gives it up after an issue (04 R110). -/
def countIssue (s : State) (x : Nat) : State :=
  if (s.core (coreOf x)).iss.running = some (x % 8) then s.modIss x fun i => { i with icyc := i.icyc + 1 } else s

/-- The stop at the lowest slot that faulted (14 R286). -/
def preciseStop (s : State) (x : Nat) (p : Plan) (t : Trap) (faulted : List Nat) (latch : List Latched) (next : BitVec 58)
    (rep repSet : Option Nat) (jumped : Bool) : State :=
  let pc := (s.ctx x).pc
  let done := ~~~(slotMask faulted)
  (s.countIssue x).takeTrap x t (bundleAddr pc) (bundleAddr next)
    (tdoneOf done p.leaf (decide (p.bundle.kind = .tree)))
    { noStop with
      delivery := .precise, words := p.bundle.words, pc := pc, done := done, leaf := p.leaf, latch := latch, rep := rep
      repSet := repSet, jumped := jumped }

/-- Takes the pending light trap of the lowest code, if one may be taken (14 R294). The issues that
a repeated bundle still owes stay its own, and are kept while the handler runs. DEDUCED (02 R47; log entry 68). -/
def lightTrap (s : State) (x : Nat) : State :=
  let c := s.ctx x
  let lp := s.ctl x 0x03F
  let lent := s.ctl x 0x03D
  if bits lp 1 0 = 0 ∨ lent = 0 ∨ s.inHandler x ∨ c.trap.pending ≠ [] then s
  else
    let bit := if lp.getLsbD 0 then 0 else 1
    let a := bundleAddr c.pc
    let code := if bit = 0 then 0x15 else 0x16
    let s := (s.setCtl x 0x03F (lp &&& ~~~(1#64 <<< bit))).setCtl x 0x038
      (BitVec.ofNat 64 (code + 15 * 2 ^ 8 + 2 ^ 13))
    let s := (((s.setCtl x 0x039 a).setCtl x 0x03A a).setCtl x 0x03B 0).setCtl x 0x03C
      (if bit = 0 then c.trap.lightInfo else c.trap.riskInfo)
    let left := bits (s.ctl x 0x010) 23 0
    let s := if left = 0 then s
      else (s.modTrap x fun t => { t with owed := some (left, c.iss.fresh) }).setCtl x 0x010 0
    let s := s.setCtl x 0x03E (a ||| 1)
    (s.modCtx x fun c => { c with pc := BitVec.ofNat 58 (lent.toNat / 64), iss := { c.iss with fresh := true } }).traceTrigger
      (coreOf x) 1

/-! ### After the slots -/

/-- The context gives up the issue unit after its issue, for n more cycles (02 R45, 04 R103). -/
def yieldUnit (s : State) (x n : Nat) : State :=
  let now := s.cyc (coreOf x)
  ((s.countIssue x).releaseUnit x).modIss x fun i =>
    if n = 0 then { i with phase := .eligible } else { i with phase := .waiting, sleepUntil := some (now + n), cause := 4 }

/-- What the issue leaves to the core: its trace entry, the ports the sequencer may not use, weights and writebacks
(02 R51, 09 R222, 21 R359, 23 R392). DESIGN CHOICE (log entry 75): the ports are those of the slots that execute; an annulled
slot uses none. -/
def noteIssue (s : State) (x : Nat) (p : Plan) (ok : List Nat) (drift : Option Int) (pc : BitVec 58) : State :=
  let n := coreOf x
  let now := s.cyc n
  let b := p.bundle
  let occ := (List.range 10).filter fun i => b.slots.getD i .nop != .nop
  let entry : TraceEntry :=
    { pc := pc.toNat % 2 ^ 46, ctx := x % 8, valid := slotMask occ, done := slotMask ok, cause := 0, seq := false
      ballast := false, ccyc := now, drift := drift }
  let used : Used :=
    { x := b.slots.getD 8 .nop != .nop
      xst := (p.on.map fun i => (portsAt b i).x).foldl (· + ·) 0
      wst := (p.on.map fun i => (portsAt b i).w).foldl (· + ·) 0
      banks := p.on.filterMap fun i => (portsAt b i).bank
      copy := match opAt b 9 with
        | some (.copy _ _ _ _) => true | some (.copych _ _) => true | some (.copymc _ _ _ _) => true
        | some (.cancel _) => true | _ => false }
  let backs := ok.filterMap fun i => (portsAt b i).back.map fun k => (now + k.2, k.1)
  s.modCore n fun c => { c with iss := { c.iss with
    lastIssue := some now, last := some entry, used := used
    backs := (c.iss.backs.filter fun e => decide (now ≤ e.1)) ++ backs
    weights := (c.iss.weights.filter fun e => decide (now < e.1 + 128)) ++ [(now, if p.full then b.ew else 0)] } }

/-- The draft side of the slots that committed: scoreboard entries and scheduled writebacks (02 R41, R51). -/
def noteDraft (s : State) (x : Nat) (p : Plan) (board backs : List DraftWrite) : State :=
  s.modIss x fun i => { i with
    board := (i.board.filter fun e => decide (p.dt < e.lands)) ++ board
    backs := (i.backs.filter fun e => decide (p.dt < e.lands)) ++ backs }

/-- What a planned issue does before its slots execute: the clocks of the draft, and the cut, before which the slots see the
symbols (19 R350). -/
def enter (s : State) (x : Nat) (p : Plan) (cut : Bool) : State :=
  let now := s.cyc (coreOf x)
  let s := s.modIss x fun i => { i with
    pred := now, dtime := if p.full then p.dt else i.dtime, started := true
    firstCyc := some (i.firstCyc.getD now) }
  let s := s.modTrap x fun t => { t with served := false }
  if cut then
    ((s.cutBefore x p.bundle.b1).modCur fun c => { c with symsAt := some ((s.ctx x).syms, (s.ctx x).symgen) }).cutAfter x
  else s

/-- No wait and no stall of the issued bundle holds any more. -/
def unwait (s : State) (x : Nat) : State := s.modIss x fun i => { i with wait := none, waitFrom := none, cause := 0 }

/-- The weight of a full issue of context x enters its open step and its partition's account: that of a deadline's bundle
the step it opens, as its cycle does, and that of a stepend's bundle none (21 R364, R375). -/
def weigh (s : State) (x account : Nat) (p : Plan) : State :=
  if p.full then (s.addWeight x p.bundle.ew).chargeWeight account (dieOf (coreOf x)) p.bundle.ew else s

/-- The drift a cut logs. -/
def driftAt (s : State) (x : Nat) (p : Plan) (cut : Bool) : Option Int :=
  if cut then some (s.driftOf x p.bundle.b1) else none

/-- Carries out a planned issue. `s` is the state with the issue record set. DESIGN CHOICE (log entry 66): the yield flag of a
bundle that a precise trap stopped acts after the issue that completes the bundle (02 R45). -/
def issue (s : State) (x : Nat) (p : Plan) (cut : Bool) : State :=
  let b := p.bundle
  let pc := (s.ctx x).pc
  let handler := s.inHandler x
  let s := s.enter x p cut
  let s0 := s.runSlots b p.latch p.on
  let s1 := (if s0.cur.ended then s0 else s0.unwait x).weigh x (s.partOf x) p
  let faulted := s1.cur.faults.map (·.slot)
  let ok := p.on.filter fun i => !faulted.contains i
  let board := ok.flatMap fun i => (s.writesAt b i).filterMap fun w => w.2.map fun l => (⟨w.1, p.dt + l⟩ : DraftWrite)
  let backs := ok.filterMap fun i => (portsAt b i).back.map fun k => (⟨k.1, p.dt + k.2⟩ : DraftWrite)
  let s2 := s1.noteIssue x p ok (s.driftAt x p cut) pc
  if s2.cur.ended then s2
  else
    let s2 := if handler then s2 else s2.noteDraft x p board backs
    let s2 := declare s2 x s2.cur.symsAfter
    let next := s2.cur.target.getD p.next
    let rep := s2.cur.repNext.orElse fun _ => p.rep
    let repSet := s2.cur.repSet.orElse fun _ => p.repSet
    let jumped := s2.cur.target.isSome || p.jumped
    match s2.cur.faults with
    | f :: fs =>
      let t := fs.foldl (fun (a : Trap) (q : Trap) => if q.slot < a.slot then q else a) f
      s2.preciseStop x p t faulted (faulted.map (s.latchSlot x b p.latch)) next rep repSet jumped
    | [] =>
      let left := if jumped then 0 else bits (s2.ctl x 0x010) 23 0 - 1
      let s3 := continueAt s2 x next rep repSet jumped
      match s3.cur.sleep with
      | some k => s3.yieldUnit x k
      | none =>
        if b.yieldFlag ∧ left = 0 then s3.yieldUnit x 0
        else if (s3.ctx x).iss.phase = .running ∧ !b.yieldFlag then s3.lightTrap x
        else s3

/-- A matching breakpoint stops the issue before its slots; the issue has taken its draft time and its cut (23 R401). -/
def breakStop (s : State) (x : Nat) (p : Plan) (r slot : Nat) (cut : Bool) : State :=
  let i0 := (s.ctx x).iss
  let pc := (s.ctx x).pc
  let latch := p.on.map (s.latchSlot x p.bundle [])
  let syms := ((s.ctx x).syms, (s.ctx x).symgen)
  let s := ((s.enter x p cut).unwait x).weigh x (s.partOf x) p
  let s := s.noteIssue x p [] (s.driftAt x p cut) pc
  let s := s.modIss x fun i => { i with fresh := false }
  let s := (s.sampleRecord (s.partOf x) 5 x pc.toNat (slot + r * 16)).traceTrigger (coreOf x) 0
  (s.countIssue x).bundleStop x p.bundle ⟨0, slot, 0, BitVec.ofNat 64 r, .bundle⟩ p.annulled p.leaf
    (some (i0.started, i0.dtime)) (some syms) latch

/-! ### Attempts -/

/-- The waits a context meets before its bundle: the held buffer it starts or resumes with, a snapshot it has to open, the
winner's held writes, a publication it waits for, a symdecl's records. In a phase it holds no snapshot while it waits (12 R266,
R270, 17 R330, R334, 19 R354). -/
def gate (s : State) (x : Nat) : Option WaitFor :=
  let m := (s.ctx x).mem
  if m.entering.isSome then some ⟨11, 0, 0, none⟩
  else if (s.ctx x).trap.redo.isSome then some reopenWait
  else if m.held.any (fun h => decide (h.decided = some true)) && !(s.ctx x).iss.ending then some ⟨4, 0, 0, none⟩
  else if (s.ctx x).iss.ending && s.linesOff x ((s.followLines x .ending).map (·.1)) then some ⟨10, 0, 0, none⟩
  else if m.pubs.any (fun p => p.blocks && decide (p.after = .snap)) then some orderWait
  else if m.pubs.any (·.blocks) then some ⟨10, 0, 0, none⟩
  else if m.ops.any (fun o => decide (o.size = 9)) then some ⟨4, 0, 0, none⟩
  else none

/-- The effective stall of a bundle whose predecessor issued at `pred` (02 R35, 19 R351). -/
def stallOf (s : State) (x : Nat) (b : Bundle) : Nat :=
  if b.sym then
    let y := (s.ctx x).syms.get resetSymbol b.symidx
    max (y.b + b.symoff) (y.floor.getD 0 + b.symoff - (s.ctx x).iss.pred)
  else b.stall

/-- The draft time of a bundle: 0 for the first, and that of the bundle before the trap in a light-trap handler
(02 R36, 20 R358). -/
def draftOf (s : State) (x : Nat) (b : Bundle) : Nat :=
  let i := (s.ctx x).iss
  if !i.started then 0
  else if s.inHandler x then i.dtime
  else i.dtime + 1 + (if b.sym then ((s.ctx x).syms.get resetSymbol b.symidx).min + b.symoff else b.stall)

/-- Runs a plan: a wait of one of its slots, a hold, a breakpoint, or the issue (02 R53, 14 R284, 23 R400). The write of a private
version is no wait of 04 R90, and the context keeps the unit. Of the causes that hold in one cycle the lowest is recorded
(23 R393). -/
def runPlan (s : State) (x : Nat) (p : Plan) (cut breaks : Bool) : Attempt :=
  let hold := s.holdCause (coreOf x) (if p.full then p.bundle.ew else 0) p.bundle p.on
  let t := s.runSlots p.bundle p.latch p.on
  match t.cur.retry with
  | some w =>
    let least := min t.cur.least (hold.getD 31)
    if w.cause = 12 then .hold least else .wait w least
  | none =>
    match hold with
    | some c => .hold c
    | none =>
      match (if breaks then s.breakpoint x p.on else none) with
      | some (r, slot) => .broke (s.breakStop x p r slot cut)
      | none => .issued (s.issue x p cut)

/-- A full issue of a fetched bundle, without the skipped slots (02 R53). -/
def fullIssue (s : State) (x : Nat) (b : Bundle) (skip : BitVec 10) : Attempt :=
  let s := s.startIssue x b
  match s.pendingReg x ((usedTests b).map fun t => sReg t.reg.toNat) with
  | some r => .wait ⟨3, 0, BitVec.ofNat 64 r, none⟩ 3
  | none =>
    let leaf? := s.treeLeaf x b
    let leaf := leaf?.getD 0
    let on := if leaf?.isSome then committing b leaf skip else []
    match s.interlock x b on true with
    | some w => .wait w w.cause
    | none =>
      let dt := s.draftOf x b
      let mask := s.illegalMask x b dt
      let pc := (s.ctx x).pc
      if mask ≠ 0 then
        .moved (s.bundleStop x b ⟨0x01, 15, bundleAddr pc, BitVec.ofNat 64 mask, .bundle⟩ 0 0 none none [])
      else if leaf?.isNone then .moved (s.bundleStop x b ⟨0x02, 15, 0, 0, .bundle⟩ 0 0 none none [])
      else
        let annulled := annulledOf b leaf
        match (if (s.ctl x 0x011).getLsbD 0 && !s.inHandler x then s.shortfall x b on dt else none) with
        | some (slot, r) =>
          .moved (s.bundleStop x b ⟨0x03, slot, 0, BitVec.ofNat 64 r, .bundle⟩ annulled leaf none none [])
        | none =>
          let plan : Plan :=
            { bundle := b, leaf := leaf, on := on, annulled := annulled ||| skip, latch := [], full := true, dt := dt
              next := s.leafNext x b leaf, rep := none, repSet := none, jumped := decide (leaf ≠ 0) }
          let s := s.modTrap x fun t => { t with rerun := none }
          s.runPlan x plan (decide (b.kind = .marker) && (s.ctx x).iss.fresh) true

/-- The issue that completes an interrupted bundle: the undone slots with their latched operands (14 R293). -/
def completeIssue (s : State) (x : Nat) (st : Stop) : Attempt :=
  let b := decodeBundle st.words
  let s := (s.startIssue x b).modCur fun c => { c with symsAt := st.syms }
  let on := (List.range 10).filter fun i => b.slots.getD i .nop != .nop && !st.done.getLsbD i
  match s.interlock x b on false with
  | some w => .wait w w.cause
  | none =>
    let issued := st.before.isSome
    let plan : Plan :=
      { bundle := b, leaf := st.leaf, on := on, annulled := annulledOf b st.leaf, latch := st.latch, full := false
        dt := (s.ctx x).iss.dtime, next := if issued then s.leafNext x b st.leaf else tnextOf s x
        rep := st.rep, repSet := st.repSet, jumped := st.jumped || (issued && decide (st.leaf ≠ 0)) }
    (s.modTrap x fun t => { t with rerun := none }).runPlan x plan false false

/-- A wait that the context meets at its bundle's earliest cycle, else what comes next (04 R90). -/
def gated (s : State) (x : Nat) (ok : Attempt) : Attempt :=
  match s.gate x with
  | some w => .wait w w.cause
  | none => ok

/-- A fetch that fails: a walk which met an uncorrectable entry logs it (02 R54, 22 R386). -/
def fetchStop (s : State) (x : Nat) (t : Trap) : State :=
  (if t.code = 0x06 then s.logWalk (s.partOf x) (64 * (s.ctx x).pc.toNat) else s).bundleStop x (decodeBundle []) t 0 0 none none []

/-- The attempt of context x to issue in this cycle: its own stall, then what it waits for, then the issue, or the end of a task
whose last publication has been made (04 R88, R90, 16 R316). -/
def attempt (s : State) (x : Nat) : Attempt :=
  let now := s.cyc (coreOf x)
  let s := if (s.ctx x).mem.view.isNone then s.snapshot x else s
  let pred := (s.ctx x).iss.pred
  let whole := fun (skip : BitVec 10) =>
    let next := fun (ok : Attempt) => s.gated x (match s.fetchHold x with | some w => .wait w w.cause | none => ok)
    match s.fetchWords x with
    | .error t => next (.moved (s.fetchStop x t))
    | .ok (ws, s1) =>
      let b := decodeBundle ws
      if now < pred + 1 + s1.stallOf x b then .stall (if b.sym then 2 else 1) else next (s1.fullIssue x b skip)
  if (s.ctx x).iss.ending then s.gated x (.moved ((s.modIss x fun i => { i with ending := false }).finishTask x))
  else match (s.ctx x).trap.rerun with
  | some st =>
    if st.skipSlots ≠ 0 then whole st.skipSlots
    else if now < pred + 1 then .stall 1
    else s.gated x (s.completeIssue x st)
  | none => whole 0

/-- Delivers the pending trap of the lowest code at a boundary of context x, one at each boundary; a trap that the bundle there
takes as a whole comes before it, and so does a breakpoint of its issue (14 R284, R287, 23 R401). -/
def deliver (s : State) (x : Nat) : State :=
  let c := s.ctx x
  let live := decide (c.iss.phase = .eligible) || decide (c.iss.phase = .running) || decide (c.iss.phase = .waiting)
  match c.trap.pending with
  | [] => s
  | p :: ps =>
    if !live || c.trap.rerun.isSome || c.trap.served || c.trap.redo.isSome || c.iss.ending then s
    else match s.attempt x with
    | .moved s1 => s1.clearBehind (coreOf x) x
    | .broke _ => s
    | _ =>
      let t := ps.foldl (fun (a : Trap) (q : Trap) => if q.code < a.code then q else a) p
      let deferred := decide (t.delivery = .deferred)
      let s := s.modTrap x fun k => { k with
        pending := k.pending.erase t
        failed := if deferred then k.failed.eraseP fun q => decide (q.1 = t) else k.failed
        served := true
        boundPending := if t.code = 0x0D then false else k.boundPending }
      (s.takeTrap x t (bundleAddr c.pc) (bundleAddr c.pc) 0
        { noStop with delivery := t.delivery, pc := c.pc, deferred := if deferred then (c.trap.failed.find? fun q => q.1 = t).map (·.2) else none }).clearBehind
          (coreOf x) x

/-! ### The context selector (04 R88 to R91) -/

def taskPriority (s : State) (x : Nat) : Nat := bits (s.ctl x 0x001) 3 0

/-- The contexts of core n that hold a task and are not being saved. -/
def contextsOf (s : State) (n : Nat) : List Nat :=
  (s.ctxs.map (·.1)).filter fun x => decide (coreOf x = n) && decide ((s.ctx x).iss.phase ≠ .free)
    && decide ((s.ctx x).iss.phase ≠ .saved) && (s.ctx x).iss.saving.isNone

/-- The contexts of core n that can take the issue unit: eligible, and past their own stall (04 R88). -/
def ready (s : State) (n : Nat) : List Nat :=
  (s.contextsOf n).filter fun x => decide ((s.ctx x).iss.phase = .eligible) &&
    (match s.attempt x with | .stall _ => false | _ => true)

/-- A yield that slept long enough: the context is eligible, and stands last in its level, behind every context that is
eligible there now (04 R103). -/
def wake (s : State) (x : Nat) : State :=
  match (s.ctx x).iss.sleepUntil with
  | some t =>
    if (s.ctx x).iss.phase = .waiting ∧ t ≤ s.cyc (coreOf x) then
      let ahead := (s.ready (coreOf x)).filter fun y => s.taskPriority y = s.taskPriority x
      s.modIss x fun i => { i with phase := .eligible, sleepUntil := none, behind := ahead }
    else s
  | none => s

/-- A context that waits for the held buffer with which its task starts or resumes takes a free one; a winner, which leaves
held mode at once, waits for none (17 R330, R334). -/
def enterHeld (s : State) (x : Nat) : State :=
  match (s.ctx x).mem.entering with
  | some h => if h.decided = some true ∨ s.heldUse (dieOf (coreOf x)) < 24 then s.modMem x fun m => { m with held := some h, entering := none } else s
  | none => s

/-- The winner of a decision publishes its held writes at its boundary, once its engines are done and joined; one that waits
in its taskend publishes them as it ends (17 R334). -/
def settleWinner (s : State) (x : Nat) : State :=
  match (s.ctx x).mem.held with
  | some h =>
    if h.decided = some true ∧ !s.heldBusy x ∧ (s.ctx x).iss.phase ≠ .stopped
        ∧ (s.ctx x).mem.pubs.all (fun p => decide (p.after ≠ .ending)) ∧ (s.ctx x).iss.ending = false then
      let lines := withHeldLines h (s.ctx x).mem.unpub
      ((s.joinHeld x).modMem x fun m => { m with unpub := [], held := some { h with lines := [], decided := none } }).post x (s.taskScope x)
        lines .commit
    else s
  | none => s

/-- A waiting context looks again at what it waits for. -/
def rewait (s : State) (x : Nat) : State :=
  let i := (s.ctx x).iss
  if i.phase ≠ .waiting ∨ i.sleepUntil.isSome then s
  else match s.attempt x with
  | .wait w k => (if i.wait = some w then s else s.waitFor x w).modIss x fun i => { i with cause := k }
  | .stall k => s.modIss x fun i => { i with cause := k }
  | _ => s.modIss x fun i => { i with phase := .eligible }

/-- The eligible context the selector takes: the highest priority, then round-robin; one placed last comes after those it was
placed behind (04 R89, R103). -/
def pick (s : State) (n : Nat) : Option Nat :=
  match s.ready n with
  | [] => none
  | ready =>
    let top := ready.foldl (fun a x => max a (s.taskPriority x)) 0
    let equal := ready.filter fun x => s.taskPriority x = top
    let level := equal.filter fun x => !((s.ctx x).iss.behind.any equal.contains)
    let last := (s.core n).iss.served.get 7 top
    (List.range 8).findSome? fun k => level.find? fun x => x % 8 = (last + 1 + k) % 8

/-- Gives the issue unit to context x. -/
def takeUnit (s : State) (n x : Nat) : State :=
  ((s.modCore n fun c => { c with iss := { c.iss with
      running := some (x % 8), heldSince := s.cyc n, served := c.iss.served.put (s.taskPriority x) (x % 8) } }).modIss x
    fun i => { i with phase := .running, behind := [] }).clearBehind n x

/-- A hold of the core in this cycle: its cause, and a damping stall, in which the sequencer emits nothing (21 R359, R360). -/
def noteHold (s : State) (n x k : Nat) : State :=
  let s := s.modIss x fun i => { i with cause := k }
  if k = 5 ∨ k = 6 then s.modCore n fun c => { c with iss := { c.iss with dampCyc := some (s.cyc n) } } else s

/-- The stall causes of the contexts of core n that are in their own stall, asleep or not (23 R393). -/
def noteCauses (s : State) (n : Nat) : State :=
  ((s.contextsOf n).filter fun x => decide ((s.ctx x).iss.phase = .eligible) || (s.ctx x).iss.sleepUntil.isSome).foldl
    (fun (s : State) x => s.modIss x fun i => { i with cause := match s.attempt x with
      | .stall k => k
      | _ => if i.sleepUntil.isSome then 4 else 0 }) s

/-- The cycle of core n: displacement, the choice, and attempts until one issues, stalls or is held. DESIGN CHOICE (log
entry 66): a displaced context leaves its level's pointer on itself, so it is served after its equals, as after a yield
(04 R91). -/
def choose (n : Nat) : Nat → State → State
  | 0, s => s
  | fuel + 1, s =>
    let best := s.pick n
    let cur := (s.core n).iss.running.map (8 * n + ·)
    let s1 := match cur, best with
      | some r, some x =>
        if s.taskPriority r < s.taskPriority x then
          ((s.releaseUnit r).modIss r fun i => { i with phase := .eligible }).takeUnit n x
        else s
      | none, some x => s.takeUnit n x
      | _, none => s
    match (s1.core n).iss.running with
    | none => s1
    | some c =>
      let x := 8 * n + c
      match s1.attempt x with
      | .stall k => s1.modIss x fun i => { i with cause := k }
      | .hold k => s1.noteHold n x k
      | .wait w k => choose n fuel ((s1.waitFor x w).modIss x fun i => { i with cause := k })
      | .moved s2 => choose n fuel s2
      | .broke s2 => s2
      | .issued s2 => s2

end State

open State

/-- BUNDLE_ISSUE: one cycle's choice and issue of core n (02 R53, 04 R89). Where the die is gated, or the core has made
its choice for this cycle, nothing happens. -/
def execBundleIssue (n : Nat) (s : State) : Out :=
  let now := s.cyc n
  .next <|
    if (s.die (dieOf n)).gated ∨ (s.core n).iss.tried = some now then s
    else
      let s := (s.landDue n).modCore n fun c => { c with iss := { c.iss with tried := some now } }
      let xs := s.contextsOf n
      let s := xs.foldl (fun (s : State) x => ((reopen ((s.wake x).enterHeld x) x).settleWinner x).deliver x) s
      let s := xs.foldl (fun (s : State) x => s.rewait x) s
      ((choose n 17 s).noteCauses n).modCur fun _ => resetIssue

end Sys2Proof.Machine
end

