-- ==== Sys2Proof/Machine/Fronts.lean ====
section
/-! DEFINITION. What a stream front end reads: its control block, the packets of its stream and of the replays it started, the
headers of graph objects (16 R305, R318, R320), and the lines that its next packets publish. -/

namespace Sys2Proof.Machine

namespace State

/-! ### Memory as a front end sees it (16 R318) -/

/-- The physical address of an access by a front end, or its halt code. -/
def frontPhys (s : State) (p va : Nat) (k : Access) : Except Nat Nat :=
  if inWindow va then .error 0x05
  else if 2 ^ 52 ≤ va then .error 0x06
  else match s.walk p va with
  | none => .error 0x06
  | some l =>
    let pa := entryPa l.entry + va % 2 ^ l.size
    if !s.entryAllows p va k l then .error 0x07
    else if k = .write ∧ s.inAnyTmem pa 1 then .error 0x07
    else .ok pa

/-- The pages of the bytes before an address, or the code of the first that fails. -/
def frontPages (s : State) (p : Nat) (k : Access) (stop : Nat) : List Nat → Except Nat (List (Nat × Nat))
  | [] => .ok []
  | va :: vas => match s.frontPhys p va k with
    | .error c => .error c
    | .ok pa =>
      if (s.denied p pa (bytesInPage va stop)).isSome || (decide (k = .write) && s.inAnyTmem pa (bytesInPage va stop)) then .error 0x07
      else match frontPages s p k stop vas with
      | .ok l => .ok ((va, pa) :: l)
      | .error c => .error c

/-- n bytes read as a .sys acquire. -/
def frontRead (s : State) (p va n : Nat) : Except Nat (List (BitVec 8)) :=
  match s.frontPages p .read (va + n) (pagesOf va n) with
  | .error c => .error c
  | .ok pages =>
    let pas := (List.range n).map fun i => physOf pages (va + i)
    if pas.any fun a => s.poison.get (a / 32) != 0 then .error 0x08 else .ok (pas.map s.mem.get)

/-- Base and size of the packet area. -/
def streamArea (s : State) (f : Nat) : Except Nat (Nat × Nat) :=
  let v := s.front f
  match s.frontRead v.part v.block 16 with
  | .error c => .error c
  | .ok bs => .ok (ofBytesLE (bs.take 8), ofBytesLE ((bs.drop 8).take 4))

/-- The bytes of a packet at an address function of its 32-byte units. -/
def packetAt (s : State) (p : Nat) (unit : Nat → Nat) : Except Nat (List (BitVec 8)) :=
  match s.frontRead p (unit 0) 32 with
  | .error c => .error c
  | .ok first =>
    (List.range ((first.headD 0).toNat % 8)).foldl (fun (acc : Except Nat (List (BitVec 8))) i =>
      match acc with
      | .error c => .error c
      | .ok bs => match s.frontRead p (unit (i + 1)) 32 with
        | .error c => .error c
        | .ok more => .ok (bs ++ more)) (.ok first)

/-- The stream's next packet; none where the head has reached the tail. -/
def streamPacket (s : State) (f : Nat) : Option (Except Nat (List (BitVec 8))) :=
  let v := s.front f
  if v.tail ≤ v.head then none
  else match s.streamArea f with
  | .error c => some (.error c)
  | .ok (base, size) =>
    if size = 0 then none else some (s.packetAt v.part fun i => base + (v.head + 32 * i) % size)

/-- The header of a graph object: sequence, its length, parameter length, the two blocks and gstate (16 R320). -/
def graphHeader (s : State) (p g : Nat) : Except Nat (List Nat) :=
  match s.frontRead p g 64 with
  | .error c => .error c
  | .ok bs =>
    let f := fun o n => ofBytesLE ((bs.drop o).take n)
    .ok [f 0 8, f 8 4, f 12 4, f 16 8, f 24 8, f 32 8]

def blockAddr (h : List Nat) (b : Nat) : Nat := h.getD (3 + b % 2) 0

/-- A running replay's next packet; none at the end of its sequence. -/
def replayPacket (s : State) (r : Replay) : Option (Except Nat (List (BitVec 8))) :=
  match s.graphHeader r.part r.graph with
  | .error c => some (.error c)
  | .ok h => if h.getD 1 0 ≤ r.pos then none else some (s.packetAt r.part fun i => h.getD 0 0 + r.pos + 32 * i)

/-! ### Sources -/

/-- Where a packet stands: the stream itself, or a replay by its place in the front end's list. -/
inductive Source where
  | stream
  | replay (i : Nat)
deriving DecidableEq, Repr

def replayAt (s : State) (f i : Nat) : Replay :=
  (s.front f).replays.getD i ⟨0, 0, 0, 0, [], none, true⟩

def setReplay (s : State) (f i : Nat) (r : Replay) : State := s.modFront f fun v => { v with replays := v.replays.set i r }

/-- The running sources of a front end that hold a packet, in order. -/
def sources (s : State) (f : Nat) : List (Source × Except Nat (List (BitVec 8))) :=
  let rs := (List.range (s.front f).replays.length).filterMap fun i =>
    let r := s.replayAt f i
    if r.pending then none else (s.replayPacket r).map fun b => (Source.replay i, b)
  rs ++ (match s.streamPacket f with | some b => [(Source.stream, b)] | none => [])

/-- The kind of a packet (16 R305). -/
def packetKind (bs : List (BitVec 8)) : Nat := (bs.headD 0).toNat / 8 % 16

/-- Bytes lo to lo + n − 1 of a packet as a number. -/
def pf (bs : List (BitVec 8)) (lo n : Nat) : Nat := ofBytesLE ((bs.drop lo).take n)

/-- The addresses at which the sources of a front end read next. -/
def sourceAddrs (s : State) (f : Nat) : List (Nat × Nat) :=
  let v := s.front f
  (match s.streamArea f with
    | .ok (base, size) => if v.tail ≤ v.head ∨ size = 0 then [] else [(base + v.head % size, 32)]
    | .error _ => [])
  ++ v.replays.flatMap fun r => (r.graph, 64) :: match s.graphHeader r.part r.graph with
    | .ok h => [(h.getD 0 0 + r.pos, 32)]
    | .error _ => []

/-- The units of a packet of n units that a source holds. -/
def unitAddrs (s : State) (f n : Nat) : Source → List Nat
  | .stream => match s.streamArea f with
    | .ok (base, size) => if size = 0 then [] else (List.range n).map fun i => base + ((s.front f).head + 32 * i) % size
    | .error _ => []
  | .replay i => match s.graphHeader (s.replayAt f i).part (s.replayAt f i).graph with
    | .ok h => (List.range n).map fun k => h.getD 0 0 + (s.replayAt f i).pos + 32 * k
    | .error _ => []

/-- What a packet names for its front end to read: the template of a LAUNCH, the word of a WAITSEM or SIGSEM, the header of a
graph and the block it copies. -/
def packetReads (s : State) (p : Nat) (bs : List (BitVec 8)) : List (Nat × Nat) :=
  match packetKind bs with
  | 1 => [((s.part p).ent.tmplBase + 32 * pf bs 2 2, 32)]
  | 2 => [(pf bs 8 8, 8)]
  | 3 => [(pf bs 8 8, 8)]
  | 5 => (pf bs 8 8, 64) :: match s.graphHeader p (pf bs 8 8) with
    | .ok h => if h.getD 5 0 % 2 = 0 then [] else [(blockAddr h (h.getD 5 0 / 4 % 2), h.getD 2 0)]
    | .error _ => []
  | _ => []

/-- Everything that front end f reads now: its control block, its sources, and what their packets name. -/
def frontReads (s : State) (f : Nat) : List (Nat × Nat) :=
  (((s.front f).block, 40) :: s.sourceAddrs f) ++ (s.sources f).flatMap fun q => match q.2 with
    | .ok bs => ((s.unitAddrs f (bs.length / 32) q.1).map fun a => (a, 32)) ++ s.packetReads (s.front f).part bs
    | .error _ => []

/-- The lines of n bytes at an address that hardware writes for a partition, with their addresses. -/
def linesAt (s : State) (p va n : Nat) : List (Nat × Nat) :=
  if n = 0 then []
  else (List.range ((va + n - 1) / 128 - va / 128 + 1)).flatMap fun i => s.lineAt p (if i = 0 then va else (va / 128 + i) * 128)

/-- The lines that a packet publishes: the word of a SIGSEM, the bytes of a PATCH, the parameter block of a REPLAY (16 R319,
R321). -/
def packetLines (s : State) (p : Nat) (bs : List (BitVec 8)) : List (Nat × Nat) :=
  match packetKind bs with
  | 3 => s.linesAt p (pf bs 8 8) 8
  | 4 => s.linesAt p (pf bs 8 8) (pf bs 16 4)
  | 5 => match s.graphHeader p (pf bs 8 8) with
    | .error _ => []
    | .ok h =>
      let st := h.getD 5 0
      if st % 2 = 0 then s.linesAt p (blockAddr h (st / 4 % 2) + pf bs 16 4) (pf bs 20 4)
      else s.linesAt p (blockAddr h (1 - st / 4 % 2)) (h.getD 2 0)
  | _ => []

/-- Whether version pressure holds back the publication of a packet (12 R271). -/
def packetOff (s : State) (p : Nat) (bs : List (BitVec 8)) : Bool := s.linesOff 8000 ((s.packetLines p bs).map (·.1))

end State
end Sys2Proof.Machine
end

