-- ==== Sys2Proof/Machine/MemEvents.lean ====
section
/-! DEFINITION. Events of a context outside its bundles: results of global accesses, publications, forced boundaries, wake-ups,
wait timeouts and fixed-latency writebacks (02 R38, R40, 04 R103, 08 R182, 10 R242, R246, 12 R266 to R281, 16 R323). An
event that cannot happen now leaves the state alone. -/

namespace Sys2Proof.Machine

namespace State

/-! ### Interlocked accesses -/

/-- The symbol source that an access served at pa counts to; 0 for host memory (19 R344). -/
def sourceOf (s : State) (pa : Nat) : Nat :=
  if pa / 2 ^ 51 % 2 = 1 then 0 else if pa / 2 ^ 40 % 64 ≠ s.pkg.number then 3
  else if s.inL2 (pa / 128) || s.blocks.any (fun b => b.pas.contains (pa / 128)) then 2 else 1

/-- The source of an access; a spawn has none. The line of an access served by a live load-block gives an L2-hit sample
(10 R254). DESIGN CHOICE (log entry 66): an access of several pieces counts to the source that serves its first one, a vgath
with no active element to that of address 0 (08 R192). -/
def opSource (s : State) (o : MemOp) : Nat :=
  let src := s.sourceOf o.pa
  if o.size = 8 then 0 else if src ≠ 0 ∧ o.chunked then 6 else src

/-! ### Turns at the memory (22 R377 to R380) -/

/-- The lines of a request that go to a channel of this package: those no slice and no cache of counters holds. -/
def channelLines (s : State) (ls : List Nat) : List Nat :=
  ls.filter fun l => decide (l / 2 ^ 33 = s.pkg.number) && !s.inL2 l
    && !(s.near.contains l && (s.nearCache.get [] (l / 2 ^ 29 % 16)).contains l)

/-- The turn of a request of unit u at the memory for some lines, those that its walks read and those it must have from memory
among them: whether it is served now, and the state after it has been, or after it has joined the queues of its banks (22
R377 to R379, R386). -/
def memoryTurn (s : State) (u id : Nat) (ls : List Nat) (must : List Nat := []) : Bool × State :=
  let s := s.keepWalks u id
  let ls := s.recs.walks.get [] (walksKey u id) ++ must ++ s.channelLines ls
  let s := ls.foldl (fun (s : State) l => s.drainBacks (channelOf (128 * l))) s
  if ls.all (s.lineReady u id) then (true, (ls.foldl (serveLine u id) s).dropWalks u id) else (false, ls.foldl (queueLine u id) s)

/-- A unit's requests for other lines than these, which it no longer makes, leave the queues. -/
def keepRequests (s : State) (u id : Nat) (ls : List Nat) : State :=
  { s with channels := s.channels.map fun c => (c.1, { c.2 with
      waiting := c.2.waiting.filter fun w => decide (w.2 ≠ (u, id))
        || ls.any fun l => decide (channelOf (128 * l) = c.1 ∧ bankOf (128 * l) = w.1) }) }

/-- The turn of what hardware reads: its lines are used in their slices once they are served (22 R377 to R382). -/
def hwTurn (s : State) (u id : Nat) (ls : List Nat) : Bool × State :=
  let r := (s.keepRequests u id ls).memoryTurn u id ls
  (r.1, if r.1 then r.2.touchLines ls false else r.2)

/-- A counter line is used: its stack's base die caches it, 1,024 lines of a stack (22 R377; replacement: log entry 16). -/
def touchNear (s : State) (line : Nat) : State :=
  if s.near.contains line then
    let k := line / 2 ^ 29 % 16
    { s with nearCache := s.nearCache.put k ((line :: (s.nearCache.get [] k).filter fun l => decide (l ≠ line)).take 1024) }
  else s

/-- The lines an access touches. -/
def opLines (o : MemOp) : List Nat :=
  if o.home.isSome then [o.pa / 128]
  else o.pieces.foldl (fun acc q =>
    (List.range ((q.pa + q.n - 1) / 128 - q.pa / 128 + 1)).foldl (fun acc i =>
      if acc.contains (q.pa / 128 + i) then acc else acc ++ [q.pa / 128 + i]) acc) []

/-- Some time has passed since an access issued; a spawn's handle does not land, and the records of a symdecl are not read, by
the cycle after the issue (16 R314, 19 R354). -/
def outLongEnough (s : State) (x : Nat) (o : MemOp) : Bool :=
  let mhz := (s.die (dieOf (coreOf x))).mhz
  decide (o.issued < s.pkg.now) && (decide (o.size ≠ 8 ∧ o.size ≠ 9) || decide (o.issued + (999999 + mhz) / mhz < s.pkg.now))

/-- A sample of a source since a time in ps; none for source 0. -/
def sampleSince (s : State) (x src start : Nat) : State :=
  if src = 0 then s else s.giveSample x src (s.pkg.now - start)

def findOp (s : State) (x id : Nat) : Option MemOp := (s.ctx x).mem.ops.find? fun o => o.id = id

def dropOp (s : State) (x id : Nat) : State :=
  s.modMem x fun m => { m with ops := m.ops.filter fun o => ¬ o.id = id }

/-- Every access before the fences of this one has been performed (12 R279). -/
def inOrder (s : State) (x : Nat) (o : MemOp) : Bool := (s.ctx x).mem.ops.all fun q => decide (o.order ≤ q.order)

/-- The end of an interlock wait named `key` while interlock tracing is armed writes an interlock record: the designator
awaited and the symbol source of its operation (23 R396). -/
def interlockEnds (s : State) (x key dest src : Nat) : State :=
  let i := (s.ctx x).iss
  match i.wait, i.waitFrom with
  | some w, some t =>
    if i.phase = .waiting ∧ w.cause = 3 ∧ w.addr = BitVec.ofNat 64 key ∧ dest ≠ 0 ∧ (s.ctl x 0x032).getLsbD 32 then
      s.sampleIf (s.partOf x) 2 x (dest + src * 2 ^ 16) (s.cyc (coreOf x) - t)
    else s
  | _, _ => s

/-- Lands the result of an access in its register, with a sample of the source that served it. -/
def landOp (s : State) (x : Nat) (o : MemOp) (v : BitVec 8192) (src : Nat) : State :=
  let s := (s.interlockEnds x o.dest o.dest src).dropOp x o.id
  let s := if o.dest < 0x1000 then s.setRegS x o.dest (v.setWidth 64) else s.setRegV x (o.dest - 0x1000) o.mask v
  s.sampleSince x src o.issued

/-- The lowest poisoned byte address an access meets (08 R182). -/
def badByte (s : State) (o : MemOp) : Option Nat :=
  let bad := (List.range o.sectors.length).filterMap fun i =>
    if s.poison.get (o.sectors.getD i 0) != 0 then some (o.vas.getD i 0) else none
  match (match o.ownBad with | some a => a :: bad | none => bad) with
  | [] => none
  | a :: l => some (l.foldl min a)

/-- An access that met poison: the register keeps its value, and trap 0x08 is deferred with the access kept for its
repetition (08 R182, 14 R284, R293). A wait for the register ends there too (23 R396). -/
def failOp (s : State) (x : Nat) (o : MemOp) (va src : Nat) : State :=
  ((s.interlockEnds x o.dest o.dest src).dropOp x o.id).pendFailed x ⟨0x08, o.slot, BitVec.ofNat 64 va, 0, .deferred⟩ o

/-! ### Home operations (12 R280, R281, 16 R323) -/

/-- The claim of a chunk object: the result and its new first 16 bytes; none where nothing remains (16 R323). -/
def chunkClaim (obj : List (BitVec 8)) (cap : Nat) : Nat × Option (Nat × Nat) :=
  let f := fun o n => ofBytesLE ((obj.drop o).take n)
  let r := f 0 8
  let st := f 8 8
  let word := fun (len : Nat) => st % 2 ^ 40 + len % 2 ^ 24 * 2 ^ 40
  if r = 0 then (word 0, none)
  else
    let div := if f 16 4 = 0 then 1 else f 16 4
    let len := max ((r + div - 1) / div) (f 20 4)
    let len := if f 24 4 = 0 then len else min len (f 24 4)
    let len := if cap = 0 then len else min len cap
    let len := min len (min r 16777215)
    (word len, some (r - len, (st + len) % 2 ^ 64))

/-- The value an atomic writes; none where acas writes nothing (12 R281). -/
def atomicNew (op : HomeOp) (old : Nat) (v cmp : BitVec 64) : Option Nat :=
  let a : BitVec 64 := BitVec.ofNat 64 old
  match op with
  | .add => some (a + v).toNat
  | .min => some (if a.toInt < v.toInt then a else v).toNat
  | .max => some (if v.toInt < a.toInt then a else v).toNat
  | .xchg => some v.toNat
  | .cas => if a = cmp then some v.toNat else none
  | .fadd => some (fmtF32.roundRn (exactAdd .rn (fmtF32.value old) (fmtF32.value (v.toNat % 2 ^ 32))).1)
  | _ => none

/-- The context's own unpublished bytes of the line, those of a posted publication that waits among them, are published
first, alone, at the atomic's scope (12 R281). -/
def publishOwnLine (s : State) (x scope line : Nat) : State :=
  let m := (s.ctx x).mem
  let mine := fun (ls : List LineWrite) => ls.filter fun l => decide (l.line = line)
  let rest := fun (ls : List LineWrite) => ls.filter fun l => decide (l.line ≠ line)
  let ls := mine (m.unpub ++ m.pubs.reverse.flatMap (·.lines))
  if ls.isEmpty then s
  else ((((s.retain x [line]).modMem x fun m => { m with
    unpub := rest m.unpub, pubs := m.pubs.map fun p => { p with lines := rest p.lines } }).publishAs
      { s.agent x with knows := [] } scope ls false none).learn x [s.pkg.eo])

/-- The writes of an atomic, published where it is performed. -/
def writeHome (s : State) (x : Nat) (o : MemOp) (bs : List (BitVec 8)) : State :=
  s.homeUpdate x o.scope ((List.range bs.length).map fun i => (o.pa + i, bs.getD i 0))

/-- The line of a home operation as it finds it: an atomic publishes its context's own bytes of it first, and chunk homes it
in near memory (12 R281, 16 R322). -/
def prepareHome (s : State) (x : Nat) (o : MemOp) (op : HomeOp) : State :=
  let line := o.pa / 128
  match op with
  | .acquire => s
  | .chunk =>
    let s : State := if s.near.contains line then s else { s with near := line :: s.near }
    (s.publishOwnLine x o.scope line).touchNear line
  | _ => (s.publishOwnLine x o.scope line).touchNear line

/-- The lowest poisoned byte address that a home operation meets: ldacq takes its context's own bytes as they are, an atomic
finds the line after its own bytes have been published (08 R182, 12 R280, R281). -/
def homeBad (s : State) (x : Nat) (o : MemOp) (op : HomeOp) : Option Nat :=
  if op = HomeOp.acquire then
    ((List.range 8).find? fun i => s.poisonedByte (s.joinedWrites x) (o.pa + i)).map (o.va + ·)
  else if o.sectors.any (fun k => s.poison.get k != 0) then some (o.vas.headD o.va) else none

/-- Performs a home operation: its result (12 R272, R280, R281, 16 R323). An ldacq that finds a write of another agent
acquires at its scope. -/
def performHome (s : State) (x : Nat) (o : MemOp) (op : HomeOp) : Nat × State :=
  match op with
  | .acquire =>
    let own := s.joinedWrites x
    let v := ofBytesLE ((List.range 8).map fun i => (ownByte (o.pa + i) own).getD (s.mem.get (o.pa + i)))
    let s := match (bytesFrom o.pa 8).filter fun a => (ownByte a own).isNone with
      | [] => s
      | as_ => (s.readHome x as_ (some o.scope)).touchL2 (o.pa / 128) false
    (v, if (s.ctx x).mem.view.isSome then s.snapshot x else s)
  | .chunk =>
    let c := chunkClaim (s.mem.read o.pa 32) o.operand.toNat
    let s := s.readHome x (bytesFrom o.pa 32) none
    match c.2 with
    | none => (c.1, s)
    | some (r, n) => (c.1, s.writeHome x o (bytesLE 8 r ++ bytesLE 8 n))
  | _ =>
    let w := if op = HomeOp.fadd then 4 else 8
    let old := s.mem.readNat o.pa w
    match atomicNew op old o.operand o.compare with
    | none => (old, (s.readHome x (bytesFrom o.pa w) none).touchL2 (o.pa / 128) false)
    | some v => (old, s.writeHome x o (bytesLE w v))

/-- Whether performing a home operation makes a version of its line: of the context's own bytes of it, or of what it writes
(12 R281). -/
def makesVersion (s : State) (x : Nat) (o : MemOp) (op : HomeOp) : Bool :=
  match op with
  | .acquire => false
  | _ => (laterWrites (s.ctx x).mem).any (fun l => decide (l.line = o.pa / 128)) || (match op with
    | .chunk => (chunkClaim (s.mem.read o.pa 32) o.operand.toNat).2.isSome
    | .fadd => (atomicNew op (s.mem.readNat o.pa 4) o.operand o.compare).isSome
    | _ => (atomicNew op (s.mem.readNat o.pa 8) o.operand o.compare).isSome)

/-- Whether a home operation's turn has come: after the accesses before its fences and the publications posted before it
(12 R265, R279, R280). -/
def inTurn (s : State) (x : Nat) (o : MemOp) : Bool :=
  s.inOrder x o && ((s.ctx x).mem.pubs.all fun p => decide (o.id < p.seq))

/-- Whether a home operation may be performed now: in its turn, and where it makes a version, once no pressure holds for its
line (12 R271). DEDUCED (log entry 8). -/
def mayPerform (s : State) (x : Nat) (o : MemOp) : Bool :=
  s.inTurn x o && (match o.home with
    | some op => !(s.makesVersion x o op && s.linesOff x [o.pa / 128])
    | none => true)

/-! ### Publications that wait, forced boundaries -/

/-- Whether the atomics and acquires issued before a publication have been performed (12 R265, R279). -/
def homesDone (s : State) (x : Nat) (p : Pending) : Bool :=
  (s.ctx x).mem.ops.all fun o => o.home.isNone || decide (p.seq ≤ o.id)

/-- The lines of which a posted event of context x makes versions, with their virtual addresses. -/
def placesOfPost (s : State) (x : Nat) (p : Pending) : List (Nat × Nat) :=
  match p.after with
  | .arm va pa _ => [(pa / 128, va)]
  | .arrive va pa _ => [(pa / 128, va)]
  | .decide w va pa => s.decideLines x w va pa
  | a => (p.lines.map fun l => (l.line, 128 * l.vline)) ++ s.followLines x a

/-- The lines of which context y makes versions as soon as no pressure holds for them, with their virtual addresses: those of
its first posted event, of the end of its task, of its atomics whose turn has come, and of the barwait that it waits in
(12 R271). -/
def heldBackBy (s : State) (y : Nat) : List (Nat × Nat) :=
  let m := (s.ctx y).mem
  (match m.pubs with
    | p :: _ => if s.homesDone y p then s.placesOfPost y p else []
    | [] => [])
  ++ (if (s.ctx y).iss.ending then s.followLines y .ending else [])
  ++ (m.ops.filterMap fun o => o.home.bind fun op =>
      if s.inTurn y o && s.makesVersion y o op then some (o.pa / 128, o.va) else none)
  ++ match (s.ctx y).iss.wait with
    | some w =>
      let va := w.addr.toNat / 16 * 16
      if (s.ctx y).iss.phase = .waiting ∧ w.cause = 10 ∧ w.addr.toNat % 16 = 2 then
        (match s.hwPhys (s.partOf y) va .write with | some pa => [(pa / 128, va)] | none => [])
      else []
    | none => []

/-- The publishers that a snapshot may hold back, as numbers: the contexts, the masters from 11000 on, the front ends from 12000
on (12 R263). -/
def publishers (s : State) : List Nat :=
  s.ctxs.map (·.1) ++ (s.masters.map fun m => 11000 + m.1) ++ s.fronts.map fun f => 12000 + f.1

/-- The lines that a publisher publishes as soon as no pressure holds for them, with their addresses: for a master those of its
first held write, for a front end those of its packets (12 R271). DESIGN CHOICE (log entry 66): a line that a master holds back
is known by its physical address. -/
def heldBack (s : State) (y : Nat) : List (Nat × Nat) :=
  if y < 11000 then s.heldBackBy y
  else if y < 12000 then
    match (s.master (y - 11000)).requests with
    | r :: _ =>
      if r.window ∨ r.data.isNone ∨ r.len = 0 then []
      else (List.range ((r.addr + r.len - 1) / 128 - r.addr / 128 + 1)).map fun i => (r.addr / 128 + i, (r.addr / 128 + i) * 128)
    | [] => []
  else
    let f := y - 12000
    (s.sources f).flatMap fun q => match q.2 with
      | .ok bs => s.packetLines (s.front f).part bs
      | .error _ => []

/-- The cycles in which context x holds publisher y back: those of the publishing context's core. DESIGN CHOICE (log entry 66):
for a master or a front end, those of the core of x. -/
def holdCyc (s : State) (x y : Nat) : Nat := s.cyc (coreOf (if y < 11000 then y else x))

/-- The address for which the snapshot of context x holds a publication of publisher y back. -/
def holdsBack (s : State) (x y : Nat) : Option Nat :=
  if y = x then none
  else (s.heldBack y).findSome? fun h => if (s.holders y h.1).contains x then some h.2 else none

/-- The publishers that the snapshot of context x holds back now, each with the cycle from which it has. DESIGN CHOICE (log
entry 66): the cycles are those of the publishing context's core. -/
def holdingNow (s : State) (x : Nat) : Tab Nat :=
  (s.publishers.filter fun y => (s.holdsBack x y).isSome).map fun y =>
    (y, (((s.ctx x).mem.holding.find? fun p => p.1 = y).map (·.2)).getD (s.holdCyc x y))

/-- The line, if any, for which the snapshot of context x has held a publication back past its limit, whatever else holds
it back too (10 R242, 12 R271). DEDUCED (log entry 9). -/
def forcedLine (s : State) (x : Nat) : Option Nat :=
  let limit := bits (s.ctl x 0x023) 39 0
  if limit = 0 then none
  else (s.holdingNow x).findSome? fun h => if limit < s.holdCyc x h.1 - h.2 then s.holdsBack x h.1 else none

/-- What a posted event does at its turn. The task of a taskend ends when its context is served next (04 R88, 16 R316). -/
def performPost (s : State) (x : Nat) (p : Pending) : State :=
  match p.after with
  | .arm _ pa n => s.armBarrier x (.memory pa) n
  | .arrive va pa n => s.arriveAt x va (.memory pa) n true
  | .decide w _ pa => decideAt s x w pa
  | .ending => (s.publishLines x p.scope p.lines p.release p.word).modIss x fun i => { i with ending := true }
  | a => (s.publishLines x p.scope p.lines p.release p.word).afterPublication x a

/-- Whether context x may issue a bundle in this cycle still: its forced boundary comes after that bundle (12 R271). -/
def aboutToIssue (s : State) (x : Nat) : Bool :=
  let i := (s.ctx x).iss
  (decide (i.phase = .eligible) || decide (i.phase = .running))
    && decide ((s.core (coreOf x)).iss.tried ≠ some (s.cyc (coreOf x)))
    && match s.attempt x with
      | .stall _ => false
      | .wait _ _ => false
      | _ => true

end State

open State

/-- GLOBAL_LOAD_RETURN: the data of an interlocked load returns, once its lines have been served (02 R40, 08 R182, R192,
22 R378). The records of a symdecl are read in their turn too, and no sooner than the cycle after it (19 R354). -/
def execGlobalLoadReturn (n k id : Nat) (s : State) : Out :=
  let x := 8 * n + k
  let s := s.landDue n
  .next <| match s.findOp x id with
  | none => s
  | some o =>
    if o.home.isSome ∨ o.size = 8 ∨ s.inOrder x o = false ∨ s.outLongEnough x o = false then s
    else if o.size = 9 then
      let ls := s.globalLines x o.va 256
      match s.memoryTurn x id ls with
      | (false, s1) => s1
      | (true, s1) => (s1.touchLines ls false).dropOp x id
    else
      let src := s.opSource o
      match s.memoryTurn x id (opLines o) with
      | (false, s1) => s1
      | (true, s1) =>
        let s1 := s1.touchLines (opLines o) false
        match s1.badByte o with
        | some va => s1.failOp x o va src
        | none => s1.landOp x o o.value src

/-- ATOMIC_PERFORMED: an atomic, chunk or ldacq takes effect at its home (12 R279 to R281, 16 R323). -/
def execAtomicPerformed (n k id : Nat) (s : State) : Out :=
  let x := 8 * n + k
  let s := s.landDue n
  .next <| match s.findOp x id with
  | none => s
  | some o => match o.home with
    | none => s
    | some op =>
      if s.mayPerform x o && s.outLongEnough x o then
        let src := s.opSource o
        match s.memoryTurn x id (opLines o) with
        | (false, s1) => s1
        | (true, s1) =>
          let s1 := s1.prepareHome x o op
          match s1.homeBad x o op with
          | some va => s1.failOp x o va src
          | none =>
            let r := s1.performHome x o op
            r.2.landOp x o (BitVec.ofNat 8192 r.1) src
      else s

/-- PUBLICATION: the oldest waiting publication of context x at one eo point, and what follows it, once no version pressure
holds for its lines (12 R266, R271). -/
def execPublication (x : Nat) (s : State) : Out :=
  .next <| match (s.ctx x).mem.pubs with
  | [] => s
  | p :: ps =>
    if !s.homesDone x p then s
    else if s.linesOff x ((s.placesOfPost x p).map (·.1)) then s
    else (s.modMem x fun m => { m with pubs := ps }).performPost x p

/-- FORCED_SNAPSHOT_BOUNDARY: a new snapshot of context x, with a version record; a context that issues in this cycle takes
it after that bundle, and its snapshot comes after what it has posted (12 R265, R271, 23 R398). Before its limit, what its snapshot holds back is noted with the cycle from which it
does. -/
def execForcedSnapshotBoundary (x : Nat) (s : State) : Out :=
  .next <| match s.forcedLine x with
  | none => s.modMem x fun m => { m with holding := s.holdingNow x }
  | some va => if s.aboutToIssue x then s
    else (reopen ((s.dropSnapshot x).modTrap x fun t => { t with redo := some none }) x).sampleRecord (s.partOf x) 4 x va (va / 2 ^ 32)

/-- YIELD_WAKE (04 R103). -/
def execYieldWake (x : Nat) (s : State) : Out := .next (s.wake x)

/-- Whether context x still waits in an instruction whose timeout is the trap, for the cycles of the ctl.bto it read
(10 R242). -/
def timedOut (s : State) (x code : Nat) : Option WaitFor :=
  let i := (s.ctx x).iss
  let limit := i.waitLimit
  match i.wait, i.waitFrom with
  | some w, some t =>
    if i.phase = .waiting ∧ i.saving = none ∧ w.timed = code ∧ limit ≠ 0 ∧ limit ≤ s.cyc (coreOf x) - t then
      match s.attempt x with
      | .wait w' _ => if w'.timed = code then some w' else none
      | _ => none
    else none
  | _, _ => none

/-- The stop before a waiting bundle: slot 9, done mask 0 (14 R284). -/
def timeoutStop (s : State) (x code : Nat) (fa info : BitVec 64) : State :=
  let pc := (s.ctx x).pc
  s.takeTrap x ⟨code, 9, fa, info, .boundary⟩ (bundleAddr pc) (bundleAddr pc) 0 { noStop with pc := pc }

/-- WAIT_TIMEOUT: trap 0x17 (10 R243, 14 R285). -/
def execWaitTimeout (x : Nat) (s : State) : Out :=
  let s := s.landDue (coreOf x)
  .next (if (timedOut s x 0x17).isSome then timeoutStop s x 0x17 0 0 else s)

/-- BARRIER_TIMEOUT: trap 0x0B with the barrier address and the arrived count (10 R246). -/
def execBarrierTimeout (x : Nat) (s : State) : Out :=
  let s := s.landDue (coreOf x)
  .next <| match timedOut s x 0x0B with
  | none => s
  | some w =>
    let arrived := match placeOf (coreOf x) w.addr.toNat 16 with
      | .xstore c o => (s.barrierAt (.store c o)).arrived
      | _ => match s.hwPhys (s.partOf x) w.addr.toNat .read with
        | some pa => (s.barrierAt (.memory pa)).arrived
        | none => 0
    timeoutStop s x 0x0B w.addr (BitVec.ofNat 64 arrived)

/-- FIXED_LATENCY_WRITEBACK: every result of core n that is due lands (02 R38, R39). -/
def execFixedLatencyWriteback (n : Nat) (s : State) : Out := .next (s.landDue n)

end Sys2Proof.Machine
end

