-- ==== Sys2Proof/Machine/EngineEvents.lean ====
section
/-! DEFINITION. Events of the engines: copies, chains, multicasts, load-blocks, shuttle rings, heddle rows, decks,
collectives and spawns (08 R182, R194 to R197, 09 R216, R223, 10, 11 R260, 16 R314, 17 R330, 21 R373, R374). An event
that cannot happen now leaves the state alone. -/

namespace Sys2Proof.Machine

/-- How a move of an engine goes: its bytes have landed, it fails at an address, it waits for a decision, or its pair has
failed and taken the operation away. -/
inductive Move where
  | landed (s : State)
  | failed (code va : Nat) (s : State)
  | waits
  | gone (s : State)
deriving DecidableEq, Repr

namespace State

/-! ### Moving bytes -/

/-- The address of the first write of some lines that finds a held buffer full. -/
def overflowAt (h : HeldMode) (ls : List LineWrite) : Nat :=
  let i := ((List.range ls.length).find? fun i => decide (2048 < heldLines h.lines ((ls.take (i + 1)).map (·.line)))).getD 0
  match ls[i]? with
  | some l => 128 * l.vline + ((List.range 128).find? l.mask.getLsbD).getD 0
  | none => 0

/-- Lands lines, in the held buffer where the fork was held and while it has room; one of a context that waits for its buffer
waits with it (17 R330, R338). An engine of a winner that found it full goes on: its writes are published with the buffer
(17 R330, R334). -/
def landHeld (s : State) (x key : Nat) (held : Bool) (ls : List LineWrite) : Move :=
  match held, (s.ctx x).mem.held with
  | true, none => if (s.ctx x).mem.entering.isSome then .waits else .landed (s.landLines x key held ls)
  | true, some h =>
    if heldLines h.lines (ls.map (·.line)) ≤ 2048 then .landed (s.landLines x key true ls)
    else match h.gov with
      | .held => .failed 0x0F (overflowAt h ls) s
      | .decision => if h.decided = some true then .landed (s.landLines x key true ls) else .waits
      | .pair =>
        let s1 := s.pairFull x
        if (s1.ctx x).iss.phase = .free then .gone s1 else .landed s1
  | _, _ => .landed (s.landLines x key held ls)

/-- Writes an engine's bytes at an engine address, with their poison (10 R237, R238, 12 R274). -/
def moveBytes (s : State) (n x key dst : Nat) (held : Bool) (bs : List (BitVec 8)) (bad : List Nat) : Move :=
  if bs.isEmpty then .landed s
  else match placeOf n dst bs.length with
  | .wstore c b => .landed (s.writeStore true c b bs bad)
  | .xstore c b => .landed (s.writeStore false c b bs bad)
  | .gap => .failed 0x05 (gapAddr dst) s
  | .global =>
    match s.writePages x dst bs.length with
    | .error (code, va) => .failed code va s
    | .ok (pages, s1) => s1.landHeld x key held (linesOver pages dst bs bad)

/-- The undefined destination of a transfer that failed: free bytes, up to the first address that cannot be written
(10 R238; log entry 6). DESIGN CHOICE (log entry 75): the sectors that they cover whole have good check codes (08 R182). -/
def spoilRange (s : State) (n x key dst len : Nat) (held : Bool) : State :=
  let (k, s) := s.fresh
  let go := fun (m : Nat) => s.moveBytes n x key dst held (freeBytes k m) []
  match go len with
  | .landed s1 => s1
  | .failed _ va _ => if dst < va then (match go (va - dst) with | .landed s1 => s1 | _ => s) else s
  | _ => s

/-! ### Moves -/

/-- What has been written to byte pa of global memory since an operation forked, by its context or by a publication. -/
def writtenSince (s : State) (e : EngineOp) (pa : Nat) : Option (BitVec 8) :=
  match ownByte pa (s.joinedWrites e.ctx) with
  | some b => if ownByte pa e.own = some b then none else some b
  | none =>
    if (s.versions.takeWhile fun v => decide (e.eo ≤ v.eo)).any fun v => v.old.any fun p => decide (p.1 = pa) then
      some (s.mem.get pa)
    else none

/-- Lands what is left of the move of an operation. A global byte that was written during the flight ends with either value
(10 R238; log entry 6). DESIGN CHOICE (log entry 66): the sectors of a move to global memory land together (10 R237). -/
def moveOp (s : State) (n : Nat) (e : EngineOp) (dst : Nat) (bs : List (BitVec 8)) (bad : List Nat) : Move :=
  if bs.isEmpty then .landed s
  else match placeOf n dst bs.length with
  | .wstore c b => .landed (s.landSectors true c b bs bad ((moveSectors b bs.length).filter fun i => !e.sectors.contains i))
  | .xstore c b => .landed (s.landSectors false c b bs bad ((moveSectors b bs.length).filter fun i => !e.sectors.contains i))
  | .gap => .failed 0x05 (gapAddr dst) s
  | .global =>
    match s.writePages e.ctx dst bs.length with
    | .error (code, va) => .failed code va s
    | .ok (pages, s1) =>
      let (k, s2) := s1.fresh
      let bs := (List.range bs.length).map fun i => match s2.writtenSince e (physOf pages (dst + i)) with
        | some b => if (Config.freeByte k i).getLsbD 0 then b else bs.getD i 0
        | none => bs.getD i 0
      s2.landHeld e.ctx (EngineOp.key e) e.held (linesOver pages dst bs bad)

/-- Bytes that an engine of context x moved are charged to its partition: on its die, and on the stack of each global
piece (21 R375). -/
def chargeMove (s : State) (x bytes : Nat) (ranges : List (Nat × Nat)) : State :=
  let p := s.partOf x
  let ps := (ranges.flatMap fun r => s.placesOf x r.1 r.2).filter fun q => decide (q.2.1 / 2 ^ 40 = s.pkg.number)
  ps.foldl (fun (s : State) q => s.charge p (8 + q.2.1 / 2 ^ 36 % 16) 0 q.2.2) (s.charge p (dieOf (coreOf x)) 0 bytes)

/-- The lines of global memory that an operation reads. -/
def engineLines (s : State) (e : EngineOp) : List Nat :=
  match e.kind with
  | .copy _ src len => s.globalLines e.ctx src len
  | .deck a k => s.globalLines e.ctx a (64 * k)
  | .block base lines => s.globalLines e.ctx base (128 * lines)
  | .coll va => s.globalLines e.ctx va 64 ++ s.globalLines e.ctx (collDesc e.data).src (e.data.length - 64)
  | _ => []

/-- The turn of an operation of core n at the memory for lines that it reads, which the slices then hold (22 R378, R379). -/
def engineTurn (s : State) (n id : Nat) (ls : List Nat) : Bool × State :=
  match s.memoryTurn (8000 + n) id ls with
  | (false, s1) => (false, s1)
  | (true, s1) => (true, s1.touchLines ls false)

/-- Whether a lookup of a range by an operation of core n waits at a shoot-down: one begun since the operation forked
(22 R388). -/
def opShot (s : State) (n : Nat) (e : EngineOp) (va len : Nat) : Bool :=
  s.shoots.any fun h =>
    decide (h.part = s.partOf e.ctx ∧ va < h.va + h.len ∧ h.va < va + len) && !h.engines.contains (n, e.id)

/-! ### Multicast (10 R250, R251, 11 R260) -/

/-- A granule refused by core rc: trap 0x0A for the context whose bufhold set the bit, or a log entry (10 R251). -/
def refuseGranule (s : State) (n rc g : Nat) : State :=
  let c := (s.core rc).st.holders.get 8 g
  let x := 8 * rc + c
  if 8 ≤ c ∨ (s.ctx x).iss.phase = .free ∨ (s.ctx x).iss.phase = .saved then s.log 0 0x0A (s.partOf (8 * rc)) (2048 * g)
  else if (s.ctx x).trap.pending.any fun t => t.code = 0x0A then
    s.modTrap x fun k => { k with pending := k.pending.map fun t =>
      if t.code = 0x0A then
        { t with info := BitVec.ofNat 64 (bits t.info 15 0 + min (bits t.info 23 16 + 1) 255 * 2 ^ 16) }
      else t }
  else s.pend x ⟨0x0A, 15, BitVec.ofNat 64 (2048 * g), BitVec.ofNat 64 (n + 2 ^ 16), .boundary⟩

/-- The decisions on the granules a piece touches, each taken once in a landing. -/
def decideGranules (n rc : Nat) : List Nat → State → Landed → Landed × State
  | [], s, l => (l, s)
  | g :: gs, s, l =>
    if l.accepted.contains g ∨ l.refused.contains g then decideGranules n rc gs s l
    else if (s.core rc).st.inUse.getLsbD g then
      decideGranules n rc gs (s.refuseGranule n rc g) { l with refused := l.refused ++ [g] }
    else decideGranules n rc gs s { l with accepted := l.accepted ++ [g] }

/-- The granules that k bytes at a touch. -/
def granulesOf (a k : Nat) : List Nat := (List.range ((a + k - 1) / 2048 - a / 2048 + 1)).map (· + a / 2048)

/-- Writes the sectors of a piece at offset `done` of a landing that lie in accepted granules and that `want` selects by their
index in the piece (08 R197). A landing's base is a multiple of 32. -/
def writePiece (s : State) (rc base : Nat) (data : List (BitVec 8)) (poison : List Nat) (accepted : List Nat) (done k : Nat)
    (want : Nat → Bool) : State :=
  (List.range (k / 32)).foldl (fun (s : State) i =>
    let o := done + 32 * i
    if accepted.contains ((base + o) / 2048) && want i then
      s.writeStore false rc (base + o) ((data.drop o).take 32)
        ((poison.filter fun j => decide (o ≤ j ∧ j < o + 32)).map (· - o))
    else s) s

/-- The bytes of a piece in accepted granules. -/
def pieceBytes (base : Nat) (accepted : List Nat) (done k : Nat) : Nat :=
  32 * ((List.range (k / 32)).filter fun i => accepted.contains ((base + done + 32 * i) / 2048)).length

/-- Adds to the count alone. -/
def countLanding (s : State) (x rc boff : Nat) : State :=
  s.setBarrier x (.store rc boff) ((s.barrierAt (.store rc boff)).arrive 0 true)

/-- The next piece of a landing in core rc: the new progress and the state. Sectors that landed early are not written again.
A piece that writes nothing is no arrival (10 R250, 11 R260). DESIGN CHOICE (log entry 66): the address of a stray's record is
the receiver's own window address of the barrier. -/
def landPiece (s : State) (n rc x : Nat) (base len boff : Nat) (data : List (BitVec 8)) (poison : List Nat) (l : Landed) :
    Landed × State :=
  let k := min 128 (len - l.done)
  let r := decideGranules n rc (granulesOf (base + l.done) k) s l
  let s := r.2.writePiece rc base data poison r.1.accepted l.done k fun i => !l.sectors.contains i
  let h : Home := .store rc boff
  let armed := (s.barrierAt h).armed
  let wrote := pieceBytes base r.1.accepted l.done k
  let l := { r.1 with done := l.done + k, last := some (s.cyc n), sectors := [] }
  if wrote = 0 then (l, s)
  else ({ l with armed := some armed },
    if armed then s.setBarrier x h ((s.barrierAt h).arrive wrote false)
    else (s.mendBarrier h).stray rc x (windowBase + 0x100000 + boff))

/-- Whether no later piece of a landing is an arrival: it has ended, or every granule that is left has been refused. -/
def Landed.over (l : Landed) (base len : Nat) : Bool :=
  decide (len ≤ l.done) || (granulesOf (base + l.done) (len - l.done)).all l.refused.contains

/-- A piece with what it adds to the count: 1 where it shows that the last arrival has come, if that one met the barrier armed: the
last arrival itself, where no granule after it is undecided. DEDUCED (log entry 59): where only a refusal or the end shows which
piece was the last arrival, the count rises there (11 R260). -/
def landNext (s : State) (n rc x : Nat) (base len boff : Nat) (data : List (BitVec 8)) (poison : List Nat) (l : Landed) :
    Landed × State :=
  let r := s.landPiece n rc x base len boff data poison l
  if !Landed.over l base len && Landed.over r.1 base len && decide (r.1.armed = some true) then (r.1, r.2.countLanding x rc boff)
  else r

/-- A multicast with its source bytes, which it reads once (10 R250). DESIGN CHOICE (log entry 75): it reads the X-store as it
stands when its landing begins; a program that writes the source before breaks a rule (08 R196, 00 R7). -/
def withSource (s : State) (n : Nat) (e : EngineOp) (base len : Nat) : EngineOp × State :=
  if !e.data.isEmpty then (e, s)
  else
    let st := (s.core n).st
    ({ e with data := st.xstore.read base len, poison := badOffsets st.xpoison base len }, s.mend n .xstore (sectorsOf base len))

def noLanding : Landed := ⟨0, [], [], none, none, []⟩

/-- Whether the next piece of a landing may land in this cycle: the engine port takes one a cycle (08 R176, 10 R250). -/
def pieceDue (s : State) (n len mask : Nat) (at_ : BitVec 64) (q : Nat) (l : Landed) : Bool :=
  decide (q < 4 ∧ mask / 2 ^ q % 2 = 1 ∧ l.done < len ∧ at_.toNat ≤ s.cyc n) && l.last.all fun t => decide (t ≠ s.cyc n)

/-- Some sectors of a landing's next piece have landed, by the free value k, each in a granule that is not refused and accepted
with it (08 R197). -/
def pieceEarly (s : State) (rc base len : Nat) (data : List (BitVec 8)) (poison : List Nat) (k : Nat) (l : Landed) :
    Landed × State :=
  let m := min 128 (len - l.done)
  let at_ := fun (i : Nat) => (base + l.done + 32 * i) / 2048
  let open_ := fun (g : Nat) => l.accepted.contains g || (!l.refused.contains g && !(s.core rc).st.inUse.getLsbD g)
  let secs := (List.range (m / 32)).filter fun i =>
    !l.sectors.contains i && open_ (at_ i) && (Config.freeByte k (8 * rc + i)).getLsbD 1
  let l := { l with
    accepted := l.accepted ++ (distinct (secs.map at_)).filter fun g => !l.accepted.contains g, sectors := l.sectors ++ secs }
  (l, s.writePiece rc base data poison l.accepted l.done m secs.contains)

/-! ### Sectors that land before the others (08 R197) -/

/-- The sectors of piece j of a collective's result at a local address b that have not landed. -/
def pieceLeft (e : EngineOp) (j b len : Nat) : List Nat := (moveSectors b len).filter fun i => !e.sectors.contains (65536 * j + i)

/-- Some sectors of the pieces that a collective lands in local stores have landed, by the free value k (08 R197). -/
def piecesEarly (s : State) (n k : Nat) (e : EngineOp) (ps : List (Nat × Nat × List (BitVec 8) × List Nat)) : State :=
  let r := ps.foldl (fun (acc : EngineOp × State) p =>
    let go := fun (wst : Bool) (c b : Nat) =>
      let secs := (pieceLeft acc.1 p.1 b p.2.2.1.length).filter fun i => (Config.freeByte k (64 * p.1 + i)).getLsbD 1
      ({ acc.1 with sectors := acc.1.sectors ++ secs.map (65536 * p.1 + ·) },
        acc.2.landSectors wst c b p.2.2.1 p.2.2.2 secs)
    match placeOf n p.2.1 p.2.2.1.length with
    | .wstore c b => go true c b
    | .xstore c b => go false c b
    | _ => acc) (e, s)
  r.2.setEngine n r.1

/-- Some sectors of a move in flight to a local store, of the next pieces of a multicast, or of a collective's result have landed
before the others, by a free value (08 R197, 10 R237; log entry 6). -/
def landEarly (s : State) (n id : Nat) : State :=
  match s.engine n id with
  | none => s
  | some e =>
    let (k, s) := s.fresh
    let early := fun (s : State) (e : EngineOp) (dst src : Nat) (data : List (BitVec 8)) =>
      if !(s.channelLines (s.globalLines e.ctx src data.length)).all (fun l => !s.channelHolds (128 * l)) then s
      else
        let (j, s) := s.fresh
        let data := s.copyBytes e.ctx j dst src data
        let go := fun (wst : Bool) (c b : Nat) =>
          let secs := (moveSectors b data.length).filter fun i => !e.sectors.contains i && (Config.freeByte k i).getLsbD 1
          (s.landSectors wst c b data e.poison secs).setEngine n { e with sectors := e.sectors ++ secs }
        match placeOf n dst data.length with
        | .wstore c b => go true c b
        | .xstore c b => go false c b
        | _ => s
    if e.status = 1 || !(Config.freeByte k 0).getLsbD 0 then s
    else match e.kind with
      | .copy dst src _ => early s e dst src e.data
      | .chain p => match s.chainRecord e p with
        | none => s
        | some (r, view, s1) =>
          if r.flags % 2 = 0 || s.opShot n e p 32 || s.opShot n e r.src r.len then s
          else match s1.recordData e r view with
            | .error _ => s
            | .ok (data, _, e, s2) => early (s2.setEngine n e) e r.dst r.src data
      | .multicast base len mask boff at_ landed =>
        if s.cyc n < at_.toNat then s
        else
          let (e, s) := s.withSource n e base len
          let r := (List.range 4).foldl (fun (acc : Tab Landed × State) q =>
            let l := acc.1.get noLanding q
            if acc.2.pieceDue n len mask at_ q l then
              let p := acc.2.pieceEarly (n / 4 * 4 + q) base len e.data e.poison k l
              (acc.1.put q p.1, p.2)
            else acc) (landed, s)
          r.2.setEngine n { e with kind := .multicast base len mask boff at_ r.1 }
      | .coll _ => match e.result with
        | none => s
        | some q => s.piecesEarly n k e ((List.range q.2.length).zip q.2)
      | _ => s

/-! ### Load-blocks (10 R253, R254) -/

/-- Whether the slice of a block's first line has room for it: 1,024 lines of load-blocks, and 8 ways of a set for lines that
are pinned or in load-blocks. Lines that no slice of the package caches find none (22 R377, R382; log entry 70). -/
def blockRoom (s : State) (slice : Nat) (pas : List Nat) : Bool :=
  decide (((s.blocks.filter fun b => decide (b.slice = slice)).foldl (fun acc b => acc + b.pas.length) 0) + pas.length ≤ 1024)
    && pas.all fun l => s.cacheable l && ((s.fixedIn (s.inSlice slice l)).contains l || decide ((s.fixedIn (s.inSlice slice l)).length < 8))

/-- The lines of a block leave their hashed homes for the block's slice, which becomes their home (10 R254). -/
def homeBlock (s : State) (b : Block) : State :=
  let s := b.pas.foldl dropL2 s
  ({ s with blocks := s.blocks ++ [b] } : State).touchLines b.pas false

/-! ### Shuttle rings (10 R256 to R259) -/

/-- A failed ring; an uncorrectable entry that its walk met is logged (10 R257, 22 R386). -/
def failRing (s : State) (n h tile code va : Nat) : State :=
  let r := s.ring n h
  let s := match r.owner with
    | some x => if code = 0x06 then s.logWalk (s.partOf x) va else s
    | none => s
  s.setRing n h { r with failed := some (tile, code, BitVec.ofNat 64 va), worst := if r.output then 1 else r.worst }

/-- The stream record is read with the view of the fork; fields out of their ranges and a tile larger than a slot fail the
ring (10 R256, R257; log entry 22). The read waits for its turn at the memory (22 R377, R378). -/
def readRing (s : State) (n h x : Nat) : State :=
  let r := s.ring n h
  let lines := s.globalLines x r.recAddr 64
  match s.readGlobal n (s.partOf x) r.own r.snap r.eo r.view x r.recAddr 64 with
  | .error (code, va) => s.failRing n h 0 code va
  | .ok (bs, bad, s0) =>
    let q := s0.takeReads
    match q.2.memoryTurn (9000 + n) h lines with
    | (false, s1) => s1
    | (true, s1) =>
    let s1 := (s1.touchLines lines false).modMem x fun m => { m with engineReads := q.1.map (fun v => (slotKey h 0, v)) ++ m.engineReads }
    let f := fun o k => ofBytesLE ((bs.drop o).take k)
    let rowb := f 24 4
    let rows := f 28 4
    if !bad.isEmpty then s1.failRing n h 0 0x08 r.recAddr
    else if rowb % 32 ≠ 0 ∨ rowb = 0 ∨ 65536 < rowb ∨ rows = 0 ∨ 4096 < rows ∨ f 32 4 = 0 then
      s1.failRing n h 0 0x05 r.recAddr
    else if r.ssize < rowb * rows then s1.failRing n h 0 0x05 (f 0 8)
    else s1.setRing n h { r with
      read := true, vbase := f 0 8, rstride := sextN (f 8 8) 64, tstride := sextN (f 16 8) 64
      rowb := rowb, rows := rows, tiles := f 32 4 }

/-- The addresses of a tile's rows, modulo 2^64. -/
def tileRows (r : Ring) (tile : Nat) : List Nat :=
  (List.range r.rows).map fun (j : Nat) => lowBits ((r.vbase : Int) + (tile : Int) * r.tstride + (j : Int) * r.rstride) 64

/-- The first page of a row that is not HBM of this package: the shuttle has no path to it (01 R21). -/
def offPackage (s : State) (pages : List (Nat × Nat)) : Option Nat :=
  (pages.find? fun q => decide (q.2 / 2 ^ 40 ≠ s.pkg.number)).map (·.1)

/-- The bytes of rows as the shuttle reads them. A row outside the package's own HBM fails with 0x07 (01 R21; log
entry 70). -/
def readRows (n p x : Nat) (r : Ring) : List Nat → Nat → State → Except (Nat × Nat) (List (BitVec 8) × List Nat × State)
  | [], _, s => .ok ([], [], s)
  | va :: vas, off, s =>
    match s.translateRange n p va r.rowb .read with
    | .error e => .error e
    | .ok (pages, _) =>
      match s.offPackage pages with
      | some a => .error (0x07, a)
      | none =>
        match s.readGlobal n p r.own r.snap r.eo r.view x va r.rowb with
        | .error e => .error e
        | .ok (bs, bad, s1) =>
          match readRows n p x r vas (off + r.rowb) s1 with
          | .error e => .error e
          | .ok (bs', bad', s2) => .ok (bs ++ bs', bad.map (· + off) ++ bad', s2)

/-- The line writes of rows; every page is checked before a byte is written. -/
def rowLines (x : Nat) (r : Ring) (bs : List (BitVec 8)) (bad : List Nat) :
    List Nat → Nat → State → Except (Nat × Nat) (List LineWrite × State)
  | [], _, s => .ok ([], s)
  | va :: vas, off, s =>
    match s.writePages x va r.rowb with
    | .error e => .error e
    | .ok (pages, s1) =>
      match s1.offPackage pages with
      | some a => .error (0x07, a)
      | none =>
        let here := (bad.filter fun i => decide (off ≤ i ∧ i < off + r.rowb)).map (· - off)
        match rowLines x r bs bad vas (off + r.rowb) s1 with
        | .error e => .error e
        | .ok (ls, s2) => .ok (linesOver pages va ((bs.drop off).take r.rowb) here ++ ls, s2)

/-- Whether an input ring has a tile to fill and a free slot for it. -/
def mayFill (r : Ring) : Bool :=
  r.owner.isSome && !r.output && r.failed.isNone && r.read && decide (r.moved < r.tiles)
    && decide (r.moved - r.head < r.count)

/-- The number by which a shoot-down names the fill or pull of a ring's tile. -/
def fillMark (h tile : Nat) : Nat := 2 ^ 40 + 16 * tile + h

/-- Whether the lookups of a ring's next tile wait at a shoot-down; a tile whose fill has begun has been looked up, and a pull that
was in flight at the request is waited for (22 R388). -/
def rowsShot (s : State) (x h : Nat) (r : Ring) : Bool :=
  r.filling.isNone && s.shoots.any fun w => decide (w.part = s.partOf x) && !w.engines.contains (coreOf x, fillMark h r.moved)
    && (tileRows r r.moved).any fun va => decide (va < w.va + w.len ∧ w.va < va + r.rowb)

/-- The tile that a ring fills next, read if it has not been: the ring and the state, or the failure (10 R258). What the
fill reads waits for the join of its slot (12 R274). -/
def startFill (s : State) (n h x : Nat) : Except (Nat × Nat) (List (BitVec 8) × List Nat × State) :=
  let r := s.ring n h
  match r.filling with
  | some q => .ok (q.1, q.2, s)
  | none =>
    match readRows n (s.partOf x) x r (tileRows r r.moved) 0 s with
    | .error e => .error e
    | .ok (bs, bad, s1) =>
      let q := s1.takeReads
      let key := if r.held then heldKey (slotKey h (r.moved % r.count)) else slotKey h (r.moved % r.count)
      let s2 := q.2.modMem x fun m => { m with engineReads := q.1.map (fun v => (key, v)) ++ m.engineReads }
      .ok (bs, bad, s2.setRing n h { r with filling := some (bs, bad), sectors := [] })

/-- The sectors of a fill that have not landed. -/
def fillLeft (r : Ring) (b len : Nat) : List Nat := (moveSectors b len).filter fun i => !r.sectors.contains i

/-- Some sectors of a fill in progress land before the others, by a free value (08 R197; log entry 6). -/
def fillEarly (s : State) (n h : Nat) : State :=
  let r := s.ring n h
  match r.owner with
  | none => s
  | some x =>
    let (k, s) := s.fresh
    let lines := (tileRows r r.moved).flatMap fun va => s.globalLines x va r.rowb
    if !mayFill r || s.rowsShot x h r || !(Config.freeByte k 0).getLsbD 0
        || !(s.channelLines lines).all (fun l => !s.channelHolds (128 * l)) then s
    else match s.startFill n h x with
      | .error _ => s
      | .ok (bs, bad, s1) =>
        let r := s1.ring n h
        let b := r.base + r.moved % r.count * r.ssize
        let secs := (fillLeft r b bs.length).filter fun i => (Config.freeByte k i).getLsbD 1
        (s1.landSectors r.wstore n b bs bad secs).setRing n h { r with sectors := r.sectors ++ secs }

/-! ### Collectives (21 R373, R374) -/

/-- A contribution with its package and arrival time. -/
structure Part where
  pkg : Nat
  arrival : Nat
  data : List (BitVec 8)
deriving DecidableEq, Repr

def insertPart (p : Part) : List Part → List Part
  | [] => [p]
  | q :: t => if p.arrival < q.arrival ∨ (p.arrival = q.arrival ∧ p.pkg < q.pkg) then p :: q :: t else q :: insertPart p t

/-- Element i of a contribution. -/
def partWord (p : Part) (i : Nat) : Nat := ofBytesLE ((p.data.drop (4 * i)).take 4)

/-- One step of ops 1 to 3. -/
def combineWord (op a b : Nat) : Nat :=
  match op with
  | 1 => fmtF32.roundRn (exactAdd .rn (fmtF32.value a) (fmtF32.value b)).1
  | 2 => floatPick fmtF32 true a b
  | _ => (a + b) % 2 ^ 32

/-- What a collective writes: (address, bytes) pieces, combined in arrival order. -/
def collResult (c : CollDesc) (ps : List Part) : List (Nat × List (BitVec 8)) :=
  match c.op with
  | 0 => []
  | 4 => ps.map fun p => (c.dst + p.pkg * c.count, (p.data ++ List.replicate (c.count - p.data.length) 0).take c.count)
  | 5 => match ps.find? fun p => p.pkg = c.root with
    | some p => [(c.dst, p.data.take c.count)]
    | none => []
  | _ => match ps with
    | [] => []
    | p :: rest => [(c.dst, (List.range c.count).flatMap fun i =>
        bytesLE 4 (rest.foldl (fun acc q => combineWord c.op acc (partWord q i)) (partWord p i)))]

/-- The poisoned offsets of a collective's piece at an address, from the issuer's poisoned source bytes. -/
def collPoison (c : CollDesc) (pkg : Nat) (poison : List Nat) (piece : Nat) : List Nat :=
  let mine := (poison.filter fun i => decide (64 ≤ i)).map (· - 64)
  match c.op with
  | 4 => if piece = c.dst + pkg * c.count then mine else []
  | 5 => if c.root = pkg then mine else []
  | _ => mine

/-- Lands what is left of the pieces of a collective's result, one after another. -/
def movePieces (n : Nat) (e : EngineOp) : List (Nat × Nat × List (BitVec 8) × List Nat) → State → Move
  | [], s => .landed s
  | (j, a, bs, bad) :: ps, s =>
    match placeOf n a bs.length with
    | .wstore c b => movePieces n e ps (s.landSectors true c b bs bad (pieceLeft e j b bs.length))
    | .xstore c b => movePieces n e ps (s.landSectors false c b bs bad (pieceLeft e j b bs.length))
    | _ => match s.moveBytes n e.ctx e.tag a e.held bs bad with
      | .landed s1 => movePieces n e ps s1
      | m => m

/-- The destination ranges of a collective: address and bytes (21 R373). -/
def CollDesc.ranges (c : CollDesc) : List (Nat × Nat) :=
  match c.op with
  | 0 => []
  | 4 => ((List.range 64).filter fun g => decide (c.group / 2 ^ g % 2 = 1)).map fun g => (c.dst + g * c.count, c.count)
  | 5 => [(c.dst, c.count)]
  | _ => [(c.dst, 4 * c.count)]

/-- The undefined destination of a collective that failed (21 R373). -/
def spoilColl (s : State) (n : Nat) (e : EngineOp) (c : CollDesc) : State :=
  (CollDesc.ranges c).foldl (fun (s : State) r => s.spoilRange n e.ctx e.tag r.1 r.2 e.held) s

/-- The result of a collective, once every part has come: its skew, and the pieces that it lands. -/
def collPieces (own : Nat) (e : EngineOp) (va : Nat) (ps : List Part) : Nat × List (Nat × List (BitVec 8) × List Nat) :=
  let c := collDesc e.data
  let parts := ps.foldl (fun (acc : List Part) p => insertPart p acc) [⟨own, e.issued, e.data.drop 64⟩]
  let skew := (parts.foldl (fun a p => max a p.arrival) 0 - e.issued) / 1000
  (skew, ((collResult c parts).map fun q => (q.1, q.2, collPoison c own e.poison q.1)) ++ [(va + 40, bytesLE 8 skew, [])])

/-- Whether some bytes of a result land in a local store. -/
def landsLocal (n : Nat) (ps : List (Nat × List (BitVec 8) × List Nat)) : Bool :=
  ps.any fun p => !p.2.1.isEmpty && match placeOf n p.1 p.2.1.length with
    | .wstore _ _ => true
    | .xstore _ _ => true
    | _ => false

/-- The entry of die d that takes a late package's freed power: the lowest one that keeps every open step on time and
lengthens a step of this duration by the skew (21 R374; log entry 23). -/
def skewEntry (s : State) (d dur skew : Nat) : Option Nat :=
  let cur := (s.entryAt d (s.die d).entry).fmhz
  if (s.die d).gated then none
  else (s.usableEntries d).find? fun i =>
    let f := (s.entryAt d i).fmhz
    decide (f < cur ∧ dur * f + skew * f ≤ dur * cur) && ((s.die d).steps.filter (·.tracked)).all (s.onTime f)

/-- The report of a completed collective to the governor, which lowers the entries of the package's dies after four late ones
under a key, or with host assistance reports the power that this frees. A collective outside an open step breaks the run
(21 R374). -/
def reportSkew (s : State) (x key skew : Nat) : State :=
  let k := s.stepKey x
  let dur := ((s.findStep k.1 k.2.1 k.2.2).filter fun q => q.2.tracked).map fun q => s.ptime.toNat - q.2.startTime.toNat
  let late := match dur with | some t => decide (t < 20 * skew) | none => false
  let h := ((skew, late) :: s.recs.skews.get [] key).take 4
  let s : State := { s with recs := { s.recs with skews := s.recs.skews.put key h } }
  if h.length = 4 ∧ h.all (·.2) ∧ s.governing then
    (List.range 8).foldl (fun (s : State) d =>
      match s.skewEntry d (dur.getD 0) skew with
      | none => s
      | some i =>
        let saved := s.stepPower d (s.entryAt d (s.die d).entry) (fun _ => true) - s.stepPower d (s.entryAt d i) (fun _ => true)
        if s.pkg.hostGovernor then { s with recs := { s.recs with freed := s.recs.freed ++ [(d, saved)] } }
        else { s with agenda := s.agenda ++ [.clockChange d i] }) s
  else s

/-- The result of a collective lands: the whole of what is left of it, with its report (21 R373, R374). -/
def landColl (s : State) (n : Nat) (e : EngineOp) (c : CollDesc) (r : Nat × List (Nat × List (BitVec 8) × List Nat)) : State :=
  match movePieces n e ((List.range r.2.length).zip r.2) s with
  | .landed s1 =>
    ((s1.chargeMove e.ctx ((e.data.length - 64) + ((CollDesc.ranges c).map (·.2)).foldl (· + ·) 0)
      ((c.src, e.data.length - 64) :: CollDesc.ranges c)).finish n e (if e.poison.isEmpty then 0 else 3) 0).reportSkew e.ctx c.key r.1
  | .failed _ a s1 => (s1.spoilColl n e c).finish n e 1 (BitVec.ofNat 64 a)
  | .waits => s
  | .gone s1 => s1

end State

open State

/-! ### Copies and chains -/

/-- COPY_COMPLETE: once its source lines have been served, the bytes of a copy land and its tag completes; a failed one leaves
its destination undefined (10 R237, R238, 22 R379). -/
def execCopyComplete (n id : Nat) (s : State) : Out :=
  let s := s.landDue n
  .next <| match s.engine n id with
  | none => s
  | some e => match e.kind with
    | .copy dst src len =>
      let fail := fun (s : State) (fa : BitVec 64) =>
        (s.spoilRange n e.ctx (EngineOp.key e) dst len e.held).finish n e 1 fa
      if s.opShot n e dst len then s
      else if e.status = 1 then fail s e.fa
      else match s.engineTurn n id (s.engineLines e) with
      | (false, s1) => s1
      | (true, s1) =>
        let (k, s2) := s1.fresh
        match s2.moveOp n e dst (s2.copyBytes e.ctx k dst src e.data) e.poison with
        | .landed s3 =>
          ((s3.chargeMove e.ctx len [(src, len), (dst, len)]).finish n e (if e.poison.isEmpty then 0 else 3) 0).sampleSince
            e.ctx 4 e.issued
        | .failed _ va s3 => fail s3 (BitVec.ofNat 64 va)
        | .waits => s1
        | .gone s3 => s3
    | _ => s

/-- What follows a record: its own bit is cleared, and the chain goes on or ends (10 R240). -/
def State.afterRecord (s : State) (n : Nat) (e : EngineOp) (p : Nat) (r : ChainRecord) (st : Nat) : State :=
  let flags := bytesLE 4 (r.flags / 2 * 2)
  match s.writePages e.ctx (p + 20) 4 with
  | .error (_, va) => s.finish n e 1 (BitVec.ofNat 64 va)
  | .ok (pages, s1) =>
    let ls := linesOver pages (p + 20) flags []
    match s1.landHeld e.ctx e.tag e.held ls with
    | .failed _ va s2 => s2.finish n e 1 (BitVec.ofNat 64 va)
    | .waits => s1
    | .gone s2 => s2
    | .landed s2 =>
      let st := (worse (e.status, 0) (st, 0)).1
      if r.next = 0 then (s2.finish n e st 0).sampleSince e.ctx 4 e.issued
      else s2.setEngine n { e with
        kind := .chain r.next, status := st, own := ls.foldl addLine e.own, started := false, sectors := [], data := []
        poison := [] }

/-- CHAIN_RECORD: one record of a chain (10 R240). -/
def execChainRecord (n id : Nat) (s : State) : Out :=
  let s := s.landDue n
  .next <| match s.engine n id with
  | none => s
  | some e => match e.kind with
    | .chain p =>
      match s.chainRecord e p with
      | none => s.finish n e 1 (BitVec.ofNat 64 p)
      | some (r, view, s1) =>
        let fail := fun (s : State) (e : EngineOp) (va : Nat) =>
          (s.spoilRange n e.ctx e.tag r.dst r.len e.held).finish n e 1 (BitVec.ofNat 64 va)
        if s.opShot n e p 32 || s.opShot n e r.src r.len || s.opShot n e r.dst r.len then s
        else if r.flags % 2 = 0 then (s1.finish n e e.status e.fa).sampleSince e.ctx 4 e.issued
        else match s1.recordData e r view with
        | .error (_, va) => fail s1 e va
        | .ok (data, bad, e, s2) =>
          match s2.engineTurn n id (s2.globalLines e.ctx p 32 ++ s2.globalLines e.ctx r.src r.len) with
          | (false, s3) => s3.setEngine n e
          | (true, s3) =>
            let (k, s4) := s3.fresh
            match s4.moveOp n e r.dst (s4.copyBytes e.ctx k r.dst r.src data) bad with
            | .landed s5 =>
              (s5.chargeMove e.ctx r.len [(r.src, r.len), (r.dst, r.len)]).afterRecord n (s5.seeLanding e r.dst r.len) p r
                (if bad.isEmpty then 0 else 3)
            | .failed _ va s5 => fail s5 e va
            | .waits => s3.setEngine n e
            | .gone s5 => s5
    | _ => s

/-- CANCEL_ACKNOWLEDGE: an operation asked to cancel completes cancelled (10 R241). -/
def execCancelAcknowledge (n id : Nat) (s : State) : Out :=
  let s := s.landDue n
  .next <| match s.engine n id with
  | none => s
  | some e => if e.cancel then s.acknowledge n e else s

/-! ### Multicast -/

/-- MULTICAST_PIECE_LANDING: the next piece of a multicast in the core of quad index q (10 R250, 11 R260). -/
def execMulticastPieceLanding (n id q : Nat) (s : State) : Out :=
  let rc := n / 4 * 4 + q % 4
  let s := (s.landDue n).landDue rc
  .next <| match s.engine n id with
  | none => s
  | some e => match e.kind with
    | .multicast base len mask boff at_ landed =>
      let l := landed.get noLanding q
      if !s.pieceDue n len mask at_ q l then s
      else
        let (e, s) := s.withSource n e base len
        let r := s.landNext n rc e.ctx base len boff e.data e.poison l
        let r := (r.1, if r.1.armed = some true then r.2.noteJoin rc boff e.knows else r.2)
        let landed := landed.put q r.1
        let status := (worse (e.status, 0) (if r.1.refused.isEmpty then (if e.poison.isEmpty then 0 else 3) else 4, 0)).1
        let e : EngineOp := { e with kind := .multicast base len mask boff at_ landed, status := status }
        if (List.range 4).all fun k => decide (mask / 2 ^ k % 2 = 0 ∨ len ≤ (landed.get noLanding k).done) then
          (r.2.chargeMove e.ctx len []).finish n e status 0
        else r.2.setEngine n e
    | _ => s

/-! ### Load-blocks, rings, streams, decks -/

/-- LOAD_BLOCK_FILL: the block takes its place in the home slice of its first line, where there is room, and its lines are
resident once they have been served (10 R253, R254, 22 R382). -/
def execLoadBlockFill (n id tag : Nat) (s : State) : Out :=
  let s := s.landDue n
  .next <| match s.engine n id with
  | none => s
  | some e => match e.kind with
    | .block base lines =>
      if decide (e.tag ≠ tag) || s.opShot n e base (128 * lines) then s
      else match s.translateRange n (s.partOf e.ctx) base (128 * lines) .read with
      | .error (_, va) => s.finish n e 1 (BitVec.ofNat 64 va)
      | .ok (pages, s1) =>
        let pas := (List.range lines).map fun i => physOf pages (base + 128 * i) / 128
        let slice := s1.homeSlice (pas.headD 0)
        if !s1.blockRoom slice pas || pas.any (fun l => s1.blocks.any fun b => b.pas.contains l) then s1.finish n e 4 0
        else match s1.memoryTurn (8000 + n) id pas with
        | (false, s2) => s2
        | (true, s2) =>
          let bad := pas.any fun l => (List.range 4).any fun k => s2.poison.get (4 * l + k) != 0
          let s3 := s2.homeBlock { slice := slice, ctx := e.ctx, tag := e.tag, base := base, lines := lines, pas := pas }
          (s3.chargeMove e.ctx (128 * lines) [(base, 128 * lines)]).finish n e (if bad then 3 else 0) 0
    | _ => s

/-- SHUTTLE_FILL: the record is read, or the next free slot of an input ring is filled, once the lines of its tile have been
served (10 R257, R258, 22 R379). -/
def execShuttleFill (n h : Nat) (s : State) : Out :=
  let s := s.landDue n
  let r := s.ring n h
  .next <| match r.owner with
  | none => s
  | some x =>
    if r.output ∨ r.failed.isSome then s
    else if r.read = false then (if s.shooting (s.partOf x) r.recAddr 64 then s else s.readRing n h x)
    else if !mayFill r || s.rowsShot x h r then s
    else match s.startFill n h x with
    | .error (code, va) => s.failRing n h r.moved code va
    | .ok (bs, bad, s1) =>
      match s1.memoryTurn (9000 + n) h ((tileRows r r.moved).flatMap fun va => s1.globalLines x va r.rowb) with
      | (false, s2) => s2
      | (true, s2) =>
        let r := s2.ring n h
        let j := r.moved % r.count
        let b := r.base + j * r.ssize
        let s3 := s2.landSectors r.wstore n b bs bad (fillLeft r b bs.length)
        ((s3.setRing n h { r with
          moved := r.moved + 1, filling := none, sectors := []
          poisoned := if bad.isEmpty then r.poisoned else r.poisoned ++ [j] }).chargeMove
            x bs.length ((tileRows r r.moved).map fun va => (va, r.rowb))).sampleSince x 5 (r.freed.get 0 j)

/-- SHUTTLE_PULL: the record is read, or the oldest done slot of an output ring is written to its tile in the turn
of its lines (10 R258, 22 R377). -/
def execShuttlePull (n h : Nat) (s : State) : Out :=
  let s := s.landDue n
  let r := s.ring n h
  .next <| match r.owner with
  | none => s
  | some x =>
    if r.output = false ∨ r.failed.isSome then s
    else if r.read = false then (if s.shooting (s.partOf x) r.recAddr 64 then s else s.readRing n h x)
    else if r.tiles ≤ r.moved ∨ s.rowsShot x h r then s
    else match r.queued with
    | [] => s
    | q :: qs =>
      let rows := tileRows r r.moved
      let bad := q.2.filter fun i => decide (i < r.rows * r.rowb)
      match rowLines x r q.1 bad rows 0 s with
      | .error (code, va) => s.failRing n h r.moved code va
      | .ok (ls, s1) =>
        let j := r.moved % r.count
        match s1.memoryTurn (9000 + n) h (if r.held then [] else distinct (ls.map (·.line))) with
        | (false, s2) => s2
        | (true, s2) => match s2.landHeld x (slotKey h j) r.held ls with
        | .failed code va s2 => s2.failRing n h r.moved code va
        | .waits => s
        | .gone s2 => s2
        | .landed s2 => (s2.setRing n h { r with
            moved := r.moved + 1, queued := qs, freed := r.freed.put j s.pkg.now
            worst := (worse (r.worst, 0) (if bad.isEmpty then 0 else 3, 0)).1 }).chargeMove
              x (r.rows * r.rowb) (rows.map fun va => (va, r.rowb))

/-- The partition whose fills a stream's are: that of its owner, of which a save record tells while it is saved alone (09 R213). -/
def State.streamPart (s : State) (n : Nat) (v : Stream) : Nat :=
  if v.owner < 6144 then s.partOf v.owner
  else match s.recs.saves.find? fun r => decide (State.awayOwner r.ctx.mem.me = v.owner) with
    | some r => r.part
    | none => s.holderOf n

/-- HEDDLE_ROW_ARRIVAL: a row whose line no slice holds, or held as the stream opened, comes from memory; a row is a use of its
line (09 R216, 22 R382), charged on the die, and on the stack it comes from (09 R213, 21 R375). It ends the interlock waits for
it (23 R396). -/
def execHeddleRowArrival (n h : Nat) (s : State) : Out :=
  let v := s.stream n h
  .next <| match v.asked with
  | [] => s
  | t :: ts =>
    if !v.opened then s
    else
    let l := v.lines.getD (v.arrived % v.count) 0
    match s.memoryTurn (10000 + n) h [l] (if v.cold.contains l && !v.loose.contains l then [l] else []) with
    | (false, s1) => s1
    | (true, s1) =>
      let s1 := if v.loose.contains l then s1 else s1.touchL2 l false
      let s2 := s1.setStream n h { v with arrived := v.arrived + 1, asked := ts, cold := v.cold.filter fun k => ¬ k = l }
      let s2 := (List.range 8).foldl (fun (s : State) c => s.interlockEnds (8 * n + c) (rowKey h) 0x4000 2) s2
      let cold := (v.cold.contains l && !v.loose.contains l) || !(s.channelLines [l]).isEmpty
      let s3 := s2.chargeBytes (s.streamPart n v) n 128 (if cold then some (128 * l) else none)
      if v.owner < 6144 then s3.sampleSince v.owner 2 t else s3

/-- DECK_LOAD_COMPLETE (09 R223). -/
def execDeckLoadComplete (n id : Nat) (s : State) : Out :=
  .next <| match s.engine n id with
  | none => s
  | some e => match e.kind with
    | .deck a k =>
      let ok := decide (e.status = 0)
      let cards := if ok then (List.range k).map fun i => bytesToBits 512 ((e.data.drop (64 * i)).take 64) else []
      match s.engineTurn n id (s.engineLines e) with
      | (false, s1) => s1
      | (true, s1) =>
        ((s1.modCore n fun c => { c with seq := { c.seq with cards := cards, usable := ok, loading := none } }).chargeMove e.ctx
          (64 * k) [(a, 64 * k)]).finish n e e.status e.fa
    | _ => s

/-! ### Collectives and spawns -/

/-- COLL_COMPLETE: the parts of the other packages are an input of the pod. A result that lands in a local store is there before
it lands, sector by sector (08 R197, 21 R373). -/
def execCollComplete (n id : Nat) (peers : List PeerPart) (s : State) : Out :=
  let s := s.landDue n
  .next <| match s.engine n id with
  | none => s
  | some e => match e.kind with
    | .coll va =>
      if e.status = 1 then s.finish n e 1 e.fa
      else
        let own := s.pkg.number
        let c := collDesc e.data
        let others := (List.range 64).filter fun g => decide (g ≠ own ∧ c.group / 2 ^ g % 2 = 1)
        match e.result with
        | some r => if (va, 64) :: CollDesc.ranges c |>.any fun q => s.opShot n e q.1 q.2 then s else s.landColl n e c r
        | none =>
          if !others.all (fun g => peers.any fun q => decide (q.pkg = g)) then s
          else
            let ps := others.filterMap fun g => peers.find? fun q => decide (q.pkg = g)
            match s.engineTurn n id (s.engineLines e) with
            | (false, s1) => s1
            | (true, s1) =>
              if (va, 64) :: CollDesc.ranges c |>.any fun q => s1.opShot n e q.1 q.2 then s1
              else if ps.any fun q => q.cancelled || decide (q.op ≠ c.op ∨ q.count ≠ c.count ∨ q.group ≠ c.group) then
                (s1.spoilColl n e c).finish n e 1 (BitVec.ofNat 64 va)
              else
                let r := collPieces own e va (ps.map fun (q : PeerPart) => State.Part.mk q.pkg q.arrival q.data)
                if landsLocal n r.2 then s1.setEngine n { e with result := some r, sectors := [] } else s1.landColl n e c r
    | _ => s

/-- SPAWN_COMPLETE: the handle of a spawn of context x lands, once the lines of its packet have been served (16 R314,
22 R378). -/
def execSpawnComplete (x : Nat) (s : State) : Out :=
  let s := s.landDue (coreOf x)
  .next <| match (s.ctx x).mem.ops.find? fun o => o.size = 8 with
  | none => s
  | some o =>
    if s.outLongEnough x o then
      match s.memoryTurn x o.id (s.globalLines x o.va o.operand.toNat) with
      | (false, s1) => s1
      | (true, s1) => (s1.touchLines (s.globalLines x o.va o.operand.toNat) false).landOp x o o.value 0
    else s

end Sys2Proof.Machine
end

