-- ==== Sys2Proof/Machine/Cards.lean ====
section
/-! DEFINITION. The card sequencer: steps, copy requests and visits of its cards, alone and in a gang's lock-step
(09 R218 to R229, 13 R282). An event acts on every member of the gang of its core. -/

namespace Sys2Proof.Machine

/-! ### The fields of a card (09 R219) -/

def cardWord (c : BitVec 512) (i : Nat) : Nat := c.toNat / 2 ^ (32 * i) % 2 ^ 32
def cardBit (c : BitVec 512) (word i : Nat) : Bool := decide (cardWord c word / 2 ^ i % 2 = 1)
def cardField (c : BitVec 512) (word hi lo : Nat) : Nat := cardWord c word / 2 ^ lo % 2 ^ (hi + 1 - lo)

/-- What an emitted card does: nothing, an allowed step, or a template the card format does not allow. -/
inductive Template9 where
  | none
  | step (i : Instr)
  | bad
deriving DecidableEq, Repr

def cardStep (c : BitVec 512) : Template9 :=
  if !cardBit c 1 0 then .none
  else match decodeSlot .matrix (cardWord c 0) with
  | .nop => .none
  | .bad => .bad
  | .op i => match i with
    | .mxpushWstore _ _ _ | .mxpushStream _ _ | .mxflip | .mxacc _ _ _ _ _ | .mxbp _ _ _ _ _ _ _
    | .mxdrain _ _ _ _ _ | .mxzero _ _ _ | .mxgang _ _ _ => .step i
    | _ => .bad

/-- The bytes of a card's copy request; 0 issues nothing. -/
def copyLen (c : BitVec 512) : Nat := if cardBit c 1 1 then cardField c 12 23 0 else 0

/-- The card with its copy addresses advanced by cinc. -/
def advanceCopy (c : BitVec 512) : BitVec 512 :=
  let src : Nat := cardWord c 8 + cardWord c 9 * 2 ^ 32
  let dst : Nat := cardWord c 10 + cardWord c 11 * 2 ^ 32
  let src' := lowBits (Int.ofNat src + 128 * sextN (cardField c 13 15 0) 16) 64
  let dst' := lowBits (Int.ofNat dst + 128 * sextN (cardField c 13 31 16) 16) 64
  let keep := c.toNat % 2 ^ 256 + c.toNat / 2 ^ 384 * 2 ^ 384
  BitVec.ofNat 512 (keep + src' * 2 ^ 256 + dst' * 2 ^ 320)

/-- The counter operation of a card. -/
def counterOp (c : BitVec 512) (t : Tab (BitVec 16)) : Tab (BitVec 16) :=
  let i := cardField c 3 1 0
  match cardField c 3 3 2 with
  | 1 => t.put i (t.get 0 i - 1)
  | 2 => t.put i (t.get 0 i + 1)
  | 3 => t.put i (BitVec.ofNat 16 (cardField c 3 31 16))
  | _ => t

/-- The weight of a step (21 R359). -/
def stepWeight : Instr → Nat
  | .mxacc _ _ _ _ _ | .mxbp _ _ _ _ _ _ _ | .mxgang _ _ _ => 20
  | .mxpushWstore _ _ _ | .mxpushStream _ _ | .mxdrain _ _ _ _ _ => 6
  | _ => 2

/-- Where a visit leads: finish, halt, the next card, or a fault's code, address and cause. -/
inductive Next where
  | finish
  | halt
  | card (i : Nat)
  | fault (code fa cause : Nat)
deriving DecidableEq, Repr

namespace State

def seqOf (s : State) (n : Nat) : Sequencer := (s.core n).seq
def modSeq (s : State) (n : Nat) (f : Sequencer → Sequencer) : State := s.modCore n fun c => { c with seq := f c.seq }
def cardAt (s : State) (n : Nat) : BitVec 512 := (s.seqOf n).cards.getD (s.seqOf n).card 0

/-- The members of the deck that runs on core n, finished ones included. -/
def gangCores (s : State) (n : Nat) : List Nat :=
  let q := s.seqOf n
  if q.gang = 0 then [n]
  else (quadCores n q.gang).filter fun m => (s.seqOf m).running && decide ((s.seqOf m).leader = q.leader)

def liveCores (s : State) (n : Nat) : List Nat := (s.gangCores n).filter fun m => !(s.seqOf m).fin

/-- The step member n emits in this visit; a member that is not the leader lets mxgang pass (09 R227). -/
def stepOf (s : State) (n : Nat) : Template9 :=
  let q := s.seqOf n
  match cardStep (s.cardAt n) with
  | .step (.mxgang r h m) => if q.gang ≠ 0 ∧ q.leader ≠ n then .none else .step (.mxgang r h m)
  | t => t

/-- Whether the deck of core n may do something in this cycle: every member of a gang is there, its cores have made
their choice, and none is held or has a damping stall (09 R225, 21 R359, R360). -/
def deckReady (s : State) (n : Nat) : Bool :=
  let q := s.seqOf n
  q.running && !(q.halted && q.savePending)
    && (decide (q.gang = 0) || decide ((s.gangCores n).length = (quadCores n q.gang).length)) && (s.gangCores n).all fun m =>
    decide ((s.core m).iss.tried = some (s.cyc m)) && decide ((s.seqOf m).notBefore ≤ s.cyc m) && !(s.die (dieOf m)).gated
      && decide ((s.core m).iss.dampCyc ≠ some (s.cyc m)) && !s.paused m && !(s.die (dieOf m)).limited.get false (columnOf m)

/-- What the bundle issued in this cycle used; nothing where none issued. -/
def usedNow (s : State) (n : Nat) : Used :=
  if (s.core n).iss.lastIssue = some (s.cyc n) then (s.core n).iss.used else ⟨false, 0, 0, [], false⟩

/-- Weight already issued in this cycle on core n. -/
def weightNow (s : State) (n : Nat) : Nat :=
  ((s.core n).iss.weights.filter fun e => decide (e.1 = s.cyc n)).foldl (fun a e => a + e.2) 0

/-- A cycle free for a step on core n (09 R222). DESIGN CHOICE (log entry 75): the bank that an mxacc or mxbp step names is taken
in the step's writeback cycle, not in its issue cycle. -/
def stepFree (s : State) (n : Nat) (i : Instr) : Bool :=
  let u := s.usedNow n
  let now := s.cyc n
  let backs := (s.core n).iss.backs
  let p := portsOf i
  !u.x && decide (u.xst + p.x ≤ 2 ∧ u.wst + p.w ≤ 1)
    && (match p.bank with | some k => !u.banks.contains k && !backs.contains (now, k) | none => true)
    && (match p.back with | some (k, l) => !backs.contains (now + l, k) | none => true)
    && !s.damped n (s.weightNow n + stepWeight i)

/-- A step that takes a row of a stream waits for the row (09 R216). -/
def rowReady (s : State) (n : Nat) (i : Instr) : Bool :=
  let ok := fun (h : BitVec 2) => let v := s.stream n h.toNat; !v.opened || decide (v.pos < v.arrived)
  match i with
  | .mxpushStream _ h => ok h
  | .mxgang _ h _ => ok h
  | _ => true

/-! ### Faults (09 R221, R224, R229) -/

/-- The trap of a card: slot 14, with the card index where its information has room for it (09 R221). -/
def cardTrap (code : Nat) (fa info : BitVec 64) (card : Nat) : Trap :=
  let i := if code = 0x02 ∨ code = 0x09 then info ||| BitVec.ofNat 64 (card * 2 ^ 32) else info ||| BitVec.ofNat 64 card
  ⟨code, 14, fa, i, .boundary⟩

/-- The deck of core n stops at its card: the faulting members take their traps, every other member of the gang 0x0E, those
that have finished their own cards too, and every sequencer is idle with its counters as they stood at the start of the visit
(09 R221, R229). -/
def stopDeck (s : State) (n : Nat) (faults : List (Nat × Trap)) : State :=
  let gang := (s.seqOf n).gang ≠ 0
  let low := faults.foldl (fun (a : Nat × Trap) f => if f.1 < a.1 then f else a) (faults.headD (n, cardTrap 0 0 0 0))
  let card := (s.seqOf low.1).card
  (s.gangCores n).foldl (fun (s : State) m =>
    let q := s.seqOf m
    let s := s.modSeq m fun q => { q with running := false, stepDone := false, copied := false, copyWait := none }
    match faults.find? fun f => f.1 = m with
    | some f => s.pend q.owner f.2
    | none =>
      if gang then
        s.pend q.owner ⟨0x0E, 14, 0, BitVec.ofNat 64 (low.1 % 4 + low.2.code * 2 ^ 8 + card * 2 ^ 16), .boundary⟩
      else s) s

/-! ### Steps (09 R220 to R222, 13 R282) -/

/-- Whether the template's row field with its counter added passes its range (13 R282). -/
def rowField (i : Instr) (add : Nat) : Option Nat :=
  let within := fun (v top : Nat) => if v + add < top then some (v + add) else none
  match i with
  | .mxpushWstore q _ _ => within q.toNat 64
  | .mxpushStream q _ => within q.toNat 64
  | .mxgang q _ _ => within q.toNat 64
  | .mxacc _ r _ _ _ => within r.toNat 64
  | .mxdrain _ r _ _ _ => within r.toNat 64
  | .mxzero _ r _ => within r.toNat 64
  | .mxbp _ g _ _ _ _ _ => within g.toNat 4
  | _ => some 0

/-- The operation of a step with its row and the address counter (09 R219, R221). -/
def runStep (s : State) (n : Nat) (i : Instr) (row a : Nat) : State :=
  match i with
  | .mxpushWstore _ _ o => pushWstore row (a + 128 * o.toNat) s
  | .mxpushStream _ h => pushStream row h.toNat [n] s
  | .mxgang _ h m =>
    let mask := if m = 0 then (s.seqOf n).gang else m.toNat
    pushStream row h.toNat (quadCores n mask) s
  | .mxflip => s.schedule 2 0 .flip
  | .mxacc b _ _ f o => accBeat b.toNat row (a + 128 * o.toNat) f.toNat s
  | .mxbp b _ g _ p h o => planeBeat b.toNat row (decide (g = 1)) (a + 512 * o.toNat) p.toNat h.toNat s
  | .mxdrain b _ _ f o => drainBeat b.toNat row (a + 64 * o.toNat) f.toNat s
  | .mxzero b _ c => zeroBeat b.toNat row (c.toNat + 1) s
  | _ => s

/-- The bytes a drain writes (09 R211, R228). -/
def drainBytes (s : State) (i : Instr) (row : Nat) : Nat :=
  match i with
  | .mxdrain _ _ _ f _ => if s.selM ≤ row then 0 else drainWidth f.toNat * s.selN
  | _ => 0

/-- The weight of a step enters the open step of its owner and its partition's account (21 R364, R375). -/
def cardWeight (s : State) (n w : Nat) : State :=
  let x := (s.seqOf n).owner
  (s.addWeight x w).chargeWeight (s.partOf x) (dieOf n) w

/-- Emits the step of member n: its fault, if any, and the state (09 R221). DESIGN CHOICE (log entry 66): the checks are made
in this order: a template that no card may hold (0x18), the row sum (0x05), the step's own (13 R282). -/
def emitStep (s : State) (n : Nat) : Option Trap × State :=
  let q := s.seqOf n
  let c := s.cardAt n
  match s.stepOf n with
  | .none => (none, s)
  | .bad => (some (cardTrap 0x18 0 (2 * 2 ^ 8) q.card), s)
  | .step i =>
    let lone := match i with
      | .mxgang _ _ m => decide (m = 0 ∧ q.gang = 0)
      | _ => false
    if lone then (some (cardTrap 0x18 0 (2 * 2 ^ 8) q.card), s)
    else
      let add := if cardBit c 1 6 then (q.c.get 0 (cardField c 1 8 7)).toNat else 0
      match rowField i add with
      | none => (some (cardTrap 0x05 0 0 q.card), s)
      | some row =>
        let s0 := s.modCur fun _ =>
          { resetIssue with core := n, ctx := q.owner, slot := 14, word := cardWord c 0, card := some q.card }
        let s1 := runStep s0 n i row (q.a.get 0 (cardField c 1 5 4)).toNat
        match s1.cur.faults with
        | t :: _ => (some (cardTrap t.code t.fa t.info q.card), s1.modCur fun _ => resetIssue)
        | [] =>
          let now := s1.cyc n
          let p := portsOf i
          let bytes := drainBytes s0 i row
          let s2 := s1.modSeq n fun q => { q with
            stepDone := true, drained := q.drained + bytes, lastDrain := if bytes = 0 then q.lastDrain else now + 12 }
          let s3 := (s2.modCur fun _ => resetIssue).modCore n fun c => { c with iss := { c.iss with
            stepCyc := some now
            weights := c.iss.weights ++ [(now, stepWeight i)]
            backs := match p.back with | some (k, l) => c.iss.backs ++ [(now + l, k)] | none => c.iss.backs } }
          (none, s3.cardWeight n (stepWeight i))

/-- What an undefined write leaves: free words and check codes in the rows it names. What it does to the block counts of a
bank, which are no rows, it does (09 R206, R229; log entry 6). -/
def freeWrite (k : Nat) : Write → List Write
  | .beat row _ => [.freeRows row 1 k]
  | .plane bank g nb rows => [.plane bank g nb rows, .freeRows (bank * 64 + 16 * g) nb k]
  | .zeroRows bank row cnt => [.zeroRows bank row cnt, .freeRows (bank * 64 + row) cnt k]
  | .shadow q _ _ => [.shadow q (bytesToBits 1024 (freeBytes k 128)) ((Config.freeByte k 128).setWidth 4)]
  | w => [w]

/-- The rows that the steps of this visit write on core n become free values: its landings since `before`. -/
def freeSteps (s : State) (n before : Nat) : State :=
  let s1 := s.modCore n fun c => { c with landings := c.landings.flatMap fun l =>
    if before ≤ l.seq then (freeWrite (s.free + 64 * l.seq) l.what).map fun w => { l with what := w } else [l] }
  { s1 with free := s.free + 64 * ((s.core n).iss.seq + 1) }

/-- Emits the steps of every member in turn, with their faults. -/
def emitAll : List Nat → State → List (Nat × Trap) × State
  | [], s => ([], s)
  | m :: ms, s =>
    let r := s.emitStep m
    let q := emitAll ms r.2
    (match r.1 with | some t => (m, t) :: q.1 | none => q.1, q.2)

/-- Whether member n still has a step to emit in this visit. -/
def stepOwed (s : State) (n : Nat) : Bool :=
  let q := s.seqOf n
  !q.stepDone && !q.halted && decide (s.stepOf n ≠ .none)

/-! ### Transitions (09 R219, R220) -/

/-- Whether member n still has a copy to request in this visit. -/
def copyOwed (s : State) (n : Nat) : Bool :=
  let q := s.seqOf n
  !q.copied && !q.halted && decide (copyLen (s.cardAt n) ≠ 0)

/-- Whether a tag of member n's owner is ready at the transitions of its card, which come after the card's copy has bound
its own tag (09 R220). -/
def tagReady (s : State) (n t : Nat) : Bool :=
  ((s.ctx (s.seqOf n).owner).tags.get resetTag t).ready
    && !(s.copyOwed n && decide (cardField (s.cardAt n) 12 29 24 = t))

/-- Whether the condition of a transition holds; a barrier outside the X-store is a fault. DESIGN CHOICE (log entry 66): a ring
handle that is 16 or more, or not bound to the owner, is not full; (log entry 75): kinds 2 and 3 name the counter arg mod 4
(09 R219). -/
def transition (s : State) (n : Nat) (c : Tab (BitVec 16)) (kind arg value : Nat) : Except Nat Bool :=
  let owner := (s.seqOf n).owner
  let ring := fun (h : Nat) => let r := s.ring n h; decide (h < 16 ∧ r.owner = some owner) && r.ready
  match kind with
  | 1 => .ok true
  | 2 => .ok (decide ((c.get 0 (arg % 4)).toNat = value))
  | 3 => .ok (decide ((c.get 0 (arg % 4)).toNat ≠ value))
  | 4 => .ok (s.tagReady n arg)
  | 5 => .ok !(s.tagReady n arg)
  | 6 => .ok (ring arg)
  | 7 => .ok !(ring arg)
  | 8 => if xstoreSize ≤ 16 * value then .error (16 * value) else .ok (s.barrierAt (.store n (16 * value))).met
  | 9 => if xstoreSize ≤ 16 * value then .error (16 * value) else .ok !(s.barrierAt (.store n (16 * value))).met
  | _ =>
    let same := (s.gangCores n).all fun m => !(s.seqOf m).fin && decide ((s.seqOf m).card = (s.seqOf n).card)
    .ok (if kind = 10 then same else !same)

/-- The transitions of member n's card in order, after its counter operation (09 R220). -/
def follow (s : State) (n : Nat) (c : Tab (BitVec 16)) : List Nat → Next
  | [] =>
    let q := s.seqOf n
    if q.card + 1 = q.cards.length then .finish else .card (q.card + 1)
  | tr :: trs =>
    let kind := tr / 2 ^ 6 % 16
    if kind = 0 then follow s n c trs
    else if 12 ≤ kind then .fault 0x18 0 1
    else match s.transition n c kind (tr / 2 ^ 10 % 64) (tr / 2 ^ 16) with
    | .error a => .fault 0x05 a 0
    | .ok true => if (s.seqOf n).cards.length ≤ tr % 64 then .fault 0x18 0 3 else .card (tr % 64)
    | .ok false => follow s n c trs

/-- The barriers that the transitions of member n's card read, in order (09 R219). -/
def barriersRead (s : State) (n : Nat) (c : Tab (BitVec 16)) : List Nat → List Nat
  | [] => []
  | tr :: trs =>
    let kind := tr / 2 ^ 6 % 16
    (if kind = 8 ∨ kind = 9 then [16 * (tr / 2 ^ 16)] else []) ++
      (if kind = 0 then barriersRead s n c trs
      else match s.transition n c kind (tr / 2 ^ 10 % 64) (tr / 2 ^ 16) with
        | .ok false => barriersRead s n c trs
        | _ => [])

/-- The counters after member n's card; a card resumed after a halt has applied its counter operation. -/
def countersOf (s : State) (n : Nat) : Tab (BitVec 16) :=
  let q := s.seqOf n
  if q.halted then q.c else counterOp (s.cardAt n) q.c

/-- Whether the members halt here: a save is pending and every one visits the same stop card (09 R220, R225). -/
def haltsHere (s : State) (n : Nat) : Bool :=
  let ms := s.liveCores n
  (ms.any fun m => (s.seqOf m).savePending) && ms.all fun m =>
    decide ((s.seqOf m).card = (s.seqOf n).card) && cardBit (s.cardAt m) 1 2 && !cardBit (s.cardAt m) 1 3

/-- The transition words of member n's card; a visit that finishes or halts reads none (09 R220). -/
def transitionsOf (s : State) (n : Nat) : List Nat :=
  if (cardBit (s.cardAt n) 1 3 || s.haltsHere n) && !(s.seqOf n).halted then []
  else (List.range 4).map fun k => cardWord (s.cardAt n) (4 + k)

/-- Where member n's visit leads. -/
def nextOf (s : State) (n : Nat) : Next :=
  if cardBit (s.cardAt n) 1 3 && !(s.seqOf n).halted then .finish
  else if s.haltsHere n && !(s.seqOf n).halted then .halt
  else s.follow n (s.countersOf n) (s.transitionsOf n)

def nextTrap (s : State) (n : Nat) : Option Trap :=
  match s.nextOf n with
  | .fault code fa cause => some (cardTrap code (BitVec.ofNat 64 fa) (BitVec.ofNat 64 (cause * 2 ^ 8)) (s.seqOf n).card)
  | _ => none

/-- Requests the copy of member n's card, as copy would; it raises no trap, and its weight enters the account of the owner's
partition alone (09 R220, 21 R364, R375). -/
def requestCopy (s : State) (n : Nat) : State :=
  let q := s.seqOf n
  let c := s.cardAt n
  let x := q.owner
  let src : Nat := cardWord c 8 + cardWord c 9 * 2 ^ 32
  let dst : Nat := cardWord c 10 + cardWord c 11 * 2 ^ 32
  let len := copyLen c
  let tag := cardField c 12 29 24
  let gap := fun (a : Nat) => decide (placeOf n a len = .gap)
  let s := if gap dst then s.fork x tag (.copy dst src len) [] [] 1 (BitVec.ofNat 64 (gapAddr dst)) true
    else match s.readIssuer x src len with
    | .error (_, va) => s.fork x tag (.copy dst src len) [] [] 1 (BitVec.ofNat 64 va) true
    | .ok (data, bad, s1) => s1.fork x tag (.copy dst src len) data bad 0 0 true
  let now := s.cyc n
  ((s.modSeq n fun q => { q with copied := true, copyWait := none, cards := q.cards.set q.card (advanceCopy c) }).modCore n fun k =>
    { k with iss := { k.iss with copyCyc := some now, weights := k.iss.weights ++ [(now, 2)] } }).chargeWeight (s.partOf x) (dieOf n) 2

/-- The members whose copies find no entry of their channel keep their places among those that wait for one (10 R236). -/
def queueCopies (s : State) (ms : List Nat) : State :=
  ms.foldl (fun (s : State) m =>
    if (s.seqOf m).copyWait.isNone && s.channelFull m 8 then s.modSeq m fun q => { q with copyWait := some (s.cyc m) } else s) s

/-- Whether the copy of a member may be requested now (09 R222, 10 R231, R236). -/
def copyFree (s : State) (n : Nat) : Bool :=
  let q := s.seqOf n
  !(s.usedNow n).copy && !s.shooting (s.partOf q.owner) (cardWord (s.cardAt n) 8 + cardWord (s.cardAt n) 9 * 2 ^ 32) (copyLen (s.cardAt n))
    && !s.homeAheadOf q.owner [(cardWord (s.cardAt n) 8 + cardWord (s.cardAt n) 9 * 2 ^ 32, copyLen (s.cardAt n), 0)]
    && !s.mustWait q.owner (cardField (s.cardAt n) 12 29 24) false && !s.channelFull n 8 && !s.damped n (s.weightNow n + 2)

/-- One member's advance at the end of its visit. DESIGN CHOICE (log entry 75): ainc of an mxgang card is applied on the leader
alone, which emits the step (09 R227). -/
def advance (s : State) (n : Nat) (nx : Next) : State :=
  let s := (s.barriersRead n (s.countersOf n) (s.transitionsOf n)).foldl (fun (s : State) a =>
    if a < xstoreSize then s.mendBarrier (.store n a) else s) s
  let c := s.cardAt n
  let cs := s.countersOf n
  let now := s.cyc n
  s.modSeq n fun q =>
    let acnt := cardField c 1 5 4
    let a := if q.stepDone then
        q.a.put acnt (q.a.get 0 acnt + BitVec.ofInt 32 (sextN (cardField c 2 15 0) 16)) else q.a
    let q : Sequencer := { q with
      a := a, c := cs, stepDone := false, copied := false, notBefore := now + 1, halted := false
      visits := if q.savePending then q.visits + 1 else 0 }
    match nx with
    | .finish => { q with fin := true }
    | .halt => { q with halted := true }
    | .card i => { q with card := i }
    | .fault _ _ _ => q

/-- The end of a deck on every member: the sequencers are idle, and each member of a gang owes its barrier the bytes its
drains wrote, once they have landed (09 R228). -/
def finishDeck (s : State) (n : Nat) : State :=
  let gang := (s.seqOf n).gang ≠ 0
  (s.gangCores n).foldl (fun (s : State) m =>
    let q := s.seqOf m
    let s := s.modSeq m fun q => { q with running := false }
    if gang then
      s.modCore m fun c => { c with arriving := c.arriving ++ [(max (s.cyc m + 1) (q.lastDrain + 1), q.boff, q.drained, q.owner)] }
    else s) s

/-- What stops the members' decks at the end of this visit: faulting transitions, or else a save that has waited for 65,536
visits (09 R220, R224, R225). DESIGN CHOICE (log entry 75): cause 5 is raised at the end of the visit that follows 65,536 counted
ones, after that visit's step. -/
def visitFaults (s : State) (ms : List Nat) : List (Nat × Trap) :=
  match ms.filterMap fun m => (s.nextTrap m).map fun t => (m, t) with
  | [] => match ms.filter fun m => (s.seqOf m).savePending && decide (65536 ≤ (s.seqOf m).visits) with
    | [] => []
    | m :: _ => [(m, cardTrap 0x18 0 (5 * 2 ^ 8) (s.seqOf m).card)]
  | fs => fs

/-- The end of a visit that nothing stops: counter operations and transitions of every member. -/
def endVisit (s : State) (n : Nat) : State :=
  let nx := (s.liveCores n).map fun m => (m, s.nextOf m)
  let s1 := nx.foldl (fun (s : State) p => s.advance p.1 p.2) s
  if (s1.gangCores n).all fun m => (s1.seqOf m).fin then s1.finishDeck n else s1

/-- The completion arrivals of core n that are due, each for the owner of its deck. DESIGN CHOICE (log entry 66): a barrier offset
beyond the X-store names an unarmed barrier and raises no trap (09 R228). -/
def arriveDue (s : State) (n : Nat) : State :=
  let due := (s.core n).arriving.filter fun a => decide (a.1 ≤ s.cyc n)
  if due.isEmpty then s
  else due.foldl (fun (s : State) a =>
      let x := a.2.2.2
      let s := if (s.barrierAt (.store n a.2.1)).armed then s.noteJoin n a.2.1 ((s.ctx x).mem.carry.map (·.1)) else s
      s.arriveAt x (windowBase + 0x100000 + a.2.1) (.store n a.2.1) a.2.2.1 true)
    (s.modCore n fun c => { c with arriving := c.arriving.filter fun a => ¬ a.1 ≤ s.cyc n })

end State

open State

/-- CARD_STEP: the steps of the current card on every member, in a cycle free on all (09 R220 to R222, R228). -/
def execCardStep (n : Nat) (s : State) : Out :=
  let s := (s.gangCores n).foldl (fun (s : State) m => s.landDue m) (s.landDue n)
  let ms := s.liveCores n
  .next <|
    if !s.deckReady n ∨ !(ms.any s.stepOwed) then s
    else
      let steps := ms.filterMap fun m => if s.stepOwed m then
        (match s.stepOf m with | .step i => some (m, i) | _ => none) else none
      let first := (steps.headD (n, .mxflip)).2
      let free := (steps.all fun p => s.stepFree p.1 p.2 && s.rowReady p.1 p.2)
        && (steps.isEmpty || (s.gangCores n).all fun m => (steps.any fun p => p.1 = m) || s.stepFree m first)
      if !free then s
      else
        let r := emitAll (ms.filter s.stepOwed) s
        match r.1 with
        | [] => r.2
        | fs =>
          let s1 := if (s.seqOf n).gang = 0 then r.2
            else (s.gangCores n).foldl (fun (s' : State) m => s'.freeSteps m (s.core m).iss.seq) r.2
          s1.stopDeck n fs

/-- CARD_COPY_REQUEST: the copy requests of the current card, after its step and in a cycle free for them, and the end of its
visit. Its transitions are tested in that cycle, and where they stop the deck it requests none (09 R220 to R222; log
entry 46). -/
def execCardCopyRequest (n : Nat) (s : State) : Out :=
  let s := s.landDue n
  let ms := s.liveCores n
  let need := ms.filter s.copyOwed
  .next <|
    if !s.deckReady n ∨ ms.any s.stepOwed ∨ need.isEmpty then s
    else if !(need.all s.copyFree) ∨ (s.gangCores n).any (fun m => (s.usedNow m).copy) then s.queueCopies need
    else match s.visitFaults ms with
      | [] => (need.foldl (fun (s : State) m => s.requestCopy m) s).endVisit n
      | fs => s.stopDeck n fs

/-- CARD_VISIT: the end of a visit: counter operations and transitions of every member, or a completion arrival that is due
(09 R220, R225, R228). -/
def execCardVisit (n : Nat) (s : State) : Out :=
  let s := (s.landDue n).arriveDue n
  let ms := s.liveCores n
  .next <|
    if !s.deckReady n ∨ ms.any s.stepOwed ∨ ms.any s.copyOwed then s
    else match s.visitFaults ms with
      | f :: fs => s.stopDeck n (f :: fs)
      | [] => s.endVisit n

end Sys2Proof.Machine
end

