-- ==== Sys2Proof/Machine/Dispatcher.lean ====
section
/-! DEFINITION. The die dispatchers: placing tasks into contexts and refilling queues from the deferred list and the
overflow ring (04 R87, R92, 06 R129, R130, 14 R289, 15 R301, 16 R304, R310 to R313, 17 R325, R330, R336). -/

namespace Sys2Proof.Machine

/-- What a task to be placed needs: its slot, template, gang size, grant, whether it starts held, its weft and pick. -/
structure Placing where
  slot : Nat
  gen : Nat
  tmpl : Template
  held : Bool
  pick : Option (Weft × Nat)
  pair : Option Pair
deriving DecidableEq, Repr

namespace State

/-! ### Room (04 R87, 06 R129, R130) -/

def ctxFree (s : State) (x : Nat) : Bool := decide ((s.ctx x).iss.phase = .free)

/-- The lowest free context of core n. -/
def freeCtx (s : State) (n : Nat) : Option Nat := ((List.range 8).map (8 * n + ·)).find? s.ctxFree

/-- The blocks of core n's pool in use. -/
def usedBlocks (s : State) (n : Nat) : List Nat := (List.range 8).flatMap fun c => (s.ctx (8 * n + c)).blocks

/-- The free blocks of core n, of 24. -/
def freeBlocks (s : State) (n : Nat) : List Nat := (List.range 24).filter fun b => !(s.usedBlocks n).contains b

def coreFits (s : State) (n grant : Nat) : Bool :=
  (s.freeCtx n).isSome && decide (grant / 8 ≤ (s.freeBlocks n).length)

/-- The quads of a partition on die d, by package quad number. -/
def quadsOn (s : State) (p d : Nat) : List Nat :=
  ((List.range 24).map (24 * d + ·)).filter fun q => (s.part p).ent.quads.getLsbD q

/-- Whether a pick may be placed on a quad: where pick 0 was placed (17 R325). -/
def pickFits (k : Placing) (quad : Nat) : Bool :=
  match k.pick with
  | none => true
  | some (w, _) => match w.place with
    | none => true
    | some c => if w.dieScope then decide (quad / 24 = dieOf c) else decide (quad = quadOf c)

/-- The cores a task is placed on: the one with the most free blocks, or the lowest quad with room for every member
(16 R311, 15 R301). -/
def placeFor (s : State) (p d : Nat) (k : Placing) : Option (List Nat) :=
  let qs := (s.quadsOn p d).filter (pickFits k)
  if k.tmpl.gang = 1 then
    let cs := (qs.flatMap fun q => (List.range 4).map (4 * q + ·)).filter fun n => s.coreFits n k.tmpl.grant
    let best := cs.foldl (fun (a : Option Nat) n => match a with
      | none => some n
      | some m => if (s.freeBlocks m).length < (s.freeBlocks n).length then some n else some m) none
    best.map fun n => [n]
  else
    (qs.map fun q => (List.range k.tmpl.gang).map (4 * q + ·)).find? fun cs =>
      cs.all fun n => s.coreFits n k.tmpl.grant

/-- What the head of a level is: none where its template's record is not one to dispatch (16 R304, 17 R324). -/
def placing (s : State) (p : Nat) (q : Queued) : Option Placing :=
  match s.template p ((s.slotNat p q.slot 66 2).getD 0) with
  | none => none
  | some t =>
    let pick := s.pickOf p q.slot
    let pair := s.pairOf p q.slot
    let surrogate := match pair with | some r => decide (r.surrogate = q.slot) | none => false
    if !Template.valid t || (decide (t.kind = 1) && pick.isNone) || (decide (t.kind = 2) && !surrogate) then none
    else some ⟨q.slot, q.gen, t, decide (s.packetByte p q.slot 0 / 128 = 1), pick, pair⟩

/-! ### Dispatch of a context (04 R92, 17 R326, R336) -/

/-- The dispatch of a task whose counter came to 0 acquires at .pkg: it reads the write that brought the counter there
(12 R272, 16 R312). -/
def acquireCounter (s : State) (p slot x : Nat) : State :=
  if (s.slotNat p slot 76 2).getD 0 = 0 then s
  else match s.hwPhys p (s.slotAddr p slot + 8) .read with
    | some pa => s.readHome x (bytesFrom pa 4) (some 3)
    | none => s

/-- A member of a task starts in a free context of core n, as a new writer. A task with H for which the die has no free held
buffer waits in its context for one (17 R330). -/
def startMember (s : State) (p : Nat) (k : Placing) (n member : Nat) : State :=
  match s.freeCtx n with
  | none => s
  | some x =>
    let blocks := (s.freeBlocks n).take (k.tmpl.grant / 8)
    let b1 := s.packetByte p k.slot 1
    let po := payloadOff (b1 / 32)
    let task := s.taskPrio p k.slot + k.tmpl.scope * 2 ^ 4 + k.tmpl.gang * 2 ^ 7 + member * 2 ^ 10 + k.tmpl.grant * 2 ^ 12
    let pick := match k.pick with
      | some (w, i) => i + (w.shed - 1) * 2 ^ 20 + (if w.dieScope then 2 ^ 24 else 0) + 2 ^ 25
      | none => 0
    let gov := if k.pair.isSome then Governor.pair else Governor.decision
    let h : Option HeldMode := if k.held then some ⟨gov, [], none⟩ else none
    let room := decide (s.heldUse (dieOf n) < 24)
    let mem := { resetCtx.mem with me := s.pkg.serial, held := if room then h else none, entering := if room then none else h }
    let ctl : Tab (BitVec 64) := [(0x000, s.ctxid x p), (0x001, BitVec.ofNat 64 task),
      (0x002, BitVec.ofNat 64 ((s.slotNat p k.slot 68 8).getD 0 % 2 ^ 63)), (0x003, BitVec.ofNat 64 pick)]
    let ctl := match k.pair with
      | some r => (ctl.put 0x028 (r.tol.setWidth 64)).put 0x029 (BitVec.ofNat 64 r.exact)
      | none => ctl
    let c : Ctx := { resetCtx with
      pc := k.tmpl.entry, s := [(63, BitVec.ofNat 64 (s.slotAddr p k.slot + 64 + po))], blocks := blocks, ctl := ctl, mem := mem
      iss := { resetCtx.iss with phase := .eligible, pred := s.cyc n }
      task := some ⟨p, k.slot, k.gen, (s.slotNat p k.slot 66 2).getD 0, (s.part p).hslots.contains k.slot, (k.pick.map fun w => w.1.stab).getD 0⟩ }
    let regs := blocks.flatMap fun b => (List.range 8).map (8 * b + ·)
    let s := (s.setCtx x c).modStore n fun st => { st with
      pool := regs.foldl (fun t i => t.put i 0) st.pool, vpoison := st.vpoison.filter fun e => !regs.contains (e.1 / 32) }
    let s : State := { s with pkg := { s.pkg with serial := s.pkg.serial + 1 } }
    (s.acquireCounter p k.slot x).snapshot x

/-- Places a task: its slot runs with live members, and each of them is dispatched. -/
def place (s : State) (p : Nat) (k : Placing) (cores : List Nat) : State :=
  let s := (s.slotPut p k.slot 0 1 3).slotPut p k.slot 3 1 cores.length
  let s := match k.pick with
    | some (w, 0) => s.setWeft p { w with place := cores.head? }
    | _ => s
  (List.range cores.length).foldl (fun (s : State) i => s.startMember p k (cores.getD i 0) i) s

/-- The levels of a die whose head fits, with the cores; a head that is refused fits everywhere (16 R311). -/
def candidates (s : State) (p d : Nat) : List (Nat × Queued × Option (Placing × List Nat)) :=
  (List.range 16).filterMap fun l => match s.level p d l with
    | [] => none
    | q :: _ => match s.placing p q with
      | none => some (l, q, none)
      | some k => (s.placeFor p d k).map fun cs => (l, q, some (k, cs))

/-- The pass counts after level L was served. -/
def passOthers (s : State) (p d l : Nat) : State :=
  s.modPart p fun r => { r with pass := (List.range 16).foldl (fun t m =>
    if m = l then t.put (16 * d + m) 0
    else if (s.level p d m).isEmpty then t
    else t.put (16 * d + m) (min (t.get 0 (16 * d + m) + 1) 256)) r.pass }

/-- One placement of die d for partition p. -/
def dispatchOne (s : State) (p d : Nat) : State :=
  let cand := s.candidates p d
  let aged := cand.filter fun c => (s.part p).pass.get 0 (16 * d + c.1) = 256
  match (if aged.isEmpty then cand else aged).getLast? with
  | none => s
  | some (l, q, what) =>
    let s1 := s.setLevel p d l ((s.level p d l).drop 1)
    let s2 := match what with
      | some (k, cs) => s1.place p k cs
      | none => (s1.failSlot p q.slot).log 0 0 p ((s.slotNat p q.slot 66 2).getD 0)
    (s2.passOthers p d l).modDie d fun v => { v with placedCyc := some (s.die d).cyc }

/-- What the dispatch of a slot's task reads: its slot's words and packet, and its template's record. -/
def taskReads (s : State) (p slot : Nat) : List (Nat × Nat) :=
  let k := (s.slotNat p slot 66 2).getD 0
  (s.slotAddr p slot, 320) :: if k < (s.part p).ent.tmplCount then [((s.part p).ent.tmplBase + 32 * k, 32)] else []

/-- Hardware of unit u reads ranges for a partition: their walks are made, and it waits for its turn at the memory (22 R377 to
R382, R386). DESIGN CHOICE (log entry 75): it keeps the states of the slots at hand, and looks through them without a turn. -/
def hwReads (s : State) (u p id : Nat) (rs : List (Nat × Nat)) : Bool × State :=
  let s := rs.foldl (fun (s : State) q => s.hwWalks p q.1 q.2 .read) s
  s.hwTurn u id (distinct (rs.flatMap fun q => s.hwLines p q.1 q.2))

/-- What unit u does with what it reads for a partition: nothing, or once the memory has had its turn for all of it. -/
def inHwTurn (s : State) (u p : Nat) (rs : List (Nat × Nat)) (act : State → State) : State :=
  if act s = s then s
  else match s.hwReads u p p rs with
    | (true, s1) => act s1
    | (false, s1) => s1

/-- What die d reads before it places a task of partition p: the tasks at the heads of the levels. -/
def headReads (s : State) (p d : Nat) : List (Nat × Nat) :=
  (List.range 16).flatMap fun l => match s.level p d l with
    | [] => []
    | q :: _ => s.taskReads p q.slot

/-- Whether a die serves a partition: it runs, and holds quads of it. -/
def serves (s : State) (p d : Nat) : Bool :=
  decide ((s.part p).ent.state = 2) && (s.partDies p).contains d && !(s.die d).gated

/-- The oldest ring record enters die d (16 R313). -/
def refillOne (s : State) (p d : Nat) : State :=
  let e := (s.part p).ent
  match s.hwNat p (e.ringBase + e.ringHead) 4 with
  | none => s
  | some h =>
    let s1 := s.modPart p fun r => { r with ent := { r.ent with
      ringHead := (e.ringHead + 8) % e.ringSize } }
    let i := h % 2 ^ 20
    if s.stale p h ∨ s.slotState p i ≠ 2 then s1 else s1.enqueue p d ⟨i, h / 2 ^ 24⟩

/-- The host requeues ring records in host-assisted mode: it moves the head past them, and each enters the lowest die with room, as
far as there is room. DESIGN CHOICE (log entry 73): the rule gives the host no other means (16 R313, 24 R411). -/
def hostRequeue (p head : Nat) : Nat → State → State
  | 0, s => s
  | fuel + 1, s =>
    if (s.part p).ent.ringHead = head ∨ s.ringEmpty p then s
    else match s.roomFrom p 0 with
    | none => s
    | some d => hostRequeue p head fuel (s.refillOne p d)

end State

open State

/-- DISPATCH: a waiting trap message becomes a handler task, or die d places one task of partition p in this cycle
(14 R289, 16 R311). -/
def execDispatch (d p : Nat) (s : State) : Out :=
  .next <|
    if s.serves p d = false then s
    else if (s.part p).handlers ≠ [] ∧ s.launchHandler p ≠ s then s.launchHandler p
    else if (s.die d).placedCyc = some (s.die d).cyc then s
    else s.inHwTurn (14000 + d) p (s.headReads p d) fun s => s.dispatchOne p d

/-- RING_REFILL: the oldest deferred task, else the oldest ring record, enters a die with room (16 R313). In
host-assisted mode the host requeues the records (24 R411). -/
def execRingRefill (p : Nat) (s : State) : Out :=
  .next <|
    if (s.part p).ent.state ≠ 2 then s
    else match s.roomFrom p 0 with
    | none => s
    | some d =>
      match (s.part p).deferred with
      | q :: qs =>
        let s1 := s.modPart p fun r => { r with
          deferred := qs, ent := { r.ent with deferred := match qs with | n :: _ => n.slot + 1 | [] => 0 } }
        s1.enqueue p d q
      | [] =>
        if s.ringEmpty p ∨ s.pkg.hostRefill then s
        else s.inHwTurn 14015 p [((s.part p).ent.ringBase + (s.part p).ent.ringHead, 4)] fun s => s.refillOne p d

end Sys2Proof.Machine
end

