-- ==== Sys2Proof/Machine/Saves.lean ====
section
/-! DEFINITION. Saves of contexts and cores, their records, resumption and dumps (14 R295 to R300, 17 R338). A save that has
begun keeps its context from issuing until what it waits for is done. The records are kept as data; their images are
written into the partition's save region (log entry 24). -/

namespace Sys2Proof.Machine

/-! ### Images of the records (14 R297, R298) -/

def word8 (v : Nat) : List (BitVec 8) := bytesLE 8 v

/-- The 160-byte records of a write: 120 bytes of its line, then the last 8 (14 R300). -/
def dumpBytes (w : DumpWrite) : List (BitVec 8) :=
  let line := bitsToBytes 128 w.line.data
  let head := fun (kind : Nat) =>
    bytesLE 2 kind ++ List.replicate 6 0 ++ bitsToBytes 8 w.ctxid ++ bitsToBytes 16 w.line.mask
      ++ bytesLE 8 (128 * w.line.vline)
  head w.kind ++ line.take 120 ++ (head 0xFFFF ++ line.drop 120 ++ List.replicate 112 0)

/-! The sections of a context save record; the manual names them and leaves their layouts open (DESIGN CHOICE, log
entry 24). -/

/-- A shadow entry: designator, offset, flags, then its byte mask and its data (14 R296). -/
def shadowBytes (h : Shadow) : List (BitVec 8) :=
  let e : Nat × Nat × BitVec 8192 := match h.landing.what with
    | .scalar r v => (State.sReg r, 255, v.setWidth 8192)
    | .vector r m v => (State.vReg r, m.toNat, v)
    | .mask r m v => (State.kReg r, m.toNat, v.setWidth 8192)
    | .ctl k v => (State.ctlReg k, 255, v.setWidth 8192)
    | _ => (0, 0, 0)
  [e.1, h.offset, h.landing.flags.toNat, 0].flatMap word8 ++ bytesLE 128 e.2.1 ++ bitsToBytes 1024 e.2.2

/-- A deferred access. -/
def accessBytes (o : MemOp) : List (BitVec 8) :=
  [o.va, o.pa, o.dest, o.size, o.slot, o.scope, o.operand.toNat, o.compare.toNat].flatMap word8 ++ bitsToBytes 128 o.mask

/-- What a stop keeps for its completion: done slots, the operand latch, the deferred access (14 R286, R293). -/
def stopBytes (t : Stop) : List (BitVec 8) :=
  [t.done.toNat, t.leaf, t.pc.toNat, t.latch.length].flatMap word8
    ++ (t.latch.flatMap fun l => word8 l.slot ++ word8 l.regs.length
      ++ l.regs.flatMap fun r => word8 r.1 ++ bitsToBytes 1024 r.2)
    ++ (match t.deferred with | some o => accessBytes o | none => [])

/-- The state of a deck: counters, card index, progress, then its cards (09 R225). -/
def deckBytes (q : Sequencer) : List (BitVec 8) :=
  ((List.range 4).flatMap fun i => bytesLE 4 (q.a.get 0 i).toNat) ++ ((List.range 4).flatMap fun i => bytesLE 2 (q.c.get 0 i).toNat)
    ++ [q.card, q.cards.length, q.selv.toNat, q.gang, q.leader % 4, q.boff, q.drained, if q.halted then 1 else 0].flatMap word8
    ++ q.cards.flatMap (bitsToBytes 64)

/-- The state of a ring (10 R255). -/
def ringBytes (h : Nat) (r : Ring) : List (BitVec 8) :=
  [h, r.base, (if r.wstore then 1 else 0) + (if r.output then 2 else 0), r.count, r.ssize, r.recAddr, r.head, r.moved, r.worst,
    r.poisoned.length].flatMap word8 ++ r.poisoned.flatMap word8

/-- The held lines of a context, those it waits to reload among them. -/
def heldLinesOf (c : Ctx) : List LineWrite :=
  match State.heldModeOf c.mem with
  | some h => h.lines
  | none => []

/-- The sections 0 to 5 of a record. -/
def sections (r : SaveRecord) : List (List (BitVec 8)) :=
  let t := r.ctx.trap
  [r.vregs.flatMap (bitsToBytes 1024), r.shadows.flatMap shadowBytes,
   (t.stop.toList ++ t.rerun.toList).flatMap stopBytes ++ (t.failed.map (·.2) ++ (t.redo.getD none).toList).flatMap accessBytes,
   (match r.deck with | some q => deckBytes q | none => []),
   r.rings.flatMap fun h => ringBytes h.1 h.2,
   (heldLinesOf r.ctx).flatMap fun l => dumpBytes ⟨4, r.ctx.ctl.get 0 0x000, l⟩]

/-- The directory of sections laid out one after another from an offset. -/
def directory : Nat → List (List (BitVec 8)) → List (BitVec 8)
  | _, [] => []
  | at_, b :: bs => word8 (at_ + b.length * 2 ^ 32) ++ directory (at_ + b.length) bs

/-- The bytes of a record in the save region, in whole pages of 4 KiB. -/
def recordSize (r : SaveRecord) : Nat := (0x2000 + (sections r).flatten.length + 4095) / 4096 * 4096

/-- The entry of a symbol (19 R343, R352). -/
def symbolBytes (y : Symbol) : List (BitVec 8) :=
  bytesLE 4 y.min ++ bytesLE 4 y.max ++ bytesLE 1 y.src ++ bytesLE 1 (y.win - 1) ++ bytesLE 1 y.pol ++ List.replicate 5 0
    ++ bytesLE 4 y.b ++ bytesLE 4 y.db ++ bytesLE 1 (if y.request then 1 else 0) ++ List.replicate 39 0

/-- A context save record, by offset. -/
def contextImage (s : State) (x : Nat) (r : SaveRecord) : List (Nat × List (BitVec 8)) :=
  let c := r.ctx
  let k := fun (j cl : Nat) => (s.regK x j).toNat / 2 ^ (128 * cl)
  let state := if r.stopped then 2 else if r.waiting then 1 else 0
  let dir := directory 0x2000 (sections r)
  [(0, dir ++ List.replicate (64 - dir.length) 0),
   (0x40, [(s.ctl x 0x000).toNat, (s.ctl x 0x001).toNat, (s.ctl x 0x002).toNat, (s.ctl x 0x003).toNat, c.pc.toNat, c.iss.dtime,
     state, c.symgen.toNat].flatMap word8),
   (0x80, (List.range 64).flatMap fun i => word8 (s.regS x i).toNat),
   (0x280, (List.range 0x40).flatMap fun i =>
     word8 (match ctlAccess i with | some _ => (ctlRead s x i).toNat | none => 0)),
   (0x480, (List.range 8).flatMap fun cl => (List.range 8).flatMap fun j => bytesLE 16 (k j cl)),
   (0x880, (List.range 64).flatMap fun t =>
     let g := c.tags.get State.resetTag t
     word8 g.st ++ word8 g.fa.toNat),
   (0xC80, (List.range 16).flatMap fun i => symbolBytes (c.syms.get State.resetSymbol i)),
   (0x2000, (sections r).flatten)]

/-- The poison bits of a core save record: bit i covers its bytes 32i to 32i + 31. A single-bit error is none (08 R181). -/
def poisonImage (st : CoreStore) : List (BitVec 8) :=
  let at_ := fun (k : Nat) (m : Memory) => (m.filter fun e => e.2.getLsbD 0).map (k + ·.1)
  let bad := at_ 0 st.wpoison ++ at_ 16384 st.xpoison ++ at_ 28672 st.accPoison ++ at_ 36864 st.shadowPoison
    ++ at_ 37120 st.activePoison
  (List.range 8192).map fun j => BitVec.ofNat 8 ((List.range 8).foldl (fun acc k =>
    if bad.contains (8 * j + k) then acc + 2 ^ k else acc) 0)

/-- A core save record, by offset. -/
def coreImage (r : CoreSave) : List (Nat × List (BitVec 8)) :=
  let st := r.st
  [(0, st.wstore.read 0 0x80000), (0x80000, st.xstore.read 0 0x60000),
   (0xE0000, (List.range 1024).flatMap fun i => bitsToBytes 256 (State.accRow st i)),
   (0x120000, (List.range 64).flatMap fun q => bitsToBytes 128 (st.shadow.get 0 q)),
   (0x122000, (List.range 64).flatMap fun q => bitsToBytes 128 (st.active.get 0 q)),
   (0x124000, poisonImage st),
   (0x126000, bytesLE 32 st.inUse.toNat),
   (0x126020, (List.range 64).map fun i => BitVec.ofNat 8 (st.counts.get 0 i)),
   (0x126060, word8 r.stray.toNat), (0x126068, word8 r.bobbin.length),
   (0x126070, (List.range 64).flatMap fun i => word8 (r.bobbin.getD i 0).toNat),
   (0x126280, (List.range 4).flatMap fun h =>
     let v := r.streams.get State.resetStream h
     word8 v.base ++ bytesLE 4 v.count ++ bytesLE 4 v.pos ++ word8 (lowBits v.stride 64)
       ++ word8 ((if v.opened then 1 else 0) + (if v.keep then 2 else 0))),
   (0x126300, word8 (if r.seq.usable then r.seq.cards.length else 0)),
   (0x127000, (List.range 64).flatMap fun i => bitsToBytes 64 (r.seq.cards.getD i 0))]

namespace State

def writeImage (s : State) (p addr : Nat) (parts : List (Nat × List (BitVec 8))) : State :=
  parts.foldl (fun (s : State) q => s.hwWrite p (addr + q.1) q.2) s

/-- The records that stand in a partition's save region: address and size. -/
def savedRegions (s : State) (p : Nat) : List (Nat × Nat) :=
  ((s.recs.saves.filter fun r => r.part = p).map fun r => (r.addr, recordSize r))
    ++ ((s.recs.coreSaves.filter fun r => r.part = p).map fun r => (r.addr, 0x128000))

/-- A place for a record of a size in the save region, the lowest that is free (log entry 24). -/
def saveAddr (s : State) (p size : Nat) : Option Nat :=
  let e := (s.part p).ent
  let used := s.savedRegions p
  let starts := (e.saveBase + 4095) / 4096 * 4096 :: used.map fun u => u.1 + u.2
  let ok := starts.filter fun a => decide (a + size ≤ e.saveBase + e.saveSize)
    && used.all fun u => decide (a + size ≤ u.1 ∨ u.1 + u.2 ≤ a)
  ok.foldl (fun (m : Option Nat) a => match m with | some b => some (min a b) | none => some a) none

/-! ### Saving (14 R295, 09 R225) -/

/-- The contexts that are saved with x: the owners of the gang whose deck it runs (09 R225). -/
def savedWith (s : State) (x : Nat) : List Nat :=
  let q := s.seqOf (coreOf x)
  if q.running ∧ q.owner = x ∧ q.gang ≠ 0 then (s.gangCores (coreOf x)).map fun m => (s.seqOf m).owner else [x]

/-- The shadow entries of x: results not landed yet, with their distance from its last issue (14 R296). -/
def shadowsOf (s : State) (x : Nat) : List Shadow :=
  ((s.core (coreOf x)).landings.filter fun l => decide (l.ctx = x % 8) && Write.ofContext l.what).map fun l =>
    ⟨l.cycle - (s.ctx x).iss.pred, l⟩

/-- A save of one context begins: it issues nothing more, its results that have not landed are diverted into its shadow
buffer, and a deck it owns looks for a stop card (14 R295). -/
def beginOne (alone : Bool) (s : State) (x : Nat) : State :=
  if (s.ctx x).iss.saving.isSome then s
  else
    let n := coreOf x
    let s := s.landDue n
    let hs := s.shadowsOf x
    let s := (s.modTrap x fun t => { t with shadows := hs }).modCore n fun c => { c with
      landings := c.landings.filter fun l => !(decide (l.ctx = x % 8) && Write.ofContext l.what) }
    let s := (s.releaseUnit x).modIss x fun i => { i with
      saving := some alone, cause := 14, phase := if i.phase = .running then .eligible else i.phase }
    let s := s.clearBehind n x
    if (s.seqOf n).running ∧ (s.seqOf n).owner = x then s.modSeq n fun q => { q with savePending := true, visits := 0 } else s

/-- A save of context x begins, and with it that of the whole gang whose deck it runs (09 R225). -/
def beginSave (s : State) (x : Nat) (alone : Bool) : State := (s.savedWith x).foldl (beginOne alone) s

/-- Whether everything the save of one context waits for is done: the deck halted, or its own part of a gang's deck finished and
its completion arrival made, engines and interlocked results complete. -/
def settled (s : State) (x : Nat) : Bool :=
  let q := (s.core (coreOf x)).seq
  (s.ctx x).iss.saving.isSome && ((s.core (coreOf x)).arriving.all fun a => decide (a.2.2.2 ≠ x)) && (s.enginesOf x).isEmpty && (s.ctx x).mem.ops.isEmpty && (s.ctx x).mem.pubs.isEmpty
    && (!(q.running && decide (q.owner = x)) || q.fin || (q.halted && q.savePending))

/-- Whether a save may end: a gang's waits until all that are saved with it are settled (09 R225). -/
def saveReady (s : State) (x : Nat) : Bool := (s.savedWith x).all s.settled

/-- The live contexts of a partition. -/
def contextsIn (s : State) (p : Nat) : List Nat :=
  (s.ctxs.map (·.1)).filter fun x => decide ((s.ctx x).iss.phase ≠ .free) && decide (s.partOf x = p)

/-- Whether x is the last context of its core, saved with it. -/
def lastOfCore (s : State) (x : Nat) : Bool :=
  (List.range 8).all fun c => decide (8 * coreOf x + c = x) || s.ctxFree (8 * coreOf x + c)

/-- The save record of x at an address. -/
def recordOf (s : State) (x : Nat) (alone : Bool) (addr : Nat) : SaveRecord :=
  let n := coreOf x
  let c := s.ctx x
  let q := (s.core n).seq
  let now := s.cyc n
  { part := s.partOf x, core := n, ctxnum := x % 8, alone := alone, stopped := decide (c.iss.phase = .stopped)
    waiting := decide (c.iss.phase = .waiting)
    ctx := { c with
      blocks := []
      iss := { c.iss with
        saving := none, waitFrom := none, sleepUntil := c.iss.sleepUntil.map (· - now)
        elapsed := s.elapsed x, firstCyc := none, icyc := s.icyc x }
      mem := { c.mem with view := none }, trap := { c.trap with shadows := [] } }
    vregs := (List.range (s.grant x)).map (s.regV x), shadows := c.trap.shadows ++ s.shadowsOf x
    rings := (s.ringsOf x).map fun h => (h, s.ring n h)
    deck := if q.running ∧ q.owner = x then some { q with lastDrain := q.lastDrain - now } else none, addr := addr }

/-- The context leaves its core: its results in flight, rings, load-blocks, deck, blocks and place are given up. The heddle
streams of one saved alone stay on the core for its return, and so do the in-use bits it has set (10 R251). -/
def leaveCore (s : State) (x : Nat) (alone : Bool) : State :=
  let n := coreOf x
  let s := if alone then s.giveUnits n x (awayOwner (s.ctx x).mem.me) else s
  let s := (s.ringsOf x).foldl (fun (s : State) h => s.setRing n h resetRing) (s.releaseBlocks x)
  let s := s.modCore n fun c => { c with
    landings := c.landings.filter fun l => !(decide (l.ctx = x % 8) && Write.ofContext l.what)
    seq := if c.seq.running ∧ c.seq.owner = x then { c.seq with running := false, halted := false, savePending := false } else c.seq }
  (s.clearBehind n x).setCtx x resetCtx

/-- The record of core n as it stands (14 R298). -/
def coreRecord (s : State) (p n addr : Nat) : CoreSave :=
  let c := s.core n
  { part := p, core := n, st := c.st, stray := c.stray, bobbin := c.bobbin, streams := c.streams, seq := c.seq
    events := c.iss.events, off := (s.part p).shrunk.contains (dieOf n), addr := addr }

/-- What carries check bits in the core-scope state. -/
def coreSpaces : List Space := [.wstore, .xstore, .acc, .shadow, .active]

/-- A read of all the core-scope state corrects its single-bit errors, and a copy of an uncorrectable sector is poisoned
(08 R181, R182). -/
def mendCore (s : State) (n : Nat) : State :=
  coreSpaces.foldl (fun (s : State) sp =>
    let s := s.mend n sp ((Space.codes sp (s.core n).st).map (·.1))
    s.modStore n fun st => Space.put sp st ((Space.codes sp st).map fun e => (e.1, 1))) s

/-- The core save record, and what the core gives up with it (14 R298). -/
def saveCore (s : State) (p n addr : Nat) : State :=
  let s := (s.fillBobbin n).mendCore n
  let r := s.coreRecord p n addr
  let s := s.writeImage p addr (coreImage r)
  let s := { s with recs := { s.recs with coreSaves := s.recs.coreSaves ++ [r] } }
  s.modCore n fun c => { c with streams := [], bobbin := [], seq := resetSequencer }

/-- The core save record of a core of p whose last context has been saved with it, once everything scheduled on the core has
landed (14 R298). -/
def gatherCore (s : State) (p n : Nat) : State :=
  if (List.range 8).any (fun c => !s.ctxFree (8 * n + c)) || !(s.core n).landings.isEmpty || !(s.core n).arriving.isEmpty
    || s.recs.coreSaves.any (fun r => decide (r.part = p ∧ r.core = n))
    || !(s.recs.saves.any fun r => decide (r.part = p ∧ r.core = n ∧ r.alone = false)) then s
  else match s.saveAddr p 0x128000 with
  | none => s
  | some a => (s.saveCore p n a).chargeBytes p n 0x128000 (s.hwPhys p a .write)

/-- Every context of p on the dies that `on` selects is saved with its core: those that run, those whose save had begun alone,
and those saved alone before (14 R295, R298, 21 R372, 24 R403). -/
def saveCores (s : State) (p : Nat) (on : Nat → Bool) : State :=
  let xs := (s.contextsIn p).filter fun x => on (dieOf (coreOf x))
  let mine := fun (r : SaveRecord) => decide (r.part = p) && on (dieOf r.core)
  let ns := (s.recs.saves.filter mine).map (·.core)
  let s : State := { s with recs := { s.recs with saves := s.recs.saves.map fun r => if mine r then { r with alone := false } else r } }
  let s := xs.foldl (fun (s : State) x =>
    if (s.ctx x).iss.saving.isSome then s.modIss x fun i => { i with saving := some false }
    else (s.landDue (coreOf x)).beginSave x false) s
  ns.foldl (fun (s : State) n => (s.landDue n).gatherCore p n) s

/-- The end of a save: engines are joined, publish(x, .sys) releases all that happens before it, the record is written, and
the context is free for another task. A publication that has to wait goes first (12 R271, R272, R276, 14 R295). -/
def endSave (s : State) (x : Nat) (alone : Bool) : State :=
  let p := s.partOf x
  let n := coreOf x
  let s := s.joinAll x
  let lines := (s.ctx x).mem.unpub
  let bare := s.modMem x fun m => { m with unpub := [] }
  if s.heldOff x lines then
    bare.modMem x fun m => { m with pubs := m.pubs ++ [⟨5, lines, none, true, false, .nothing, m.nextId⟩] }
  else
    let s0 := bare.publishLines x 5 lines true none
    let whole := !alone && s0.lastOfCore x
    let r := s0.recordOf x alone 0
    match s0.saveAddr p (recordSize r) with
    | none => s
    | some addr =>
      let r := { r with addr := addr }
      let s1 := (s0.writeImage p addr (contextImage s0 x r)).chargeBytes p n (recordSize r) (s0.hwPhys p addr .write)
      let s2 := { s1 with recs := { s1.recs with saves := s1.recs.saves ++ [r] } }
      let s3 := s2.leaveCore x alone
      if whole then
        if !(s3.core n).landings.isEmpty || !(s3.core n).arriving.isEmpty then s
        else match s3.saveAddr p 0x128000 with
          | none => s
          | some a => (s3.saveCore p n a).chargeBytes p n 0x128000 (s3.hwPhys p a .write)
      else s3

/-! ### Resumption (14 R296, R299) -/

/-- The end of the saves of all that are saved with x, together: the publications that have to wait go first, and none is saved
while the record of another finds no room (09 R225). -/
def endSaves (s : State) (x : Nat) : State :=
  let ys := s.savedWith x
  let flag := fun (y : Nat) => (s.ctx y).iss.saving.getD true
  match ys.filter fun y => (s.joinAll y).heldOff y ((s.joinAll y).ctx y).mem.unpub with
  | y :: _ => s.endSave y (flag y)
  | [] =>
    let t := ys.foldl (fun (t : State) y => t.endSave y (flag y)) s
    if ys.all t.ctxFree then t else s

/-- What a resumed context's symbols are: windows empty, floors gone, a re-binding asked for. -/
def resumedSymbol (y : Symbol) : Symbol := { y with window := [], floor := none, request := decide (y.src ≠ 0) }

/-- A subscription resumes from the same tile, as forked by the context on its new place x (10 R255, 12 R274, 14 R299). -/
def reopenRing (s : State) (x : Nat) (h : Nat × Ring) : State :=
  s.setRing (coreOf x) h.1 { h.2 with
    owner := some x, view := some s.pkg.eo, snap := s.free, eo := s.pkg.eo, own := s.ownWrites x, filling := none, sectors := [] }

/-- A saved loser of a decision ends as it resumes; its slot is freed with the last saved member (17 R334, R338). -/
def dropSaved (s : State) (r : SaveRecord) (x : Nat) : State :=
  let s := (s.giveUnits (coreOf x) (awayOwner r.ctx.mem.me) x).closeUnits x
  let s := s.modStore (coreOf x) fun st => { st with holders := st.holders.filter fun h => ¬ h.2 = x % 8 }
  match r.ctx.task with
  | none => s
  | some t =>
    let s := (s.endPick ⟨r.ctx.mem.me, coreOf x, r.ctx.mem.carry.map (·.1)⟩ t.part t.slot true).dropStep t.part t.slot
      (bits (r.ctx.ctl.get 0 0x001) 11 10)
    if savedOf s t.part t.slot || !(s.membersOf t.part t.slot).isEmpty then
      s.slotPut t.part t.slot 3 1 (s.slotLive t.part t.slot - 1)
    else s.dropSlot t.part t.slot

/-- The held mode of a resumed context: with a buffer of its new die, or waiting for one (17 R330, R338). -/
def resumeHeld (s : State) (d : Nat) (m : CtxMem) : CtxMem :=
  let h := heldModeOf m
  if s.heldUse d < 24 then { m with held := h, entering := none } else { m with held := none, entering := h }

/-- A saved context on its new place x of core n. One that waits in an instruction that opens a snapshot as it completes
holds none (12 R270). -/
def restoreAt (s : State) (r : SaveRecord) (x : Nat) : State :=
  let n := coreOf x
  let now := s.cyc n
  let blocks := (s.freeBlocks n).take (r.vregs.length / 8)
  let i := r.ctx.iss
  let c : Ctx := { r.ctx with
    blocks := blocks
    syms := r.ctx.syms.map fun y => (y.1, resumedSymbol y.2)
    ctl := r.ctx.ctl.put 0x000 (s.ctxid x r.part)
    mem := s.resumeHeld (dieOf n) r.ctx.mem
    iss := { i with
      pred := now, sleepUntil := i.sleepUntil.map (· + now), waitFrom := if r.waiting then some now else none
      firstCyc := if i.started then some now else none, behind := [] } }
  let s := (s.setCtx x c).modStore n fun st => { st with
    pool := (List.range r.vregs.length).foldl (fun t j =>
      t.put (blocks.getD (j / 8) 0 * 8 + j % 8) (r.vregs.getD j 0)) st.pool
    vpoison := st.vpoison.filter fun e => !blocks.contains (e.1 / 256) }
  let s := (s.giveUnits n (awayOwner r.ctx.mem.me) x).modCore n fun k => { k with
    landings := r.shadows.foldl (fun t h => insertLanding { h.landing with cycle := now + h.offset, ctx := x % 8 } t) k.landings }
  let s := if r.stopped || i.wait.any WaitFor.bare then s else s.snapshot x
  let s := r.rings.foldl (fun (s : State) h => s.reopenRing x h) s
  let s := match r.deck with
    | some q => s.modSeq n fun _ => { q with
        owner := x, leader := 4 * quadOf n + q.leader % 4, lastDrain := now + q.lastDrain, savePending := false, notBefore := now + 1 }
    | none => s
  let s := match r.ctx.task with
    | some t => s.moveStep t.part t.slot (bits (r.ctx.ctl.get 0 0x001) 11 10) (dieOf n)
    | none => s
  let s := s.chargeBytes r.part n (recordSize r) (s.hwPhys r.part r.addr .read)
  if r.stopped then s.sendMessage x else s

/-- A saved context resumes, or ends as the loser of a decision. -/
def resumeAt (s : State) (r : SaveRecord) (x : Nat) : State :=
  if (heldModeOf r.ctx.mem).any fun h => decide (h.decided = some false) then s.dropSaved r x else s.restoreAt r x

/-- Whether core n can take a saved context now: a free context, room, ring handles, the sequencer. -/
def canTake (s : State) (n : Nat) (r : SaveRecord) : Bool :=
  s.coreFits n r.vregs.length
    && (r.rings.all fun h => (s.ring n h.1).owner.isNone)
    && (r.deck.isNone || !seqBusy s n)

/-- A context of core n for a saved one: its old number, where that is free. -/
def placeOnCore (s : State) (n : Nat) (r : SaveRecord) : Option Nat :=
  if s.ctxFree (8 * n + r.ctxnum) then some (8 * n + r.ctxnum) else s.freeCtx n

/-- The cores of one saved quad resume on one quad, each on its own quad index (09 R225, 14 R299; log entry 25). -/
def quadAllowed (s : State) (p old n : Nat) : Bool :=
  decide (n % 4 = old % 4)
    && (match s.recs.moves.find? fun m => m.1 = p ∧ m.2.1 = quadOf old with
        | some m => decide (m.2.2 = quadOf n)
        | none => s.recs.moves.all fun m => !decide (m.1 = p ∧ m.2.2 = quadOf n))

/-- The saved cores of a quad keep their move until the last of them has resumed. -/
def noteMove (s : State) (p old n : Nat) : State :=
  let left := s.recs.coreSaves.any fun r => decide (r.part = p ∧ quadOf r.core = quadOf old)
  let others := s.recs.moves.filter fun m => ¬ (m.1 = p ∧ m.2.1 = quadOf old)
  let s := { s with recs := { s.recs with moves := if left then (p, quadOf old, quadOf n) :: others else others } }
  s.modPart p fun q => { q with wefts := q.wefts.map fun w => match w.place with
    | some c => if quadOf c = quadOf old then { w with place := some (4 * quadOf n + c % 4) } else w
    | none => w }

/-- Loads a core save record into core n before any of its contexts issues (14 R298, R299). DESIGN CHOICE (log entry 66):
where the saved words and those in the core's queue are more than 64, the last are dropped (07 R163). -/
def loadCore (s : State) (r : CoreSave) (n : Nat) : State :=
  let s := s.fillBobbin n
  s.modCore n fun c => { c with
    st := r.st, stray := r.stray, bobbin := (r.bobbin ++ c.bobbin).take 64
    streams := r.streams.map fun v => (v.1, if v.2.owner < 6144 then { v.2 with owner := 8 * n + v.2.owner % 8 } else v.2)
    seq := r.seq, iss := { c.iss with events := r.events } }

/-- A context saved alone resumes on the core it left. -/
def resumeAlone (s : State) (r : SaveRecord) : State :=
  if s.serves r.part (dieOf r.core) && s.canTake r.core r then
    match s.placeOnCore r.core r with
    | some x => ({ s with recs := { s.recs with saves := s.recs.saves.erase r } } : State).resumeAt r x
    | none => s
  else s

/-- One of the contexts of a core save record that core n has received. One saved alone before the core was, for which the core
has no place or no room left, waits for it there (14 R299). -/
def resumeWith (n : Nat) (s : State) (q : SaveRecord) : State :=
  match s.placeOnCore n q with
  | some x => if s.canTake n q then s.resumeAt q x
    else { s with recs := { s.recs with saves := s.recs.saves ++ [{ q with core := n, alone := true }] } }
  | none => { s with recs := { s.recs with saves := s.recs.saves ++ [{ q with core := n, alone := true }] } }

/-- The contexts of a core save record resume together on core n, those that the core's save saved first. A core that a shrink
has saved never goes back to its die (21 R372). -/
def resumeCore (s : State) (r : SaveRecord) (n : Nat) : State :=
  let rs := s.recs.saves.filter fun q => q.part = r.part ∧ q.core = r.core ∧ q.alone = false
  let free := (List.range 8).all fun c => s.ctxFree (8 * n + c)
  match s.recs.coreSaves.find? fun q => q.part = r.part ∧ q.core = r.core with
  | none => (s.landDue r.core).gatherCore r.part r.core
  | some cs =>
    if s.serves r.part (dieOf n) && (s.quadsOn r.part (dieOf n)).contains (quadOf n) && free && s.quadAllowed r.part r.core n
      && !(cs.off && decide (dieOf n = dieOf r.core)) then
      let s1 := { s with recs := { s.recs with
        saves := s.recs.saves.filter fun q => !rs.contains q, coreSaves := s.recs.coreSaves.erase cs } }
      let s2 := ((s1.loadCore cs n).noteMove r.part r.core n).chargeBytes r.part n 0x128000 (s1.hwPhys r.part cs.addr .read)
      rs.reverse.foldl (resumeWith n) s2
    else s

/-! ### Dumps (14 R300) -/

/-- A context stops at its boundary for a dump, with code 0; what completes a bundle it had not finished is kept, and so is a
failed access that it had still to perform again. -/
def stopForDump (s : State) (x : Nat) : State :=
  let c := s.ctx x
  let again := c.trap.rerun
  let st := match again with
    | some r => r
    | none => { noStop with pc := c.pc }
  let next := match again with
    | some _ => s.ctl x 0x03A
    | none => bundleAddr c.pc
  let st := { st with deferred := c.trap.redo.getD none }
  let s := s.modTrap x fun t => { t with rerun := none, redo := none }
  (s.takeTrap x ⟨0, 15, 0, 0x100, .boundary⟩ (bundleAddr c.pc) next (if again.isSome then s.ctl x 0x012 else 0) st).clearBehind
    (coreOf x) x

/-- The kind of an unpublished write: store buffer, private version, engine write joined. -/
def dumpKind (l : LineWrite) : Nat :=
  match l.home with
  | .buffer => 0
  | .spilled => 1
  | .area => 1
  | .engine => 3
  | .strays => 3
  | .held => 4

/-- The write records of context x: unpublished, engine writes not joined, held. -/
def dumpWrites (s : State) (x : Nat) : List DumpWrite :=
  let m := (s.ctx x).mem
  let id := s.ctl x 0x000
  ((m.unpub ++ m.pubs.flatMap (·.lines)).map fun l => ⟨dumpKind l, id, l⟩)
    ++ (m.landed.map fun w => ⟨2, id, w.2⟩)
    ++ ((heldLinesOf (s.ctx x)).map fun l => ⟨4, id, l⟩)

end State

open State

/-- CONTEXT_SAVE: a save of context x begins, alone unless its core is saved, or ends once what it waits for is done, with the
saves of its gang, which a deck that began since may have made (09 R225, 14 R295). -/
def execContextSave (x : Nat) (s : State) : Out :=
  let s := s.landDue (coreOf x)
  .next <|
    if s.ctxFree x then s
    else match (s.ctx x).iss.saving with
    | none => s.beginSave x true
    | some alone =>
      let s := s.beginSave x alone
      if s.saveReady x then s.endSaves x else s

/-- RESUMPTION of the r-th save record: alone on the core it left, or with its core on core n (14 R299). -/
def execResumption (r n : Nat) (s : State) : Out :=
  .next <| match s.recs.saves[r]? with
  | none => s
  | some q =>
    let s := s.landDue n
    if q.alone then s.resumeAlone q else s.resumeCore q n

/-- DUMP of a partition: every context that is not stopped stops, and the image is taken; saved contexts and cores stand in
it with their records (14 R300). -/
def execDump (p : Nat) (ranges : List (Nat × Nat)) (s : State) : Out :=
  let xs := s.contextsIn p
  let s := xs.foldl (fun (s : State) x =>
    let s := s.landDue (coreOf x)
    if (s.ctx x).iss.phase = .stopped then s else s.stopForDump x) s
  let parked := (s.part p).parked.flatMap fun k => k.lines.map fun l => (⟨4, s.ctxid k.writer p, l⟩ : DumpWrite)
  let away := s.recs.saves.filter fun r => decide (r.part = p)
  let cores := (s.cores.map (·.1)).filter fun n => (s.part p).ent.quads.getLsbD (quadOf n)
  let s := cores.foldl (fun (s : State) n => s.fillBobbin n) s
  let image : DumpImage :=
    { part := p, published := ranges.map fun r => (r.1, (s.hwRead p r.1 r.2).getD [])
      contexts := xs.map (fun x => s.recordOf x true 0) ++ away
      cores := cores.map (fun n => s.coreRecord p n 0) ++ s.recs.coreSaves.filter fun r => decide (r.part = p)
      writes := xs.flatMap s.dumpWrites ++ parked
        ++ away.flatMap fun r => (heldLinesOf r.ctx).map fun l => ⟨4, r.ctx.ctl.get 0 0x000, l⟩ }
  .next { s with recs := { s.recs with dumps := s.recs.dumps ++ [image] } }

end Sys2Proof.Machine
end

