-- ==== Sys2Proof/Machine/Streams.lean ====
section
/-! DEFINITION. Stream front ends: reading the tail, the packets of a stream and of the replays it started, and graph
objects (16 R305, R318 to R321, 17 R324, R325, R335). Each packet event runs one step of the first source whose packet it
is: a running replay of the front end, then the stream itself. -/

namespace Sys2Proof.Machine

/-- How a packet's step ends: it waits, it halts the stream with a code, it goes on later, or it has executed. -/
inductive Ran where
  | waits
  | halts (code : Nat) (s : State)
  | goes (s : State)
  | done (s : State)
deriving DecidableEq, Repr

namespace State

/-! ### Memory as a front end writes it (16 R318) -/

/-- Bytes written and published at .sys by a front end. -/
def frontWrite (s : State) (p va : Nat) (bs : List (BitVec 8)) : Except Nat State :=
  match s.frontPages p .write (va + bs.length) (pagesOf va bs.length) with
  | .error c => .error c
  | .ok pages =>
    let s := s.hwWalks p va bs.length .write
    let cells := (List.range bs.length).map fun i => (physOf pages (va + i), bs.getD i 0)
    .ok ((s.publishCells 0 5 0 cells).repairPoison cells)

/-! ### The control block (16 R318) -/

/-- The status word, written where it changes. -/
def putStatus (s : State) (f v : Nat) : State :=
  let w := s.front f
  if s.hwNat w.part (w.block + 32) 8 = some v then s else s.hwWrite w.part (w.block + 32) (bytesLE 8 v)

/-- A halt: the status word, the notice of vector 2 + f (16 R318, 24 R408). -/
def haltFront (s : State) (f code : Nat) : State :=
  let v := s.front f
  ((s.setFront f { v with halted := true, code := code }).putStatus f (1 + code * 2 ^ 8 + v.head % 2 ^ 32 * 2 ^ 32)).notice
    v.part (2 + f)

/-- Whether a LAUNCH of front end f is in progress. -/
def midLaunch (s : State) (f : Nat) : Bool :=
  (s.front f).launch.isSome || (s.front f).replays.any fun r => r.launch.isSome

/-- Whether a front end may execute: bound, not halted, its partition running, or stopping with a LAUNCH in progress, since a
stream halts at a packet boundary (24 R412). -/
def frontRuns (s : State) (f : Nat) : Bool :=
  let v := s.front f
  v.bound && !v.halted && (decide ((s.part v.part).ent.state = 2) || (decide ((s.part v.part).ent.state = 1) && s.midLaunch f))

/-! ### Sources -/

/-- What front end f does with what it reads, in its turn at the memory (22 R377 to R382, R386). -/
def inFrontTurn (s : State) (f : Nat) (act : State → State) : State :=
  s.inHwTurn (13000 + f) (s.front f).part (s.frontReads f) act

/-- The kinds a source may hold. -/
def kindAllowed (src : Source) (k : Nat) : Bool :=
  match src with
  | .stream => decide (1 ≤ k ∧ k ≤ 6)
  | .replay _ => decide (k = 1 ∨ k = 2 ∨ k = 3 ∨ k = 4 ∨ k = 6)

/-- A packet of a source has executed: the head, or the position in the sequence, moves on. -/
def consume (s : State) (f : Nat) (src : Source) (len : Nat) : State :=
  match src with
  | .replay i =>
    let r := s.replayAt f i
    s.setReplay f i { r with pos := r.pos + len, launch := none }
  | .stream =>
    let v := s.front f
    let s := s.setFront f { v with head := v.head + len, launch := none }
    let s := s.hwWrite v.part (v.block + 24) (bytesLE 8 (v.head + len))
    s.putStatus f (if v.head + len < v.tail then 0 else 2)

def launchOf (s : State) (f : Nat) : Source → Option Launch
  | .stream => (s.front f).launch
  | .replay i => (s.replayAt f i).launch

def setLaunch (s : State) (f : Nat) (src : Source) (l : Launch) : State :=
  match src with
  | .stream => s.modFront f fun v => { v with launch := some l }
  | .replay i => s.setReplay f i { s.replayAt f i with launch := some l }

/-- Counts produced tasks among those a FENCE of the source waits for. -/
def addTasks (s : State) (f : Nat) (src : Source) (qs : List Queued) : State :=
  match src with
  | .stream => s.modFront f fun v => { v with tasks := v.tasks ++ qs }
  | .replay i => s.setReplay f i { s.replayAt f i with tasks := (s.replayAt f i).tasks ++ qs }

/-- Whether a stream packet has a bit set in a reserved field: for LAUNCH bit 63 of its coordinates, bit 7 of byte 1 and, with
kover clear, its kind fields; for the other kinds every unlisted byte before its data (16 R306, R318, R319; log entry 51). -/
def reservedSet (bs : List (BitVec 8)) : Bool :=
  let b1 := pf bs 1 1
  let top := fun (v : Nat) => decide (2 ^ 63 ≤ v)
  match packetKind bs with
  | 1 => decide (128 ≤ b1) || top (pf bs 4 8) || top (pf bs 12 8) || (decide (b1 / 64 % 2 = 0) && decide (pf bs 20 12 ≠ 0))
  | 2 => decide (4 ≤ b1) || decide (pf bs 2 6 ≠ 0 ∨ pf bs 24 232 ≠ 0)
  | 3 => decide (8 ≤ b1) || decide (pf bs 2 6 ≠ 0 ∨ pf bs 24 232 ≠ 0)
  | 4 => decide (pf bs 1 7 ≠ 0 ∨ pf bs 20 12 ≠ 0)
  | 5 => decide (pf bs 1 7 ≠ 0 ∨ pf bs 24 8 ≠ 0)
  | _ => decide (pf bs 1 255 ≠ 0)

/-- Runs the packets of one kind: the first source that can go on. A packet with a reserved field set halts its stream. -/
def runKind (f k : Nat) (act : Source → List (BitVec 8) → State → Ran) :
    List (Source × Except Nat (List (BitVec 8))) → State → State
  | [], s => s
  | (src, .ok bs) :: rest, s =>
    if packetKind bs = k ∧ kindAllowed src k then
      match (if reservedSet bs then Ran.halts 0x02 s else act src bs s) with
      | .waits => runKind f k act rest s
      | .halts code s1 => s1.haltFront f code
      | .goes s1 => s1
      | .done s1 => s1.consume f src bs.length
    else runKind f k act rest s
  | (_, .error _) :: rest, s => runKind f k act rest s

/-- The sources that may run a packet: of a partition that stops, those with a LAUNCH in progress (24 R412). -/
def openSources (s : State) (f : Nat) : List (Source × Except Nat (List (BitVec 8))) :=
  if (s.part (s.front f).part).ent.state = 2 then s.sources f else (s.sources f).filter fun q => (s.launchOf f q.1).isSome

def onKind (s : State) (f k : Nat) (act : Source → List (BitVec 8) → State → Ran) : State :=
  if s.frontRuns f then s.inFrontTurn f fun s => runKind f k act (s.openSources f) s else s

/-! ### Tasks and fences -/

/-- Whether a produced task has ended: its slot is free again or failed. -/
def taskEnded (s : State) (p : Nat) (q : Queued) : Bool :=
  decide (s.slotGen p q.slot ≠ q.gen ∨ s.slotState p q.slot = 0 ∨ s.slotState p q.slot = 4)

/-- Whether a FENCE of a source may pass (16 R319, R320). -/
def fencePasses (s : State) (f : Nat) (src : Source) : Bool :=
  let p := (s.front f).part
  match src with
  | .stream => ((s.front f).tasks.all (s.taskEnded p)) && (s.front f).replays.isEmpty
  | .replay i => (s.replayAt f i).tasks.all (s.taskEnded p)

/-- The front end joins what ended: its view reaches this point of the epoch order (16 R319). -/
def joinView (s : State) (f : Nat) : State := s.modFront f fun v => { v with view := s.pkg.eo }

/-- A .sys release of the front end's view: versions in it become visible everywhere (16 R319, 12 R266; log entry 26). -/
def releaseView (s : State) (f : Nat) : State :=
  let n := (s.front f).view
  { s with versions := s.versions.map fun v =>
      if v.eo < n ∧ v.seen.all (fun p => decide (p.scope ≠ 5)) then { v with seen := v.seen ++ [⟨s.pkg.eo, 5, 0⟩] } else v }

/-! ### LAUNCH (16 R319, 17 R324, R325, R335) -/

/-- Count i of an extent, and coordinate i of an origin. -/
def count21 (v i : Nat) : Nat := v / 2 ^ (21 * i) % 2 ^ 21

def tileCount (e : Nat) : Nat := count21 e 0 * count21 e 1 * count21 e 2

/-- The coordinate of tile t, c0 fastest. -/
def tileCoord (o e t : Nat) : Nat :=
  let a := count21 e 0
  let b := count21 e 1
  (count21 o 0 + t % a) + (count21 o 1 + t / a % b) * 2 ^ 21 + (count21 o 2 + t / a / b) * 2 ^ 42

/-- The kind fields of a weft: shed, scope, stage table. -/
def weftFields (fields : List (BitVec 8)) : Nat × Bool × Nat :=
  let b := (fields.headD 0).toNat
  (b % 16 + 1, decide (b / 16 % 2 = 1), ofBytesLE ((fields.drop 4).take 8))

/-- The kind fields of a surrogate: check, exact, tolerance. -/
def pairFields (fields : List (BitVec 8)) : Nat × Nat × Nat :=
  (ofBytesLE (fields.take 2), ofBytesLE ((fields.drop 2).take 2), ofBytesLE ((fields.drop 4).take 4))

/-- The payload of a launch's tasks; in a replay with param set, the first doubleword names the parameter block. -/
def launchPayload (bs : List (BitVec 8)) (pb : Option Nat) : List (BitVec 8) :=
  let pay := bs.drop 32
  match pb with
  | some a => if (pf bs 1 1) / 32 % 2 = 1 then (bytesLE 8 a ++ pay.drop 8).take pay.length else pay
  | none => pay

/-- The parameter block of a replay. -/
def paramBlock (s : State) (f : Nat) : Source → Option Nat
  | .stream => none
  | .replay i =>
    let r := s.replayAt f i
    match s.graphHeader r.part r.graph with
    | .ok h => some (blockAddr h r.block)
    | .error _ => none

/-- A weft begins: its stage entries are 0 at .pkg before any pick is queued (17 R325). -/
def startWeft (s : State) (p n : Nat) (fields : List (BitVec 8)) : Except Nat (Nat × State) :=
  let w := weftFields fields
  match s.frontPages p .write (w.2.2 + 2 * n) (pagesOf w.2.2 (2 * n)) with
  | .error c => .error c
  | .ok _ =>
    let s := s.hwWriteAs ⟨0, 0, []⟩ p 3 w.2.2 (List.replicate (2 * n) 0)
    let id := (s.part p).wefts.foldl (fun a v => max a (v.id + 1)) 0
    let v : Weft :=
      { id := id, stab := w.2.2, picks := n, shed := w.1, dieScope := w.2.1, ended := [], live := [], place := none
        stopped := false }
    .ok (id, s.modPart p fun r => { r with wefts := r.wefts ++ [v] })

/-- The start of a LAUNCH, with its checks: nothing to produce, a halt code, or the launch in progress. -/
def startLaunch (s : State) (f : Nat) (src : Source) (bs : List (BitVec 8)) : Ran :=
  let p := (s.front f).part
  let tmpl := pf bs 2 2
  let b1 := pf bs 1 1
  let h := decide (pf bs 0 1 / 128 = 1)
  let o := pf bs 4 8
  let e := pf bs 12 8
  let n := tileCount e
  if (s.part p).ent.tmplCount ≤ tmpl then .halts 0x05 s
  else match s.frontRead p ((s.part p).ent.tmplBase + 32 * tmpl) 32, s.template p tmpl with
  | .error c, _ => .halts c s
  | .ok _, none => .halts 0x06 s
  | .ok _, some t =>
    let fields := if b1 / 64 % 2 = 1 then (bs.drop 20).take 12 ++ t.fields.drop 12 else t.fields
    let q := pairFields fields
    if (t.kind = 1 ∨ t.kind = 2) ∧ h then .halts 0x02 s
    else if t.kind = 2 ∧ !(s.plainTemplate p q.1 && s.plainTemplate p q.2.1) then .halts 0x02 s
    else if n ≠ 0 ∧ (List.range 3).any fun i => decide (2 ^ 21 < count21 o i + count21 e i) then .halts 0x05 s
    else if t.kind = 1 ∧ 1048576 < n then .halts 0x05 s
    else if n = 0 then .done s
    else
      let l : Launch :=
        { tmpl := tmpl, origin := o, extent := e, next := 0, prio := if b1 / 16 % 2 = 1 then t.prio else b1 % 16
          hflag := h, kind := t.kind, fields := fields, payload := launchPayload bs (s.paramBlock f src), weft := none }
      if t.kind = 1 then
        match s.startWeft p n fields with
        | .error c => .halts c s
        | .ok (id, s1) => .goes (s1.setLaunch f src { l with weft := some id })
      else .goes (s.setLaunch f src l)

/-- Queues a task that fills slot i, as a front end. -/
def produce (s : State) (f i : Nat) (packet : List (BitVec 8)) : Ran :=
  let p := (s.front f).part
  let s1 := s.fillSlot p i packet 0
  match s1.queueTask p (s.firstDie p) ⟨i, s.slotGen p i⟩ with
  | (.queued, s2) => .done s2
  | (.full, _) => .waits
  | (.unmapped _, _) => .halts 0x19 s

/-- The die on which the picks of a weft are queued: that of pick 0 (17 R325; log entry 27). -/
def weftDie (s : State) (p : Nat) (w : Weft) : Option Nat :=
  match w.place with
  | some c => some (dieOf c)
  | none => match w.live.find? fun k => k.1 = 0 with
    | none => none
    | some k => (List.range 8).find? fun d => (List.range 16).any fun l => (s.level p d l).any fun q => q.slot = k.2

/-- The next pick of a weft (17 R325). -/
def producePick (s : State) (f : Nat) (src : Source) (l : Launch) (w : Weft) (packet : List (BitVec 8)) (i : Nat) : Ran :=
  let p := (s.front f).part
  let q : Queued := ⟨i, s.slotGen p i⟩
  let note := fun (s : State) =>
    ((s.setWeft p { w with live := w.live ++ [(l.next, i)] }).addTasks f src [q]).setLaunch f src { l with next := l.next + 1 }
  if w.shed ≤ l.next ∧ !w.ended.contains (l.next - w.shed) then .waits
  else if l.next = 0 then
    match s.produce f i packet with
    | .done s1 => .goes (note s1)
    | r => r
  else match s.weftDie p w with
  | none => .waits
  | some d =>
    if !s.shareRoom p d ∨ !s.ringEmpty p then .waits else .goes (note ((s.fillSlot p i packet 0).enqueue p d q))

/-- The next surrogate with its check (17 R335). -/
def producePair (s : State) (f : Nat) (src : Source) (l : Launch) (coord i j : Nat) : Ran :=
  let p := (s.front f).part
  let q := pairFields l.fields
  let scope := match s.template p l.tmpl with | some t => t.scope | none => 0
  let pair : Pair := { surrogate := i, check := j, scope := scope, exact := q.2.1, tol := BitVec.ofNat 32 q.2.2 }
  let s1 := s.fillSlot p j (taskPacket l.prio q.1 coord true 1 l.payload) 1
  let s1 := s1.modPart p fun r => { r with pairs := r.pairs ++ [pair] }
  match s1.produce f i (taskPacket l.prio l.tmpl coord true 0 l.payload) with
  | .done s2 => .goes ((s2.addTasks f src [⟨i, s.slotGen p i⟩, ⟨j, s.slotGen p j⟩]).setLaunch f src { l with next := l.next + 1 })
  | .halts c _ => .halts c s
  | _ => .waits

/-- The next task of a launch in progress. -/
def stepLaunch (s : State) (f : Nat) (src : Source) (l : Launch) : Ran :=
  let p := (s.front f).part
  if tileCount l.extent ≤ l.next then .done s
  else
    let coord := tileCoord l.origin l.extent l.next
    let packet := taskPacket l.prio l.tmpl coord l.hflag 0 l.payload
    let free := (List.range (s.slotCount p)).filter fun i => s.slotState p i = 0
    match l.weft with
    | some id =>
      match (s.part p).wefts.find? fun w => w.id = id with
      | none => .done s
      | some w =>
        if w.stopped then .done s
        else match free with
        | [] => .waits
        | i :: _ => s.producePick f src l w packet i
    | none =>
      if l.kind = 2 then
        match free with
        | i :: j :: _ => s.producePair f src l coord i j
        | _ => .waits
      else match free with
        | [] => .waits
        | i :: _ =>
          match s.produce f i packet with
          | .done s1 => .goes ((s1.addTasks f src [⟨i, s.slotGen p i⟩]).setLaunch f src { l with next := l.next + 1 })
          | r => r

/-! ### The other packets -/

/-- Whether the front end may go on with a SIGSEM or FENCE now. -/
def sigsem (s : State) (f : Nat) (src : Source) (bs : List (BitVec 8)) : Ran :=
  let p := (s.front f).part
  let b1 := pf bs 1 1
  let a := pf bs 8 8
  if 2 ≤ b1 % 4 ∨ a % 8 ≠ 0 then .halts 0x02 s
  else if (b1 / 4 % 2 = 1 ∧ !s.fencePasses f src) ∨ s.packetOff p bs then .waits
  else match s.frontRead p a 8 with
  | .error c => .halts c s
  | .ok old =>
    let s1 := (if b1 / 4 % 2 = 1 then s.joinView f else s).releaseView f
    let v := if b1 % 4 = 0 then pf bs 16 8 else (ofBytesLE old + pf bs 16 8) % 2 ^ 64
    match s1.frontWrite p a (bytesLE 8 v) with
    | .error c => .halts c s
    | .ok s2 => .done s2

def waitsem (s : State) (f : Nat) (bs : List (BitVec 8)) : Ran :=
  let rel := pf bs 1 1 % 4
  let a := pf bs 8 8
  if 2 ≤ rel ∨ a % 8 ≠ 0 then .halts 0x02 s
  else match s.frontRead (s.front f).part a 8 with
  | .error c => .halts c s
  | .ok bs' =>
    let v := ofBytesLE bs'
    if (rel = 0 ∧ pf bs 16 8 ≤ v) ∨ (rel = 1 ∧ v = pf bs 16 8) then .done (s.joinView f) else .waits

def patch (s : State) (f : Nat) (bs : List (BitVec 8)) : Ran :=
  let n := pf bs 16 4
  if n = 0 ∨ 224 < n ∨ bs.length < 32 + n then .halts 0x02 s
  else if s.packetOff (s.front f).part bs then .waits
  else match s.frontWrite (s.front f).part (pf bs 8 8) ((bs.drop 32).take n) with
  | .error c => .halts c s
  | .ok s1 => .done s1

/-- gstate as a number (16 R320). -/
def gstateWord (running pending : Bool) (cur done : Nat) : Nat :=
  (if running then 1 else 0) + (if pending then 2 else 0) + cur % 2 * 4 + done % 2 ^ 32 * 2 ^ 32

/-- REPLAY of a stream (16 R321). -/
def replay (s : State) (f : Nat) (bs : List (BitVec 8)) : Ran :=
  let p := (s.front f).part
  let g := pf bs 8 8
  let off := pf bs 16 4
  let n := pf bs 20 4
  if g % 64 ≠ 0 ∨ 224 < n ∨ bs.length < 32 + n then .halts 0x02 s
  else match s.graphHeader p g with
  | .error c => .halts c s
  | .ok h =>
    let st := h.getD 5 0
    let cur := st / 4 % 2
    if h.getD 2 0 < off + n then .halts 0x05 s
    else if s.packetOff p bs then .waits
    else
      let data := (bs.drop 32).take n
      let start := fun (s : State) (running pending : Bool) (b : Nat) =>
        let r : Replay := ⟨g, p, 0, b, [], none, pending⟩
        (s.hwWrite p (g + 32) (bytesLE 8 (gstateWord running pending cur (st / 2 ^ 32)))).modFront f fun v =>
          { v with replays := v.replays ++ [r] }
      if st % 2 = 0 then
        match s.frontWrite p (blockAddr h cur + off) data with
        | .error c => .halts c s
        | .ok s1 => .done (start s1 true false cur)
      else if st / 2 % 2 = 0 then
        match s.frontRead p (blockAddr h cur) (h.getD 2 0) with
        | .error c => .halts c s
        | .ok block =>
          match s.frontWrite p (blockAddr h (1 - cur)) block with
          | .error c => .halts c s
          | .ok s1 => match s1.frontWrite p (blockAddr h (1 - cur) + off) data with
            | .error c => .halts c s
            | .ok s2 => .done (start s2 true true (1 - cur))
      else .waits

/-- The place of a running replay that is complete: its sequence has run and its tasks have ended. -/
def completeReplay (s : State) (f : Nat) : Option Nat :=
  (List.range (s.front f).replays.length).find? fun i =>
    let r := s.replayAt f i
    !r.pending && r.launch.isNone && (s.replayPacket r).isNone && r.tasks.all (s.taskEnded r.part)

/-- The pending replay of a graph starts on its block, in the front end whose stream asked for it. -/
def startPending (s : State) (p g : Nat) : State :=
  { s with fronts := s.fronts.map fun v => (v.1, { v.2 with replays := v.2.replays.map fun r =>
      if r.part = p ∧ r.graph = g ∧ r.pending then { r with pending := false } else r }) }

end State

open State

/-- The tail that front end f reads, and the packets that stand before it: one that cannot be read or is of no allowed kind halts
the stream (16 R318). -/
def State.readTail (s : State) (f : Nat) : State :=
  let v := s.front f
  match s.frontRead v.part (v.block + 16) 8 with
  | .error c => s.haltFront f c
  | .ok bs =>
    let s1 := (s.setFront f { v with tail := ofBytesLE bs }).putStatus f (if v.head < ofBytesLE bs then 0 else 2)
    match (s1.sources f).find? fun q => match q.2 with
      | .error _ => true
      | .ok b => !kindAllowed q.1 (packetKind b) with
    | some (_, .error c) => s1.haltFront f c
    | some (_, .ok _) => s1.haltFront f 0x02
    | none => s1

/-- Front end f with the tail that its control block holds. -/
def State.tailSeen (s : State) (f : Nat) : State :=
  let v := s.front f
  match s.frontRead v.part (v.block + 16) 8 with
  | .error _ => s
  | .ok bs => s.setFront f { v with tail := ofBytesLE bs }

/-- STREAM_TAIL_READ, in the turn of the control block and of what stands before its tail (16 R318, 22 R377, R386). -/
def execStreamTailRead (f : Nat) (s : State) : Out :=
  .next (if s.frontRuns f = false ∨ (s.part (s.front f).part).ent.state ≠ 2 then s
    else s.inHwTurn (13000 + f) (s.front f).part ((s.tailSeen f).frontReads f) fun s => s.readTail f)

/-- A LAUNCH starts, or produces its next task (16 R319). -/
def State.launchStep (s : State) (f : Nat) : State :=
  s.onKind f 1 fun src bs s => match s.launchOf f src with
    | none => s.startLaunch f src bs
    | some l => s.stepLaunch f src l

/-- The LAUNCHes of a front end in progress. -/
def State.launches (s : State) (f : Nat) : List (Option Launch) := (s.front f).launch :: (s.front f).replays.map (·.launch)

/-- LAUNCH_PACKET: a LAUNCH starts, or produces its next task. The stream of a partition that stops halts as its LAUNCH has
executed. DESIGN CHOICE (log entry 53): where the LAUNCH waits for what dispatch alone can give, it halts in its place, and goes
on from there (16 R319, 24 R403, R412). -/
def execLaunchPacket (f : Nat) (s : State) : Out :=
  let t := s.launchStep f
  let stops := s.frontRuns f && decide ((s.part (s.front f).part).ent.state = 1) && !(t.front f).halted
  .next (if stops && (!t.midLaunch f || decide (t.launches f = s.launches f)) then t.haltFront f 0 else t)

/-- WAITSEM_PACKET (16 R319). -/
def execWaitsemPacket (f : Nat) (s : State) : Out := .next (s.onKind f 2 fun _ bs s => s.waitsem f bs)

/-- SIGSEM_PACKET (16 R319). -/
def execSigsemPacket (f : Nat) (s : State) : Out := .next (s.onKind f 3 fun src bs s => s.sigsem f src bs)

/-- PATCH_PACKET (16 R319). -/
def execPatchPacket (f : Nat) (s : State) : Out := .next (s.onKind f 4 fun _ bs s => s.patch f bs)

/-- REPLAY_PACKET (16 R321). -/
def execReplayPacket (f : Nat) (s : State) : Out := .next (s.onKind f 5 fun _ bs s => s.replay f bs)

/-- FENCE_PACKET: the tasks before it have ended and are joined (16 R319, R320). -/
def execFencePacket (f : Nat) (s : State) : Out :=
  .next (s.onKind f 6 fun src _ s => if !s.fencePasses f src then .waits
    else match src with
      | .stream => .done ((s.modFront f fun v => { v with tasks := [] }).joinView f)
      | .replay i => .done ((s.setReplay f i { s.replayAt f i with tasks := [] }).joinView f))

/-- The end of replay i of front end f: gstate is updated, and a pending replay of the graph starts (16 R321). -/
def State.endReplay (s : State) (f i : Nat) : State :=
  let r := s.replayAt f i
  match s.graphHeader r.part r.graph with
  | .error c => s.haltFront f c
  | .ok h =>
    let st := h.getD 5 0
    let pend := decide (st / 2 % 2 = 1)
    let cur := if pend then 1 - st / 4 % 2 else st / 4 % 2
    let s1 := s.hwWrite r.part (r.graph + 32) (bytesLE 8 (gstateWord pend false cur (st / 2 ^ 32 + 1)))
    let s2 := s1.modFront f fun v => { v with replays := v.replays.eraseIdx i }
    if pend then s2.startPending r.part r.graph else s2

/-- REPLAY_COMPLETE (16 R321). -/
def execReplayComplete (f : Nat) (s : State) : Out :=
  .next <| match s.completeReplay f with
  | none => s
  | some i => s.inFrontTurn f fun s => s.endReplay f i

end Sys2Proof.Machine
end

