-- ==== Sys2Proof/Machine/Window.lean ====
section
/-! DEFINITION. What a read of the control window gives (22 R381, 23 R391, R392, R394, 24 R402 to R404). -/

namespace Sys2Proof.Machine

/-! ### The image of a partition table entry (24 R403) -/

def padTo (n : Nat) (bs : List (BitVec 8)) : List (BitVec 8) := bs ++ List.replicate (n - bs.length) 0

def PartEntry.image (e : PartEntry) : List (BitVec 8) :=
  let w := bytesLE 8
  [padTo 8 (bytesLE 1 e.state), bitsToBytes 24 e.quads, padTo 16 (bitsToBytes 12 e.groups), bitsToBytes 8 e.fronts,
    w e.tmplBase, w e.tmplCount, w e.taskBase, w e.taskN, w e.ringBase, w e.ringSize, w e.ringHead, w e.ringTail,
    w e.deferred, (List.range 8).flatMap (fun d => bytesLE 2 (e.shares.get 0 d)), padTo 8 (bytesLE 2 e.handler),
    w e.saveBase, w e.saveSize, w e.root, padTo 128 (e.tmem.flatMap fun r => w r.1 ++ w r.2), w e.editBase, w e.editSize,
    w e.editOver, w e.sampBase, w e.sampSize, w e.sampMask, w e.sampCount, w e.energy, padTo 8 (bytesLE 1 e.shrink)].flatten

/-- The 16 bytes of a trace entry (23 R392). -/
def TraceEntry.image (e : TraceEntry) : Nat :=
  let b := fun (c : Bool) => if c then 1 else 0
  e.pc % 2 ^ 46 + e.ctx % 8 * 2 ^ 46 + e.valid.toNat * 2 ^ 49 + e.done.toNat * 2 ^ 59 + e.cause % 32 * 2 ^ 69
    + b e.seq * 2 ^ 74 + b e.ballast * 2 ^ 75 + e.ccyc % 2 ^ 48 * 2 ^ 80

/-- The status doubleword of a channel (22 R381). -/
def Channel.status (c : Channel) : Nat :=
  c.temp % 8 + c.rate % 4 * 2 ^ 3 + c.cap % 4 * 2 ^ 5 + min c.owed 8 * 2 ^ 8 + min c.abr (2 ^ 32 - 1) * 2 ^ 16

namespace State

/-- Byte o of the device error log, as its ring stands: record i at 32 × (i modulo its size), none where none is (24 R404; the
places in a record: log entry 45). -/
def logByte (s : State) (o : Nat) : BitVec 8 :=
  let room := s.pkg.logSize / 32
  let l := s.recs.log
  match l[(o / 32 + room - (s.recs.logged - l.length) % room) % room]? with
  | some r => (bytesLE 8 r.ptime.toNat ++ bytesLE 4 r.source ++ bytesLE 2 r.code ++ bytesLE 2 r.part ++ bytesLE 8 r.addr).getD (o % 32) 0
  | none => 0

/-- The doubleword at offset o of the package block; the places are the model's (log entry 30). -/
def packageWord (s : State) (o : Nat) : Nat :=
  let b := fun (c : Bool) (i : Nat) => if c then 2 ^ i else 0
  let k := s.pkg
  if o < 0x7A0 then Config.identityKey.toNat / 2 ^ (8 * o) % 2 ^ 64
  else if o = 0x7A0 then k.bootState
  else if o < 0x7E8 then k.chain.toNat / 2 ^ (8 * (o - 0x7A8)) % 2 ^ 64
  else if o = 0x7E8 then k.owner.getD (2 ^ 64 - 1)
  else if o = 0x7F0 then
    b k.hostGovernor 0 + b k.hostRefill 2 + b k.hostLog 3 + b k.hostUpdate 4 + b k.hostCheckpoint 5
  else if o = 0x7F8 then k.logBase
  else if o = 0x800 then k.logSize
  else if o = 0x808 then k.cap.getD 0
  else if o < 0x910 then k.grants.get 0 ((o - 0x810) / 8)
  else if o < 0xD10 then ((s.master ((o - 0x910) / 8)).part.map (· + 1)).getD 0
  else if o = 0xD10 then (List.range 32).foldl (fun acc p => acc + b (s.part p).hostWalks p) 0
  else if o = 0xD18 then (k.pushed.map (· + 1)).getD 0
  else if 0xD20 < o ∧ o ≤ 0xE20 then
    let m := s.master ((o - 0xD20) / 8)
    m.base / 2 ^ 16 * 2 ^ 16 + Nat.log2 m.size
  else if 0x1000 ≤ o ∧ o < 0x2000 then
    match (s.part ((o - 0x1000) / 128)).mapped[o % 128 / 16]? with
    | some r => if o % 16 = 0 then r.1 else r.2
    | none => 0
  else 0

/-- The doubleword at offset o of the control window, o a multiple of 8; unlisted offsets read as 0 (24 R402). The trace
SRAM reads from its oldest entry, and only while run is 0 (23 R391). -/
def windowWord (s : State) (o : Nat) : Nat :=
  if o < 0x100000 then s.packageWord o
  else if o < 0x108000 then
    ofBytesLE (((s.part ((o - 0x100000) / 1024)).ent.image.drop (o % 1024)).take 8)
  else if 0x200000 ≤ o ∧ o < 0x201000 then
    let f := s.front ((o - 0x200000) / 64)
    if o % 64 = 0 then f.part else if o % 64 = 8 then f.block else 0
  else if 0x300000 ≤ o ∧ o < 0x300C00 then (s.channel ((o - 0x300000) / 8)).status
  else if 0x400000 ≤ o ∧ o < 0x408000 then
    let v := s.die ((o - 0x400000) / 4096)
    if o % 4096 < 2048 then (v.table.get 0 (o % 4096 / 8)).toNat
    else if o % 4096 = 2048 then v.traceWord.toNat else 0
  else if 0x500000 ≤ o ∧ o < 0x530000 then
    let k := (s.core ((o - 0x500000) / 256)).iss
    let i := o % 256 / 8
    if i < 16 then k.events.get 0 (i + 1) else if i < 20 then (k.breaks.get 0 (i - 16)).toNat else 0
  else if 0x800000 ≤ o ∧ o < 0x1000000 then
    let v := s.die ((o - 0x800000) / 2 ^ 20)
    let i := o % 2 ^ 20 / 16
    if v.traceWord.getLsbD 7 ∨ v.trace.length ≤ i then 0
    else match v.trace[v.trace.length - 1 - i]? with
    | some e => e.image / 2 ^ (o % 16 * 8) % 2 ^ 64
    | none => 0
  else 0

/-- The n bytes that a read of the control window at offset o gives. -/
def readWindow (s : State) (o n : Nat) : List (BitVec 8) :=
  (List.range n).map fun i => BitVec.ofNat 8 (s.windowWord ((o + i) / 8 * 8) / 2 ^ (8 * ((o + i) % 8)))

end State
end Sys2Proof.Machine
end

