-- ==== Sys2Proof/Machine/MemSystem.lean ====
section
/-! DEFINITION. Events of the memory system: walks, shoot-downs, the edit log, refresh, temperature, scrubbing, and the
requests of hosts and peers with the freezing of masters (22 R378 to R390, 24 R405 to R408). -/

namespace Sys2Proof.Machine

namespace State

/-! ### The edit log (22 R389) -/

/-- One 32-byte record enters the ring; past its size the oldest is overwritten and the overflow count rises. -/
def editRecord (s : State) (p kind core va len stalled : Nat) : State :=
  let q := s.part p
  let room := q.ent.editSize / 32
  if room = 0 then s
  else
    let head := kind + core % 8 * 2 ^ 4 + p * 2 ^ 8 + s.ptime.toNat % 2 ^ 48 * 2 ^ 16
    let s := s.hwWrite p (q.ent.editBase + 32 * (q.editNext % room))
      (bytesLE 8 head ++ bytesLE 8 va ++ bytesLE 8 len ++ bytesLE 8 stalled)
    s.modPart p fun r => { r with
      editNext := r.editNext + 1
      ent := { r.ent with editOver := if room ≤ r.editNext then (r.ent.editOver + 1) % 2 ^ 64 else r.ent.editOver } }

/-- The range that the entry at a physical address maps: found from the root through the tables above it. -/
def entryRange (mem : Memory) (addr : Nat) : Nat → Nat → Nat → Option (Nat × Nat)
  | 0, _, _ => none
  | fuel + 1, table, va =>
    let shift := 43 - 9 * (3 - fuel)
    if table ≤ addr ∧ addr < table + 4096 then some (va + (addr - table) / 8 * 2 ^ shift, 2 ^ shift)
    else (List.range 512).findSome? fun i =>
      let e : BitVec 64 := BitVec.ofNat 64 (mem.readNat (table + 8 * i) 8)
      if entryBit e 0 && !entryBit e 1 then entryRange mem addr fuel (entryPa e) (va + i * 2 ^ shift) else none

/-- Logs an edit of n bytes of partition p's tables at a physical address, one record an entry. An entry that no walk
reaches maps no range (log entry 29). -/
def editLogged (s : State) (p kind core addr n : Nat) : State :=
  let mem := s.mem
  let root := (s.part p).ent.root
  (List.range ((addr + n + 7) / 8 - addr / 8)).foldl (fun (s : State) i =>
    let r := (entryRange mem ((addr / 8 + i) * 8) 4 root 0).getD (0, 0)
    s.editRecord p kind core r.1 r.2 0) s

/-! ### Shoot-downs (22 R388) -/

/-- Whether a cached entry of page number v and page bits z maps bytes of a range. -/
def mapsRange (v z va len : Nat) : Bool := decide (v * 2 ^ z < va + len ∧ va < (v + 1) * 2 ^ z)

/-- The caches of a partition without the entries that map a range. -/
def dropEntries (s : State) (p va len : Nat) : State :=
  let quads := (s.part p).ent.quads
  { s with
    cores := s.cores.map fun c =>
      if quads.getLsbD (quadOf c.1) then
        (c.1, { c.2 with cache := c.2.cache.filter fun e => !mapsRange e.1 e.2.1 va len })
      else c
    dies := s.dies.map fun d => (d.1, { d.2 with walks := d.2.walks.filter fun e =>
      !(decide (e.1 / 2 ^ 40 = p) && mapsRange (e.1 % 2 ^ 40) e.2.1 va len) }) }

/-- The accesses of a partition in flight that used a translation of a range. -/
def accessesIn (s : State) (p va len : Nat) : List (Nat × Nat) :=
  (s.contextsIn p).flatMap fun x => ((s.ctx x).mem.ops.filter fun o =>
    decide (va ≤ o.va ∧ o.va < va + len) || o.pieces.any fun q => decide (q.va < va + len ∧ va < q.va + q.n)).map
      fun o => (x, o.id)

/-- The number by which a shoot-down names the rows that a stream has asked for. -/
def rowsMark (h upTo : Nat) : Nat := 2 ^ 80 + 4 * upTo + h

/-- The engine operations of a partition in flight, fills and pulls of its rings and rows of its streams among them: core and
number. -/
def enginesIn (s : State) (p : Nat) : List (Nat × Nat) :=
  (s.cores.filter fun c => (s.part p).ent.quads.getLsbD (quadOf c.1)).flatMap fun c =>
    c.2.engines.map (fun e => (c.1, e.id))
      ++ (c.2.rings.filter fun r => r.2.owner.isSome && (r.2.filling.isSome || !r.2.queued.isEmpty)).flatMap (fun r =>
        (List.range (max 1 r.2.queued.length)).map fun i => (c.1, fillMark r.1 (r.2.moved + i)))
      ++ (c.2.streams.filter fun v => v.2.opened && !v.2.asked.isEmpty).map fun v =>
        (c.1, rowsMark v.1 (v.2.arrived + v.2.asked.length))

/-- Whether an engine operation that a shoot-down names has completed. -/
def engineDone (s : State) (n mark : Nat) : Bool :=
  if mark < 2 ^ 40 then !((s.core n).engines.any fun o => decide (o.id = mark))
  else if mark < 2 ^ 80 then
    let r := s.ring n (mark % 16)
    r.owner.isNone || (if r.output then r.queued.isEmpty else r.filling.isNone) || decide ((mark - 2 ^ 40) / 16 < r.moved)
  else
    let v := s.stream n (mark % 4)
    !v.opened || decide ((mark - 2 ^ 80) / 4 ≤ v.arrived)

/-- Whether everything a shoot-down waits for is done. -/
def shotDone (s : State) (h : ShootDown) : Bool :=
  (h.waits.all fun w => !((s.ctx w.1).mem.ops.any fun o => decide (o.id = w.2)))
    && (h.engines.all fun e => s.engineDone e.1 e.2)

/-! ### Refresh (22 R378, R380) -/

/-- The refresh interval at a rate, in ps. -/
def refreshTime (rate : Nat) : Nat := match rate with | 0 => 122000 | 1 => 61000 | _ => 30500

def perBankTime : Nat := 90000
def allBankTime : Nat := 280000

/-- Banks of a channel that are refreshing. -/
def refreshing (s : State) (ch : Nat) : List (Nat × Nat) := (s.channel ch).busy.filter fun b => decide (s.pkg.now < b.2)

/-- The lines that the accesses, engines, rings and masters' requests in flight are on their way to. -/
def linesInFlight (s : State) : List Nat :=
  (s.ctxs.flatMap fun c => c.2.mem.ops.flatMap opLines)
    ++ (s.cores.flatMap fun c => (c.2.engines.flatMap s.engineLines) ++ c.2.rings.flatMap fun r => match r.2.owner with
        | some x => if r.2.read && decide (r.2.moved < r.2.tiles) then
            (tileRows r.2 r.2.moved).flatMap fun va => s.globalLines x va r.2.rowb else []
        | none => [])
    ++ s.masters.flatMap fun m => m.2.requests.flatMap fun r => if r.window then [] else
        (List.range ((r.addr + r.len) / 128 - r.addr / 128 + 1)).map (· + r.addr / 128)

/-- Whether a request waits for a bank of a channel: one that the bank has made wait, or, by a free value, one on its way to the
bank that has come there (22 R378; log entry 6). -/
def bankWanted (s : State) (ch bank : Nat) : Bool :=
  (s.channel ch).waiting.any (fun w => decide (w.1 = bank) && s.requestLives w.2.1 w.2.2)
    || ((s.channelLines s.linesInFlight).any (fun l => decide (channelOf (128 * l) = ch ∧ bankOf (128 * l) = bank))
      && Config.arrives s.pkg.now (12000 + ch) bank)

/-- Whether a per-bank refresh may start. -/
def mayRefreshBank (s : State) (ch : Nat) : Bool :=
  let c := s.channel ch
  decide (0 < c.owed) && decide (c.owed < 9) && decide (c.blocked ≤ s.pkg.now)
    && decide ((s.refreshing ch).length < 4) && !((s.refreshing ch).any fun b => decide (b.1 = c.next))
    && !s.bankWanted ch c.next

/-- The threshold of a temperature code in °C. -/
def threshold (code : Nat) : Nat := 75 + 10 * code

/-- The code after a reading: it rises to the highest threshold reached, and falls past each threshold that the reading
is 3 °C below (22 R380). -/
def tempCode (old temp : Nat) : Nat :=
  let up := ((List.range 5).filter fun k => decide (k = 0 ∨ threshold k ≤ temp)).foldl max 0
  let down := ((List.range 5).filter fun k => decide (k = 0 ∨ threshold k < temp + 3)).foldl max 0
  if old < up then up else min old down

/-! ### Scrubbing (22 R390) -/

/-- The line that patrol scrubbing of a channel reads next: its lines in order of address (22 R376, R390; log entry 71). -/
def patrolLine (s : State) (ch : Nat) : Nat :=
  s.pkg.number * 2 ^ 33 + ch / 32 * 2 ^ 29 + ch / 4 % 8 * 2 ^ 26 + (s.channel ch).scrubPos * 4 + ch % 4

/-- The line that stands at the scrubbing's place in the slices of die d, if any: one way of one set of each slice in turn
(22 R390; log entry 71). -/
def sliceLine (s : State) (d : Nat) : Option Nat :=
  let pos := (s.die d).scrubPos
  let slice := 48 * d + pos % 48
  ((s.l2.filter fun e => decide (e.line % 512 = pos / 48 % 512) && decide (e.slice = slice))[pos / 48 / 512]?).map (·.line)

/-- What a scrub read finds in a physical line: an uncorrectable sector is poisoned and logged. A corrected error leaves
the bytes as they are. -/
def scrub (s : State) (source line : Nat) (found : ScrubFinding) : State :=
  match found with
  | .uncorrectable k =>
    ({ s with poison := s.poison.set (4 * line + k.toNat) 1 } : State).log source 0x08 0 (128 * line + 32 * k.toNat)
  | _ => s

/-! ### Masters (24 R405 to R408) -/

/-- The partition whose translation memory holds bytes at a physical address. -/
def tmemOf (s : State) (addr n : Nat) : Option Nat := (List.range 32).find? fun p => s.inTmem p addr n

/-- A master is frozen: its outstanding requests complete with an error, and its streams halt with code 0x07; an owner that did
it loses the ownership (24 R407). -/
def freeze (s : State) (m : Nat) (memory : Bool) : State :=
  let s := s.modMaster m fun q => { q with frozen := true, errors := q.errors + q.requests.length + 1, requests := [] }
  let s : State := match (s.master m).part with
    | some p => (s.fronts.filter fun f => decide (f.2.part = p) && f.2.bound && !f.2.halted).foldl
        (fun (s : State) f => s.haltFront f.1 0x07) s
    | none => s
  if memory && decide (s.pkg.owner = some m) then { s with pkg := { s.pkg with owner := none, open_ := true, target := none } } else s

/-- The partition that a device address belongs to, by channel group. -/
def groupOwner (s : State) (addr : Nat) : Option Nat :=
  let g := (addr / 2 ^ 36 % 16) * 8 + addr / 2 ^ 33 % 8
  (List.range 32).find? fun p => (s.part p).ent.groups.getLsbD g

/-- Whether a checkpoint holds requests to an address (24 R412). -/
def checkpointed (s : State) (addr : Nat) : Bool :=
  match s.groupOwner addr with
  | some p => s.pkg.checkpoints.contains p
  | none => false

/-- Whether master m may make a request: within its partition's memory, and writing no translation memory unless it is
the function that edits it in host-assisted mode (24 R407, 22 R387). -/
def mayReach (s : State) (m addr n : Nat) (write : Bool) : Bool :=
  match (s.master m).part with
  | none => false
  | some p =>
    ((List.range n).all fun i => s.permitted p (addr + i)) &&
      (!write || match s.tmemOf addr n with
        | none => true
        | some t => decide (t = p) && decide (1 ≤ m ∧ m ≤ 32) && (s.part t).hostWalks)

/-- The lines that n bytes at a physical address lie in. -/
def physLines (addr n : Nat) : List Nat :=
  if n = 0 then [] else (List.range ((addr + n - 1) / 128 - addr / 128 + 1)).map (· + addr / 128)

/-- Serves one request to device memory. A read of poisoned bytes answers an error. -/
def serve (s : State) (m addr n : Nat) (data : Option (List (BitVec 8))) : State :=
  if s.mayReach m addr n data.isSome = false then s.freeze m true
  else match data with
  | none =>
    if (firstPoison s.poison addr n).isSome then s.modMaster m fun q => { q with errors := q.errors + 1 }
    else (s.touchLines (physLines addr n) false).modMaster m fun q => { q with answers := q.answers ++ [s.mem.read addr n] }
  | some bs =>
    let bs := bs.take n
    let s1 := s.sysWrite addr bs
    match s.tmemOf addr n with
    | some p => s1.editLogged p 2 0 addr bs.length
    | none => s1

/-- Whether a request reads the control window, which this model places at address 2^52 (log entry 30). -/
def readsWindow (addr : Nat) (data : Option (List (BitVec 8))) : Bool := decide (2 ^ 52 ≤ addr) && data.isNone

/-- Whether a request reads the device error log, which every master may (24 R404). -/
def readsLog (s : State) (addr n : Nat) (data : Option (List (BitVec 8))) : Bool :=
  decide (s.pkg.logBase ≤ addr ∧ addr + n ≤ s.pkg.logBase + s.pkg.logSize / 32 * 32) && data.isNone

/-- Whether a request of master m to device memory comes through: a function's within its aperture (24 R408). -/
def inAperture (s : State) (m addr n : Nat) : Bool :=
  decide (m < 1 ∨ 32 < m ∨ ((s.master m).base ≤ addr ∧ addr + n ≤ (s.master m).base + (s.master m).size))

/-- A request arrives: it is held, behind those held before it, while its master is frozen, a checkpoint runs, version pressure
holds for a line it writes (12 R271), or its channel makes it wait, else served. Every master may read the control window and the error log, and what lies outside a function's
aperture is no address of the device (22 R378 to R380, 24 R402, R404, R405, R408). -/
def request (s : State) (m addr n : Nat) (data : Option (List (BitVec 8))) : State :=
  let hold := fun (s : State) => s.modMaster m fun q => { q with requests := q.requests ++ [⟨addr, n, data, false⟩] }
  if (s.master m).frozen || !(s.master m).requests.isEmpty || (!readsWindow addr data && s.checkpointed addr) then hold s
  else if readsWindow addr data then
    s.modMaster m fun q => { q with answers := q.answers ++ [s.readWindow (addr - 2 ^ 52) n] }
  else if s.readsLog addr n data then
    s.modMaster m fun q => { q with answers := q.answers ++ [(List.range n).map fun i => s.logByte (addr - s.pkg.logBase + i)] }
  else if s.inAperture m addr n = false then s.modMaster m fun q => { q with errors := q.errors + 1 }
  else if s.mayReach m addr n data.isSome = false then s.freeze m true
  else if data.isSome && s.linesOff 8000 (physLines addr n) then hold s
  else match s.memoryTurn (11000 + m) 0 (physLines addr n) with
    | (true, s1) => s1.serve m addr n data
    | (false, s1) => hold s1

end State

open State

/-- TRANSLATION_WALK: die d's unit walks partition p's tables for a missing page; the entries it read are cached, the leaf with
acc, and dirty on a write, set (22 R386). A walk of a range that a shoot-down holds waits. -/
def execTranslationWalk (d p va : Nat) (wr : Bool) (s : State) : Out :=
  .next <|
    if s.shooting p va 1 then s
    else match s.dieWalk d p va with
    | none => s.logWalk p va
    | some l =>
      let ok := if wr then s.entryAllows p va .write l else s.entryAllows p va .read l || s.entryAllows p va .fetch l
      if ok then (s.walked d p va wr l).2.forgetWalks else s

/-- SHOOT_DOWN by a system core: the entries of the range are dropped, and lookups of it wait (22 R388). -/
def execShootDown (p va len core : Nat) (s : State) : Out :=
  let h : ShootDown :=
    { part := p, va := va, len := len, core := core, stalled := 0, waits := s.accessesIn p va len, engines := s.enginesIn p }
  let s := s.dropEntries p va len
  .next { s with shoots := s.shoots ++ [h] }

/-- SHOOT_DOWN_COMPLETE of the i-th shoot-down in progress, with its edit record (22 R388, R389). -/
def execShootDownComplete (i : Nat) (s : State) : Out :=
  .next <| match s.shoots[i]? with
  | none => s
  | some h =>
    if s.shotDone h then
      ({ s with shoots := s.shoots.eraseIdx i } : State).editRecord h.part 1 h.core h.va h.len h.stalled
    else s

/-- TRANSLATION_MEMORY_EDIT: a system core writes an entry of translation memory, and the edit is logged (22 R387, R389). -/
def execTranslationMemoryEdit (core p addr val : Nat) (s : State) : Out :=
  .next <|
    if addr % 8 = 0 ∧ s.inTmem p addr 8 then (s.sysWrite addr (bytesLE 8 val)).editLogged p 0 core addr 8 else s

/-- REFRESH_INTERVAL: at its end one more refresh is owed, and a new rate takes effect (22 R378). -/
def execRefreshInterval (ch : Nat) (s : State) : Out :=
  let c := s.channel ch
  .next <|
    if s.pkg.now < c.interval + refreshTime c.rate then s
    else (s.setChannel ch { c with
      owed := min (c.owed + 1) 9, rate := c.newRate, interval := c.interval + refreshTime c.rate }).drainBacks ch

/-- PER_BANK_REFRESH of the next bank, which no request waits for (22 R378). -/
def execPerBankRefresh (ch : Nat) (s : State) : Out :=
  let c := s.channel ch
  .next <|
    if s.mayRefreshBank ch then
      s.setChannel ch { c with
        busy := (c.next, s.pkg.now + perBankTime) :: s.refreshing ch, next := (c.next + 1) % 32, owed := c.owed - 1 }
    else s

/-- ALL_BANK_REFRESH: with nine refreshes owed the channel is blocked (22 R378). -/
def execAllBankRefresh (ch : Nat) (s : State) : Out :=
  let c := s.channel ch
  .next <|
    if c.owed = 9 ∧ c.blocked ≤ s.pkg.now then
      s.setChannel ch { c with blocked := s.pkg.now + allBankTime, owed := 0, abr := min (c.abr + 1) (2 ^ 32 - 1) }
    else s

/-- The period of the temperature reading of a channel, 100 µs, and that of its patrol scrubbing, 2 µs, in ps. -/
def tempPeriod : Nat := 100000000
def patrolPeriod : Nat := 2000000

/-- TEMPERATURE_READ of a channel in °C, once in each period: its code, the rate from the next interval on, and the cap; a
stop is logged (22 R380). -/
def execTemperatureRead (ch temp : Nat) (s : State) : Out :=
  let c := s.channel ch
  let code := tempCode c.temp temp
  let s1 := s.setChannel ch { c with temp := code, newRate := min code 2, cap := code - 1, tempAt := s.pkg.now }
  .next <|
    if s.pkg.now / tempPeriod ≤ c.tempAt / tempPeriod then s
    else if code = 4 ∧ c.temp ≠ 4 then s1.log ch 0 0 0 else s1

/-- PATROL_SCRUB of the next line of a channel that is not stopped, once in each period; its bytes are the house account's (21
R375, 22 R390). -/
def execPatrolScrub (ch line : Nat) (found : ScrubFinding) (s : State) : Out :=
  let c := s.channel ch
  .next <|
    if c.cap = 3 ∨ s.pkg.now / patrolPeriod ≤ c.scrub / patrolPeriod ∨ line ≠ s.patrolLine ch then s
    else ((s.scrub ch line found).charge 32 (8 + ch / 32) 0 128).setChannel ch { c with
      scrub := s.pkg.now, scrubPos := (c.scrubPos + 1) % 2 ^ 24 }

/-- SLICE_SCRUB of the line at the scrubbing's place of one slice of die d, every slice once in 4,096 cycles while the die is
not gated; a place that holds no line is passed. Its bytes are the house account's (21 R375, 22 R390). -/
def execSliceScrub (d line : Nat) (found : ScrubFinding) (s : State) : Out :=
  let v := s.die d
  .next <|
    if v.gated ∨ v.cyc / 4096 ≤ v.sliceScrub / 4096 then s
    else
      let s1 := match s.sliceLine d with
        | some l => if l = line then (s.scrub d line found).charge 32 d 0 128 else s
        | none => s
      s1.modDie d fun k => { k with
        scrubPos := (k.scrubPos + 1) % (48 * 8192), sliceScrub := if (k.scrubPos + 1) % 48 = 0 then k.cyc else k.sliceScrub }

end Sys2Proof.Machine
end

