-- ==== Sys2Proof/Machine/Governor.lean ====
section
/-! DEFINITION. Events of the governor, the supplies and the gating of dies, and the bobbin generator (01 R15, R20, R23,
07 R159, 21 R359 to R372, R375). An event that cannot happen now leaves the state alone. -/

namespace Sys2Proof.Machine

namespace State

/-! ### Clocks (21 R362, R366) -/

/-- A supply in mV within the range of the columns, 0.42 V to 0.95 V (01 R15, 21 R368). -/
def inRange (v : Nat) : Nat := max 420 (min v 950)

/-- The supply of a column in mV; one that no trim has moved stands at its entry's ceiling (log entry 3). -/
def supplyOf (s : State) (d col : Nat) : Nat :=
  let v := s.die d
  inRange (v.supply.get (s.entryAt d v.entry).vmax col)

/-- The supplies of all 12 columns. -/
def setSupplies (s : State) (d : Nat) (f : Nat → Nat) : State :=
  s.modDie d fun v => { v with supply := (List.range 12).foldl (fun t c => t.put c (inRange (f c))) v.supply }

/-- The profile and the slew of every core of die d. -/
def setProfiles (s : State) (d profile : Nat) (slew : Nat → Nat) : State :=
  (List.range 96).foldl (fun (s : State) k =>
    s.modCore (96 * d + k) fun c => { c with iss := { c.iss with profile := profile, slew := min 16320 (slew (96 * d + k)) } }) s

/-- The governor grants the profiles and slews of die d at an entry: the default profile where no power grant gives one.
While firmware is faulty, hardware holds the default with ballast disabled; in host-assisted mode the host's stay (21 R361,
R362, R369, R370; log entries 3, 6). -/
def grantProfiles (s : State) (d : Nat) (e : Entry) : State :=
  if !s.governing then s.setProfiles d 8192 fun _ => 16320
  else if s.pkg.hostGovernor then s
  else (s.grantedCores d e).foldl (fun (s : State) g =>
    s.modCore g.1 fun c => { c with iss := { c.iss with profile := g.2, slew := min 16320 (Config.slew s.pkg.epoch g.1) } })
      (s.setProfiles d 8192 (Config.slew s.pkg.epoch))

/-- The grants of every clocked die at its present entry. -/
def grantAll (s : State) : State :=
  (List.range 8).foldl (fun (s : State) d => if (s.die d).gated then s else s.grantProfiles d (s.entryAt d (s.die d).entry)) s

/-- Every declared symbol of a die's contexts asks for a new binding (19 R352). -/
def rebind (s : State) (d : Nat) : State :=
  { s with ctxs := s.ctxs.map fun c =>
      if dieOf (coreOf c.1) = d then
        (c.1, { c.2 with syms := c.2.syms.map fun y => (y.1, { y.2 with request := y.2.request || decide (y.2.src ≠ 0) }) })
      else c }

/-- A clock change of die d to entry i: columns up before a raise, then the clock, the pause, the profiles and the
re-binding (01 R15, 21 R366). An entry that a die takes as an epoch begins may hold for the whole of it (21 R370). -/
def setClock (s : State) (d i : Nat) : State :=
  let new := s.entryAt d i
  let mv := fun c => if (s.die d).mhz < new.fmhz then new.vmax else s.supplyOf d c
  let s := s.setSupplies d mv
  let s := s.modDie d fun v => { v with
    entry := i, mhz := new.fmhz, pauseEnd := some (v.cyc + 256), disturbed := v.disturbed || decide (s.pkg.now ≠ s.pkg.epochAt) }
  (s.grantProfiles d new).rebind d

/-- Whether an entry may be taken: it is usable, and the die is clocked and not tripped. -/
def mayClock (s : State) (d i : Nat) : Bool :=
  (s.usableEntries d).contains i && !(s.die d).gated && !(s.die d).tripped && !s.standsAt d i

/-- The die is forced to an entry, if it is not there already. -/
def force (s : State) (d i : Nat) : State := if s.standsAt d i then s else s.setClock d i

/-- The lowest usable entry, for a die that has tripped (21 R370). -/
def toLowest (s : State) (d : Nat) : State :=
  match (s.usableEntries d).head? with
  | some i => if (s.die d).gated then s else s.force d i
  | none => s

/-- The usable entry below the present one. -/
def entryBelow (s : State) (d : Nat) : Option Nat :=
  ((s.usableEntries d).filter fun i => decide (i < (s.die d).entry)).getLast?

/-- Hardware limits once the firmware no longer governs: the last safe entries, the default profiles (21 R370). -/
def holdLimits (s : State) : State :=
  ((s.dies.map (·.1)).foldl (fun (s : State) d =>
    if (s.die d).tripped || (s.die d).gated then s else s.force d (s.die d).lastSafe) s).grantAll

/-! ### Energy (21 R375) -/

/-- The quads by which an account shares the idle power of a unit: those on the die, or in the package for a stack; the
house has the unassigned ones. -/
def quadsOf (s : State) (account unit : Nat) : Nat :=
  let qs := if unit < 8 then (List.range 24).map (24 * unit + ·) else List.range 192
  (qs.filter fun q =>
    if account = 32 then !(s.parts.any fun p => p.2.ent.quads.getLsbD q) else (s.part account).ent.quads.getLsbD q).length

/-- What an account has drawn of a die or a stack: declared weights at the entry's voltage, bytes of engines, and idle power
by quads; the house has drawn what the bobbin generators, the firmware and in-field tests use too (07 R162). The measures of a
byte, of a quad and of those are free values. -/
def drawn (s : State) (unit account : Nat) : Nat :=
  let u := s.recs.usage.get (0, 0) (32 * account + unit)
  u.1 + Config.byteEnergy * u.2 + Config.idleEnergy * s.quadsOf account unit
    + if account = 32 then Config.houseEnergy s.pkg.epoch unit else 0

/-- A partition's share of the measured energy of each die and each stack, the first 20 of what is measured; what the rest of
the package draws is the house's. -/
def energyShare (s : State) (measured : List Nat) (p : Nat) : Nat :=
  (List.range 20).foldl (fun acc i =>
    let all := (List.range 33).foldl (fun t a => t + s.drawn i a) 0
    acc + (if all = 0 then 0 else measured.getD i 0 * s.drawn i p / all)) 0

/-- The epoch's energy: each partition's share, and the rest, with what the house has drawn, to the house account. The
next epoch's use begins at nothing. -/
def divideEnergy (s : State) (measured : List Nat) : State :=
  let shares := (List.range 32).map (s.energyShare measured)
  let s1 := (List.range 32).foldl (fun (t : State) p =>
    if shares.getD p 0 = 0 then t
    else t.modPart p fun q => { q with ent := { q.ent with energy := (q.ent.energy + shares.getD p 0) % 2 ^ 64 } }) s
  { s1 with
    pkg := { s1.pkg with house := s1.pkg.house + (measured.foldl (· + ·) 0 - shares.foldl (· + ·) 0) }
    recs := { s1.recs with usage := [] } }

/-- The last safe entry of each die after an epoch: the one that held for the whole of it without a current-limit or thermal
event. Such an event that goes on is one of the next epoch too (21 R370). -/
def noteSafe (s : State) : State :=
  { s with dies := s.dies.map fun d =>
      (d.1, { d.2 with
        lastSafe := if d.2.disturbed then d.2.lastSafe else d.2.entry
        disturbed := d.2.tripped || d.2.limited.any (·.2) }) }

/-! ### Risk, ballast (21 R361, R367) -/

/-- Whether a step has come to risk its deadline. -/
def atRisk (s : State) (d : Nat) (e : StepEntry) : Bool :=
  let top := ((s.usableEntries d).getLast?.map fun i => (s.entryAt d i).fmhz).getD 0
  let slack : Int := (e.deadline.toNat : Int) - s.ptime.toNat
  e.tracked && !e.risk && s.governing && decide (slack * top < (s.remaining e : Int) * 1000)

/-- The energy weights issued in cycles now − a to now − b of core n. -/
def weightSum (s : State) (n a b : Nat) : Nat :=
  let now := s.cyc n
  ((s.core n).iss.weights.filter fun e => decide (now ≤ e.1 + a ∧ e.1 + b ≤ now)).foldl (fun t e => t + e.2) 0

/-- The weight of the ballast bundle that core n issues in this cycle; 0 for none. No context is ready, and neither a
bundle nor a step has issued; a core that holds no context makes no choice to wait for. -/
def ballastWeight (s : State) (n : Nat) : Nat :=
  let i := (s.core n).iss
  let now := s.cyc n
  let ready : Bool := match i.running with
    | some c => [5, 6, 8, 15].contains (s.ctx (8 * n + c)).iss.cause
    | none => false
  let due := !(s.contextsOf n).isEmpty && decide (i.tried ≠ some now)
  let used := [i.lastIssue, i.stepCyc, i.ballastCyc].contains (some now)
  if (s.die (dieOf n)).gated || due || used || ready then 0
  else min 255 (s.weightSum n 127 64 - i.slew - s.weightSum n 63 1)

/-! ### Gating (01 R20, R23, 21 R371, R372) -/

/-- Whether a die may be gated: every quad of it is unassigned or idle in a shrunk job, no context is on it, no parked
held buffer stands on it, and its engines are done. -/
def mayGate (s : State) (d : Nat) : Bool :=
  !(s.die d).gated
    && (s.parts.all fun p => !((List.range 24).any fun q => p.2.ent.quads.getLsbD (24 * d + q)) || p.2.shrunk.contains d)
    && (s.ctxs.all fun c => decide (dieOf (coreOf c.1) ≠ d) || decide (c.2.iss.phase = .free))
    && (s.parts.all fun p => p.2.parked.all fun k => decide (k.die ≠ d))
    && (s.cores.all fun c => decide (dieOf c.1 ≠ d) || (c.2.engines.isEmpty && c.2.landings.isEmpty))

/-- The clock of a die stops: its bobbin queues are empty, its slices write back, release their load-blocks and drop what
they hold, and the lines of the package spread over the slices that remain (01 R20, 07 R159). -/
def gateDie (s : State) (d : Nat) : State :=
  let ns := (s.cores.map (·.1)).filter fun n => dieOf n = d
  let s := ns.foldl (fun (s : State) n => (s.fillBobbin n).modCore n fun c => { c with bobbin := [] }) s
  (s.modDie d fun v => { v with gated := true, ungateAt := none, drained := v.cyc }).rehash

/-- The queued tasks of a partition on a die leave it, highest level first and in order (21 R372). -/
def requeue (s : State) (p d : Nat) : State :=
  let qs := (List.range 16).reverse.flatMap fun l => s.level p d l
  let s := (List.range 16).foldl (fun (s : State) l => s.setLevel p d l []) s
  qs.foldl (fun (s : State) q => s.releaseTask p d q.slot) s

end State

open State

/-! ### The bobbin generator (07 R159) -/

/-- BOBBIN_PUSH: one word enters a queue that is not full, for the earliest cycle that has not pushed yet. -/
def execBobbinPush (n : Nat) (s : State) : Out :=
  let c := s.core n
  let now := s.cyc n
  let paused : Bool := match c.bobbinPause with | some e => decide (c.bobbinCyc < e) | none => false
  .next <|
    if (s.die (dieOf n)).gated ∨ now ≤ c.bobbinCyc then s
    else if paused || decide (64 ≤ c.bobbin.length) then s.modCore n fun c => { c with bobbinCyc := c.bobbinCyc + 1 }
    else s.modCore n fun c => { c with
      bobbin := c.bobbin ++ [Config.bobbinWord n c.drawn], drawn := c.drawn + 1, bobbinCyc := c.bobbinCyc + 1 }

/-- BOBBIN_HEALTH_FAILURE: nothing is pushed for 4,096 cycles, and an error is logged. -/
def execBobbinHealthFailure (n : Nat) (s : State) : Out :=
  .next (((s.fillBobbin n).modCore n fun c => { c with bobbinPause := some (s.cyc n + 4096) }).log n 0 0 0)

/-- BOBBIN_PAUSE_END. -/
def execBobbinPauseEnd (n : Nat) (s : State) : Out :=
  .next <| match (s.core n).bobbinPause with
  | none => s
  | some e => if s.cyc n < e then s else (s.fillBobbin n).modCore n fun c => { c with bobbinPause := none }

/-! ### The governor -/

/-- GOVERNOR_EPOCH: every 100 µs the energy in µJ measured of each die, of each stack and of the rest of the package is
divided, and the governor grants the profiles and chooses each die's entry (21 R361, R362, R366, R375). -/
def execGovernorEpoch (compute memory : List Nat) (s : State) : Out :=
  .next <|
    if s.pkg.now < (s.pkg.epoch + 1) * 100000000 ∨ compute.length ≠ 8 ∨ memory.length ≠ 13 then s
    else
      let s1 := (s.divideEnergy (compute ++ memory)).noteSafe
      (({ s1 with pkg := { s1.pkg with epoch := s1.pkg.epoch + 1, epochAt := s1.pkg.now } } : State).grantAll).govern

/-- Whether an entry of die d keeps the caps as the other dies stand now, or only lowers the clock. -/
def capped (s : State) (d e : Nat) : Bool :=
  decide ((s.entryAt d e).fmhz ≤ (s.die d).mhz) || s.withinCaps [] d e

/-- CLOCK_CHANGE of die d to entry e by the governor (21 R366). -/
def execClockChange (d e : Nat) (s : State) : Out :=
  .next (if s.governing && !s.pkg.hostGovernor && s.mayClock d e && capped s d e then s.setClock d e else s)

/-- CLOCK_SWITCH_PAUSE_END: bundles issue again (21 R366). -/
def execClockSwitchPauseEnd (d : Nat) (s : State) : Out :=
  .next <| match (s.die d).pauseEnd with
  | none => s
  | some e => if (s.die d).cyc < e then s else s.modDie d fun v => { v with pauseEnd := none }

/-- HOST_ENTRY_CHOICE: in host-assisted mode the host chooses die d's entry, profile and slew, within the caps that hardware
enforces (21 R359, R361, R369). -/
def execHostEntryChoice (d : Nat) (e : EpochChoice) (s : State) : Out :=
  .next <|
    if !s.pkg.hostGovernor || !s.governing || decide (e.profile < 64 ∨ 16320 < e.profile ∨ 16320 < e.slew) then s
    else if s.standsAt d e.entry then s.setProfiles d e.profile fun _ => e.slew
    else if s.mayClock d e.entry && capped s d e.entry then
      (s.setClock d e.entry).setProfiles d e.profile fun _ => e.slew
    else s

/-- DEADLINE_RISK of die d's step number k: light trap 0x16, once per step (21 R367). -/
def execDeadlineRisk (d k : Nat) (s : State) : Out :=
  .next <| match (s.die d).steps[k]? with
  | none => s
  | some e => match s.stepCtx e with
    | none => s
    | some x =>
      if s.atRisk d e then
        let slack := min (e.deadline.toNat - s.ptime.toNat) (2 ^ 32 - 1)
        (s.modDie d fun v => { v with steps := v.steps.set k { e with risk := true } }).pendLight x 1 (BitVec.ofNat 64 slack)
      else s

/-! ### Supplies and currents -/

/-- COLUMN_TRIM_TICK: a column with margin falls by 5 mV, every 10 µs, or 40 µs near threshold (21 R368). -/
def execColumnTrimTick (d col : Nat) (s : State) : Out :=
  let v := s.die d
  let e := s.entryAt d v.entry
  .next <|
    if v.gated ∨ s.governing = false ∨ 12 ≤ col ∨ s.pkg.now < v.trimAt.get 0 col + (if e.nt then 40000000 else 10000000) then s
    else s.setDie d { v with
      supply := v.supply.put col (max (max e.vmin 420) (s.supplyOf d col - 5)), trimAt := v.trimAt.put col s.pkg.now }

/-- MARGIN_ALARM: the supply rises one step; at the ceiling the die goes one entry lower, and the event is logged
(21 R368). -/
def execMarginAlarm (d col : Nat) (s : State) : Out :=
  let v := s.die d
  let top := min (s.entryAt d v.entry).vmax 950
  .next <|
    if v.gated ∨ s.governing = false ∨ 12 ≤ col then s
    else if s.supplyOf d col < top then
      s.setDie d { v with supply := v.supply.put col (min top (s.supplyOf d col + 5)) }
    else
      let s1 := s.log d 0 0 col
      match s1.entryBelow d with
      | some i => s1.setClock d i
      | none => s1

/-- CURRENT_LIMIT: the cores of a column take damping stalls (21 R360). -/
def execCurrentLimit (d col : Nat) (s : State) : Out :=
  .next (s.modDie d fun v => { v with limited := v.limited.put col true, disturbed := true })

/-- CURRENT_BELOW_LIMIT: the stalls end (21 R360). -/
def execCurrentBelowLimit (d col : Nat) (s : State) : Out :=
  .next (s.modDie d fun v => { v with limited := v.limited.put col false })

/-- BALLAST_BUNDLE of core n in an idle cycle, charged to the house account (21 R361, R375). -/
def execBallastBundle (n : Nat) (s : State) : Out :=
  let w := s.ballastWeight n
  .next <|
    if w = 0 then s
    else (s.modCore n fun c => { c with iss := { c.iss with
      ballastCyc := some (s.cyc n), weights := c.iss.weights ++ [(s.cyc n, w)] } }).chargeWeight 32 (dieOf n) w

/-! ### Limits of the hardware (21 R370) -/

/-- WATCHDOG_EXPIRY: the last safe entries and the default profiles are kept, ballast disabled. -/
def execWatchdogExpiry (s : State) : Out :=
  .next ({ s with pkg := { s.pkg with watchdog := true } } : State).holdLimits

/-- THERMAL_TRIP at 110 °C: the die runs at its lowest usable entry. -/
def execThermalTrip (d : Nat) (s : State) : Out :=
  .next ((s.modDie d fun v => { v with tripped := true, disturbed := true }).toLowest d)

/-- THERMAL_RECOVERY below 100 °C: the governor, or the last safe entry, has the die again. -/
def execThermalRecovery (d : Nat) (s : State) : Out :=
  .next <|
    if (s.die d).tripped = false then s
    else
      let s1 := s.modDie d fun v => { v with tripped := false }
      if s1.governing then s1.govern else if (s1.die d).gated then s1 else s1.force d (s1.die d).lastSafe

/-! ### Gating, shrinking and growing -/

/-- DIE_GATE: the clock stops once nothing runs on the die (01 R20, R23, 21 R371). -/
def execDieGate (d : Nat) (s : State) : Out :=
  .next (if s.mayGate d then s.gateDie d else s)

/-- DIE_UNGATE: the 20 µs of an ungating begin (21 R371). -/
def execDieUngate (d : Nat) (s : State) : Out :=
  .next (if (s.die d).gated ∧ (s.die d).ungateAt = none then
    s.modDie d fun v => { v with ungateAt := some (s.pkg.now + 20000000) } else s)

/-- UNGATE_COMPLETE: the die is clocked again from the counts it held, and its slices join the hash; a tripped die and one
that the governor does not govern have their limits from the start (01 R14, R20, 21 R370, R371). -/
def execUngateComplete (d : Nat) (s : State) : Out :=
  .next <| match (s.die d).ungateAt with
  | none => s
  | some t =>
    if s.pkg.now < t then s
    else
      let s1 := (s.modDie d fun v => { v with gated := false, ungateAt := none }).rehash
      let s2 := if (s1.die d).tripped then s1.toLowest d else if s1.governing then s1 else s1.force d (s1.die d).lastSafe
      s2.grantProfiles d (s2.entryAt d (s2.die d).entry)

/-- Whether a shrink of p is asked for by the owner, or by the governor in hardware mode with the owner's permission
(21 R372). -/
def mayShrink (s : State) (req : Option Nat) (p : Nat) : Bool :=
  match req with
  | some m => decide (s.pkg.owner = some m)
  | none => s.governing && !s.pkg.hostGovernor && decide ((s.part p).ent.shrink % 2 = 1)

/-- SHRINK of partition p off die d, asked for by a master or the governor: dispatch stops there, its queues move, its
contexts are saved core by core and resume elsewhere (21 R372). -/
def execShrink (p : ShrinkRequest) (d : Nat) (s : State) : Out :=
  let req := p.master
  let p := p.part
  .next <|
    if !mayShrink s req p ∨ !(s.partDies p).contains d ∨ (s.partDies p).length < 2 then s
    else
      ((s.modPart p fun q => { q with shrunk := d :: q.shrunk }).requeue p d).saveCores p fun e => decide (e = d)

/-- GROW: the die is ungated, and dispatch resumes there. DESIGN CHOICE (log entry 4): it comes after the saves of the shrink
(21 R372). -/
def execGrow (p d : Nat) (s : State) : Out :=
  let s1 := s.modPart p fun q => { q with shrunk := q.shrunk.filter fun e => ¬ e = d }
  .next <|
    if (s.part p).shrunk.contains d && (s.contextsIn p).any fun x => decide (dieOf (coreOf x) = d) then s
    else if (s1.die d).gated ∧ (s1.die d).ungateAt = none then
      s1.modDie d fun v => { v with ungateAt := some (s.pkg.now + 20000000) }
    else s1

end Sys2Proof.Machine
end

