-- ==== Sys2Proof/Machine/Shake.lean ====
section
/-! DEFINITION. SHAKE256 for the measurement chain (24 R409). PRESUMED (log entry 74): the function is that of FIPS 202, which
the spec names and does not give. -/

namespace Sys2Proof.Machine

/-- The rotations of the 25 lanes, lane x + 5y. -/
def laneTurns : List Nat :=
  [0, 1, 62, 28, 27, 36, 44, 6, 55, 20, 3, 10, 43, 25, 39, 41, 45, 15, 21, 8, 18, 2, 61, 56, 14]

/-- The constants of the 24 rounds. -/
def roundConstants : List (BitVec 64) :=
  [0x0000000000000001, 0x0000000000008082, 0x800000000000808A, 0x8000000080008000, 0x000000000000808B, 0x0000000080000001,
    0x8000000080008081, 0x8000000000008009, 0x000000000000008A, 0x0000000000000088, 0x0000000080008009, 0x000000008000000A]
    ++ [0x000000008000808B, 0x800000000000008B, 0x8000000000008089, 0x8000000000008003, 0x8000000000008002, 0x8000000000000080,
      0x000000000000800A, 0x800000008000000A, 0x8000000080008081, 0x8000000000008080, 0x0000000080000001, 0x8000000080008008]

/-- One round of the permutation on 25 lanes. -/
def keccakRound (a : List (BitVec 64)) (rc : BitVec 64) : List (BitVec 64) :=
  let lane := fun (l : List (BitVec 64)) (x y : Nat) => l.getD (x % 5 + 5 * y) 0
  let c := (List.range 5).map fun x => (List.range 5).foldl (fun v y => v ^^^ lane a x y) 0
  let a := (List.range 25).map fun i =>
    a.getD i 0 ^^^ c.getD ((i + 4) % 5) 0 ^^^ (c.getD ((i + 1) % 5) 0).rotateLeft 1
  let b := (List.range 25).map fun i =>
    let k := (i % 5 + 3 * (i / 5)) % 5 + 5 * (i % 5)
    (a.getD k 0).rotateLeft (laneTurns.getD k 0)
  let a := (List.range 25).map fun i =>
    lane b (i % 5) (i / 5) ^^^ (~~~lane b (i % 5 + 1) (i / 5) &&& lane b (i % 5 + 2) (i / 5))
  (a.headD 0 ^^^ rc) :: a.drop 1

def keccak (a : List (BitVec 64)) : List (BitVec 64) := roundConstants.foldl keccakRound a

/-- A block of 136 bytes enters the lanes. -/
def absorb (a : List (BitVec 64)) (block : List (BitVec 8)) : List (BitVec 64) :=
  keccak ((List.range 25).map fun i => a.getD i 0 ^^^ BitVec.ofNat 64 (ofBytesLE ((block.drop (8 * i)).take 8)))

/-- SHAKE256 of some bytes, its first n bytes of output, at most 136. -/
def shake256 (bs : List (BitVec 8)) (n : Nat) : List (BitVec 8) :=
  let blocks := bs.length / 136 + 1
  let fill := 136 * blocks - bs.length
  let padded := bs ++ if fill = 1 then [0x9F] else (0x1F :: List.replicate (fill - 2) 0) ++ [0x80]
  let a := (List.range blocks).foldl (fun a i => absorb a ((padded.drop (136 * i)).take 136)) (List.replicate 25 0)
  (a.flatMap fun v => bytesLE 8 v.toNat).take n

/-- The next value of the measurement chain: SHAKE256 of the value before it and of SHAKE256 of the image, 64 bytes (24 R409;
log entry 74). -/
def chainLink (m : BitVec 512) (image : Nat) : BitVec 512 :=
  BitVec.ofNat 512 (ofBytesLE (shake256 (bytesLE 64 m.toNat ++ shake256 (Config.imageBytes image) 64) 64))

end Sys2Proof.Machine
end

