-- ==== Sys2Proof/Machine/System.lean ====
section
/-! DEFINITION. Events of the system: boot, owners, the control window, partitions, the trace units, attestation,
checkpoints and updates (23 R391, R394, R400, 24). An event that cannot happen now leaves the state alone. -/

namespace Sys2Proof.Machine

/-! ### Writes of a partition table entry (24 R403) -/

/-- The entry an image gives. Hardware writes the counts, the deferred list and the energy account, and the ring offsets
while the partition runs: those keep their values. -/
def PartEntry.ofImage (old : PartEntry) (bs : List (BitVec 8)) : PartEntry :=
  let f := fun o n => ofBytesLE ((bs.drop o).take n)
  { old with
    state := f 0 1, quads := BitVec.ofNat 192 (f 0x008 24), groups := BitVec.ofNat 96 (f 0x020 12)
    fronts := BitVec.ofNat 64 (f 0x030 8), tmplBase := f 0x038 8, tmplCount := f 0x040 8, taskBase := f 0x048 8
    taskN := f 0x050 8, ringBase := f 0x058 8, ringSize := f 0x060 8
    ringHead := if old.state = 2 then old.ringHead else f 0x068 8
    ringTail := if old.state = 2 then old.ringTail else f 0x070 8
    shares := (List.range 8).foldl (fun (t : Tab Nat) d => t.put d (f (0x080 + 2 * d) 2)) []
    handler := f 0x090 2, saveBase := f 0x098 8, saveSize := f 0x0A0 8, root := f 0x0A8 8
    tmem := (List.range 8).map fun i => (f (0x0B0 + 16 * i) 8, f (0x0B8 + 16 * i) 8)
    editBase := f 0x130 8, editSize := f 0x138 8, sampBase := f 0x148 8, sampSize := f 0x150 8, sampMask := f 0x158 8
    shrink := f 0x170 1 }

/-- The doubleword of an image at an offset. -/
def pfWord (bs : List (BitVec 8)) (o : Nat) : Nat := ofBytesLE ((bs.drop o).take 8)

/-- Bytes of an image replaced by a write. -/
def patchBytes (bs : List (BitVec 8)) (o : Nat) (new : List (BitVec 8)) : List (BitVec 8) :=
  (bs.take o ++ new.take (bs.length - o) ++ bs.drop (o + new.length)).take bs.length

/-- The doublewords that n bytes at a window offset touch. -/
def wordsOf (o n : Nat) : List Nat :=
  if n = 0 then [] else (List.range ((o + n - 1) / 8 - o / 8 + 1)).map fun i => 8 * (o / 8 + i)

/-- Where the window entry of an offset ends: partition entries have 1,024 bytes, front ends' 64, and the doublewords between
are no entries of more (24 R402). -/
def entryEnd (o : Nat) : Nat :=
  if o < 0x100000 then 0x100000
  else if o < 0x108000 then (o / 1024 + 1) * 1024
  else if o < 0x200000 then 0x200000
  else if o < 0x201000 then (o / 64 + 1) * 64
  else 2 ^ 52

/-- A write cut at the ends of the entries that it reaches. -/
def splitWrite : Nat → Nat → List (BitVec 8) → List (Nat × List (BitVec 8))
  | 0, _, _ => []
  | fuel + 1, o, bs =>
    if bs.isEmpty then []
    else (o, bs.take (entryEnd o - o)) :: splitWrite fuel (entryEnd o) (bs.drop (entryEnd o - o))

/-- The doubleword at w with the bytes that a write at o gives it. -/
def patchWord (old w o : Nat) (new : List (BitVec 8)) : Nat :=
  ofBytesLE ((List.range 8).map fun i =>
    if o ≤ w + i ∧ w + i < o + new.length then new.getD (w + i - o) 0 else BitVec.ofNat 8 (old / 2 ^ (8 * i)))

namespace State

/-! ### Owners -/

/-- What the owner does; another master is frozen (24 R405, R407). -/
def byOwner (s : State) (m : Nat) (act : State) : State := if s.pkg.owner = some m then act else s.freeze m false

/-- A refused write completes with an error (24 R403, R405). -/
def refuse (s : State) (m : Nat) : State := s.modMaster m fun q => { q with errors := q.errors + 1 }

/-! ### Units of a partition (24 R403) -/

/-- A core of a quad that is assigned to a partition: its stores, planes, streams, cards and counts are cleared, and no result
of an ended task lands there any more (08 R178, 09 R230, 10 R248, 23 R394), and its translations with them (log entry 31). -/
def clearCore (s : State) (n : Nat) : State :=
  s.modCore n fun c => { c with
    st := resetStore, landings := [], arriving := [], joins := [], streams := [], rings := [], seq := resetSequencer, stray := 0, cache := []
    iss := { c.iss with events := [] } }

/-- The trace unit of a quad that changes hands stops, and its SRAM is cleared (23 R391). -/
def clearTrace (s : State) (q : Nat) : State :=
  let d := q / 24
  if bits (s.die d).traceWord 6 0 / 4 = q % 24 then
    s.modDie d fun v => { v with traceWord := v.traceWord &&& ~~~0x80, trace := [], traceLeft := none }
  else s

/-- The quads of an entry change from one set to another. -/
def moveQuads (s : State) (old new : BitVec 192) : State :=
  (List.range 192).foldl (fun (s : State) q =>
    if old.getLsbD q = new.getLsbD q then s
    else
      let s := s.clearTrace q
      if new.getLsbD q then (List.range 4).foldl (fun (s : State) i => s.clearCore (4 * q + i)) s else s) s

/-- Whether another partition holds a unit that an entry of p names: by its own entry, or with a context that is still being
saved on a quad. -/
def takesOthers (s : State) (p : Nat) (e : PartEntry) : Bool :=
  (s.parts.any fun r => decide (r.1 ≠ p) && (decide (r.2.ent.quads &&& e.quads ≠ 0) || decide (r.2.ent.groups &&& e.groups ≠ 0)
    || decide (r.2.ent.fronts &&& e.fronts ≠ 0)))
    || s.ctxs.any fun c => decide (c.2.iss.phase ≠ .free) && decide (s.partOf c.1 ≠ p) && e.quads.getLsbD (quadOf (coreOf c.1))

/-- Whether an entry may take state 2 (24 R403, 16 R313). -/
def startable (e : PartEntry) : Bool :=
  decide (6 ≤ e.taskN ∧ e.taskN ≤ 20) && decide (e.taskBase % 512 = 0) && decide (0 < e.tmplCount)
    && decide (e.ringBase % 65536 = 0) && decide (65536 ≤ e.ringSize ∧ e.ringSize ≤ 2 ^ 32) && decide (e.ringSize % 65536 = 0)

/-- Streams that a stop halted run again (24 R412). -/
def restartFronts (s : State) (p : Nat) : State :=
  (s.fronts.filter fun f => decide (f.2.part = p) && f.2.bound && f.2.halted && decide (f.2.code = 0)).foldl
    (fun (s : State) f => (s.modFront f.1 fun v => { v with halted := false }).putStatus f.1 (if f.2.head < f.2.tail then 0 else 2)) s

/-- State 2: dispatch and the streams of p begin. -/
def startPart (s : State) (p : Nat) : State :=
  (s.modPart p fun q => { q with ent := { q.ent with state := 2 } }).restartFronts p

/-- State 1: dispatch ends, the streams halt at packet boundaries, and every context is saved with its core (14 R295, 24 R403,
R412). -/
def stopPart (s : State) (p : Nat) : State :=
  if (s.part p).ent.state ≠ 2 then s.modPart p fun q => { q with ent := { q.ent with state := 1 } }
  else
    let s := (s.fronts.filter fun f => decide (f.2.part = p) && f.2.bound && !f.2.halted && !s.midLaunch f.1).foldl
      (fun (s : State) f => s.haltFront f.1 0) s
    (s.modPart p fun q => { q with ent := { q.ent with state := 1 } }).saveCores p fun _ => true

/-- Whether a stop of p is still under way: a context is on a core, or a stream ends its LAUNCH. -/
def partBusy (s : State) (p : Nat) : Bool :=
  !(s.contextsIn p).isEmpty || s.fronts.any fun f => decide (f.2.part = p) && f.2.bound && !f.2.halted

/-- State 0: the units are given back, every field is 0, and what the partition still had on its cores or saved is gone. -/
def clearPart (s : State) (p : Nat) : State :=
  let s := (s.contextsIn p).foldl (fun (s : State) x => (s.closeUnits x).freeContext x) s
  let s := (s.moveQuads (s.part p).ent.quads 0).setPart p resetPart
  { s with
    recs := { s.recs with
      usage := s.recs.usage.filter fun u => ¬ u.1 / 32 = p
      saves := s.recs.saves.filter fun r => ¬ r.part = p, coreSaves := s.recs.coreSaves.filter fun r => ¬ r.part = p
      moves := s.recs.moves.filter fun r => ¬ r.1 = p }
    dies := s.dies.map fun d => (d.1, { d.2 with steps := d.2.steps.filter fun e => ¬ e.part = p }) }

/-- The fields of entry p but its state, which units that change hands follow. -/
def setEntry (s : State) (p : Nat) (new : PartEntry) : State :=
  let old := (s.part p).ent
  let s := if new.quads ≠ old.quads then s.moveQuads old.quads new.quads else s
  let s : State := { s with fronts := s.fronts.filter fun f => ¬ (f.2.part = p ∧ f.2.bound = true ∧ new.fronts.getLsbD f.1 = false) }
  s.modPart p fun q => { q with ent := { new with state := old.state } }

/-- Whether a write of n bytes at an offset of an entry reaches its units: quads, groups or fronts (24 R403). -/
def reachesUnits (o n : Nat) : Bool := [(0x008, 24), (0x020, 12), (0x030, 8)].any fun r => decide (o < r.1 + r.2 ∧ r.1 < o + n)

/-- The owner writes bytes of entry p. The units change only while state is 1 and are not written at state 2, an unassigned entry's
fields are 0, and an entry that may not start, or go on as state 2 is written again, stays as it is; in host-assisted mode a
running entry's ring head moves as the host requeues (24 R403, R411). -/
def writeEntry (s : State) (m p o : Nat) (bs : List (BitVec 8)) : State :=
  let old := (s.part p).ent
  let new := old.ofImage (patchBytes old.image o bs)
  let units := decide (new.quads ≠ old.quads ∨ new.groups ≠ old.groups ∨ new.fronts ≠ old.fronts)
  let head := pfWord (patchBytes old.image o bs) 0x068
  if 3 ≤ new.state ∨ (old.state = 2 ∧ reachesUnits o bs.length = true)
      ∨ (units && (decide (old.state = 0 ∧ new.state = 2) || s.takesOthers p new)) = true
      ∨ (new.state = 2 ∧ o = 0 ∧ startable new = false) ∨ (new.state = 0 ∧ old.state = 2)
      ∨ (new.state = 0 ∧ old.state = 0 ∧ new ≠ old) then s.refuse m
  else if new.state = 0 then (if old.state = 0 then s else s.clearPart p)
  else
    let s := if new.state = 1 ∧ old.state ≠ 1 then s.stopPart p else s
    let s := s.setEntry p new
    let s := if old.state = 2 ∧ s.pkg.hostRefill then hostRequeue p head (old.ringSize / 8) s else s
    if new.state = 2 ∧ old.state ≠ 2 then s.startPart p else s

/-- The owner writes bytes of front end f's entry: its partition and its control block. The front end begins at the head
that the control block holds. The same block again restarts a stream: it keeps the replays and the tasks that its FENCEs wait for,
and at the same head the LAUNCH that halted (16 R318 to R320). -/
def writeFront (s : State) (m f o : Nat) (bs : List (BitVec 8)) : State :=
  let v := s.front f
  let new := patchBytes (bytesLE 8 v.part ++ bytesLE 8 v.block) o bs
  let p := ofBytesLE (new.take 8) % 32
  let block := ofBytesLE (new.drop 8)
  let head := (s.hwNat p (block + 24) 8).getD 0
  if (s.part p).ent.fronts.getLsbD f = false then s.refuse m
  else if v.bound ∧ v.part = p ∧ v.block = block then
    s.setFront f { v with halted := false, code := 0, head := head, launch := if head = v.head then v.launch else none }
  else s.setFront f { resetFront with part := p, block := block, bound := decide (o + bs.length > 8) || v.bound, head := head }

/-! ### The trace units (23 R391) -/

/-- The trace control word of die d is written: run starts or stops the unit. -/
def writeTrace (s : State) (m d word : Nat) : State :=
  let w : BitVec 64 := BitVec.ofNat 64 (word % 2 ^ 28)
  let quad := 24 * d + bits w 6 0 / 4
  if w.getLsbD 7 && (decide (96 ≤ bits w 6 0) || !(s.parts.any fun p => p.2.ent.quads.getLsbD quad)) then s.refuse m
  else s.modDie d fun v => { v with traceWord := w, traceLeft := none }

/-! ### The control window (24 R402) -/

/-- The writable doublewords of the package block; their places are the model's (log entry 30). -/
def writePackage (s : State) (o v : Nat) : State :=
  if o = 0x7F0 then
    let b := fun i => decide (v / 2 ^ i % 2 = 1)
    { s with pkg := { s.pkg with
      hostGovernor := b 0, hostRefill := b 2, hostLog := b 3, hostUpdate := b 4, hostCheckpoint := b 5 } }
  else if o = 0x7F8 then { s with pkg := { s.pkg with logBase := v } }
  else if o = 0x800 then { s with pkg := { s.pkg with logSize := v } }
  else if o = 0x808 then { s with pkg := { s.pkg with cap := if v = 0 then none else some v } }
  else if 0x810 ≤ o ∧ o < 0x910 ∧ o % 8 = 0 then
    let p := (o - 0x810) / 8
    ({ s with pkg := { s.pkg with
      grants := if v = 0 then s.pkg.grants.filter fun g => ¬ g.1 = p else s.pkg.grants.put p v } } : State).grantAll
  else if 0x910 ≤ o ∧ o < 0xD10 ∧ o % 8 = 0 then
    s.modMaster ((o - 0x910) / 8) fun q => { q with part := if v = 0 ∨ 32 < v then none else some (v - 1) }
  else if o = 0xD10 then
    (List.range 32).foldl (fun (s : State) p =>
      let on := decide (v / 2 ^ p % 2 = 1)
      if (s.part p).hostWalks = on then s else s.modPart p fun q => { q with hostWalks := on }) s
  else if o = 0xD18 then { s with pkg := { s.pkg with pushed := if v = 0 then none else some (v - 1) } }
  else if 0xD20 < o ∧ o ≤ 0xE20 ∧ o % 8 = 0 then
    s.modMaster ((o - 0xD20) / 8) fun q => { q with base := v / 2 ^ 16 * 2 ^ 16 % 2 ^ 52, size := 2 ^ min (v % 64) 36 }
  else if 0x1000 ≤ o ∧ o < 0x2000 then
    let p := (o - 0x1000) / 128
    s.modPart p fun q =>
      let old := padTo 128 (q.mapped.flatMap fun r => bytesLE 8 r.1 ++ bytesLE 8 r.2)
      let new := patchBytes old (o % 128) (bytesLE 8 v)
      { q with mapped := (List.range 8).map fun i =>
        (ofBytesLE ((new.drop (16 * i)).take 8), ofBytesLE ((new.drop (16 * i + 8)).take 8)) }
  else s

/-- A change of die d's frequency table: the columns keep their supplies, within the range of the entry at which the die still
stands, and a tripped die goes to what is now its lowest entry (01 R15, 21 R365, R368, R370). -/
def editTable (s : State) (d : Nat) (f : Die → Tab (BitVec 64)) : State :=
  let s := (s.setSupplies d (s.supplyOf d)).modDie d fun v => { v with table := f v }
  let e := s.entryAt d (s.die d).entry
  let s := if Entry.proper e && s.standsAt d (s.die d).entry then s.setSupplies d fun c => max e.vmin (min e.vmax (s.supplyOf d c)) else s
  if (s.die d).tripped then s.toLowest d else s

/-- The owner writes the doubleword at window offset w; unlisted and read-only places ignore it (24 R402). -/
def writeWord (s : State) (m w v : Nat) : State :=
  if w < 0x100000 then s.writePackage w v
  else if 0x400000 ≤ w ∧ w < 0x408000 then
    let d := (w - 0x400000) / 4096
    let i := w % 4096
    if i < 2048 then
      if s.pkg.hostGovernor && decide (m ≤ 32) then
        s.editTable d fun k => k.table.put (i / 8) (BitVec.ofNat 64 v &&& 0x1FFFFFFFFF)
      else s.refuse m
    else if i = 2048 then s.writeTrace m d v
    else s
  else if 0x500000 ≤ w ∧ w < 0x530000 then
    let i := w % 256
    if 128 ≤ i ∧ i < 160 then
      s.modCore ((w - 0x500000) / 256) fun c => { c with iss := { c.iss with
        breaks := c.iss.breaks.put ((i - 128) / 8) (BitVec.ofNat 64 v &&& 0x7FFFFFFFFFFFFFF) } }
    else s
  else s

/-- Bytes of a window write that lie in one entry: of a partition, of a front end, or of each doubleword that they touch
(24 R402). -/
def writePart (s : State) (m o : Nat) (bs : List (BitVec 8)) : State :=
  if 0x100000 ≤ o ∧ o < 0x108000 then s.writeEntry m ((o - 0x100000) / 1024) (o % 1024) bs
  else if 0x200000 ≤ o ∧ o < 0x201000 then
    if o % 64 < 16 then s.writeFront m ((o - 0x200000) / 64) (o % 64) (bs.take (16 - o % 64)) else s
  else (wordsOf o bs.length).foldl (fun (s : State) w => s.writeWord m w (patchWord (s.windowWord w) w o bs)) s

/-- A window write of the owner, entry by entry (24 R402). -/
def writeWindow (s : State) (m o : Nat) (bs : List (BitVec 8)) : State :=
  (splitWrite bs.length o bs).foldl (fun (s : State) q => s.writePart m q.1 q.2) s

/-- A window write of any master: held while it is frozen; a write of one that is not the owner freezes it (24 R405,
R407). -/
def windowWrite (s : State) (m o : Nat) (bs : List (BitVec 8)) : State :=
  if (s.master m).frozen then s.modMaster m fun q => { q with requests := q.requests ++ [⟨o, bs.length, some bs, true⟩] }
  else s.byOwner m (s.writeWindow m o bs)

/-- Held requests of master m proceed in order. -/
def proceed (s : State) (m : Nat) : State :=
  let rs := (s.master m).requests
  rs.foldl (fun (s : State) r =>
    if r.window then s.windowWrite m r.addr (r.data.getD []) else s.request m r.addr r.len r.data)
    (s.modMaster m fun q => { q with requests := [] })

/-! ### Boot, checkpoints -/

/-- The package after a reset, before boot: every unit at its reset value. The bytes of device memory and the words that
the bobbin generators have drawn stay (log entry 32). -/
def afterReset (s : State) : State :=
  { reset with
    pkg := { resetPackage with number := s.pkg.number }
    cores := s.cores.map fun c => (c.1, { resetCore with drawn := c.2.drawn })
    mem := s.mem, poison := s.poison, free := s.free }

/-- Whether words are a frequency table: used entries in ascending order, each field in its range, one of 1,600 MHz (21 R365). -/
def properTable (ws : List (BitVec 64)) : Bool :=
  let used := ws.filter fun w => decide (bits w 15 0 ≠ 0)
  let ok := fun (w : BitVec 64) =>
    Entry.proper (entryOf w) && decide (bits w 63 37 = 0) && (w.getLsbD 36 == decide (bits w 15 0 ≤ 600 ∧ bits w 25 16 ≤ 550))
  used.all ok && (used.map fun w => bits w 15 0).contains 1600
    && ((used.zip (used.drop 1)).all fun q => decide (bits q.1 15 0 < bits q.2 15 0))

/-- The frequency tables that a firmware image loads; each die stands at the entry of its clock, or at 1,600 MHz where the new
table has none of it, and a tripped die at the lowest; the columns take the entry's ceiling (01 R15, 21 R365, R370, 24 R409).
Words that are no table load nothing (log entry 3). -/
def loadTables (s : State) (image : Nat) : State :=
  (List.range 8).foldl (fun (s : State) d =>
    let ws := (List.range 256).map (Config.tableWord image d)
    if properTable ws = false then s
    else
      let t : Tab (BitVec 64) := ((List.range 256).zip ws).filter fun q => decide (bits q.2 15 0 ≠ 0)
      let at_ := fun f => ((t.find? fun q => decide (bits q.2 15 0 = f)) <|> t.find? fun q => decide (bits q.2 15 0 = 1600))
      let mhz := (s.die d).mhz
      let goal := if (s.die d).tripped then t.head? else at_ mhz
      let safe := at_ (s.entryAt d (s.die d).lastSafe).fmhz
      match goal, safe with
      | some q, some k =>
        let s := s.modDie d fun v => { v with table := t, lastSafe := k.1 }
        let s := if (s.entryAt d q.1).fmhz = mhz then s.modDie d fun v => { v with entry := q.1 } else s.setClock d q.1
        s.setSupplies d fun _ => (s.entryAt d q.1).vmax
      | _, _ => s) s

/-- The state a signature of an attestation covers: the chain, the firmware, and each entry's units (24 R410). -/
def attested (s : State) : List Nat :=
  s.pkg.chain.toNat :: s.pkg.firmware ++ (List.range 32).flatMap fun p =>
    let e := (s.part p).ent
    [e.quads.toNat, e.groups.toNat, e.fronts.toNat]

/-- The bytes of a partition's channel groups. -/
def groupBytes (s : State) (p : Nat) : Memory :=
  s.mem.filter fun c =>
    decide (c.1 / 2 ^ 40 = s.pkg.number) && (s.part p).ent.groups.getLsbD ((c.1 / 2 ^ 36 % 16) * 8 + c.1 / 2 ^ 33 % 8)

/-- The copy of a checkpoint whose contexts are all saved, and the return of an entry that still stands to state 2 (24 R412). -/
def endCheckpoint (s : State) (p : Nat) : State :=
  let s1 : State := { s with
    recs := { s.recs with tier := (p, s.groupBytes p) :: s.recs.tier.filter fun t => ¬ t.1 = p }
    pkg := { s.pkg with checkpoints := s.pkg.checkpoints.filter fun q => ¬ q = p } }
  (s1.masters.map (·.1)).foldl (fun (s : State) m => if (s.master m).frozen then s else s.proceed m)
    (if (s1.part p).ent.state = 1 then s1.startPart p else s1)

end State

open State

/-! ### Boot and owners -/

/-- PACKAGE_RESET and boot: the images verified extend the chain; with `stage` 0 the firmware, the last image, loads the
frequency tables and claims open, else that stage has failed and boot halts (24 R409). -/
def execPackageReset (stage : Nat) (images : List Nat) (s : State) : Out :=
  let s1 := s.afterReset
  let s1 : State := { s1 with pkg := { s1.pkg with
    bootState := stage, open_ := decide (stage = 0), firmware := images
    chain := images.foldl chainLink 0 } }
  .next <| match images.getLast? with
    | some image => if stage = 0 then s1.loadTables image else s1
    | none => s1

/-- OWNERSHIP_CLAIM of master m: the first valid claim wins, and the lowest id among those of one millisecond
(24 R405). -/
def execOwnershipClaim (m : Nat) (valid : Bool) (s : State) : Out :=
  let ms := s.pkg.now / 1000000000 + 1
  let beats := match s.pkg.owner with
    | some o => decide (s.pkg.ownerSince = ms ∧ m < o)
    | none => s.pkg.open_
  .next <|
    if valid && beats then
      { s with pkg := { s.pkg with owner := some m, ownerSince := ms, open_ := false, target := none } }
    else s

/-- OWNER_HANDOVER: the owner names a target (24 R406). -/
def execOwnerHandover (m heir : Nat) (s : State) : Out :=
  .next (s.byOwner m { s with pkg := { s.pkg with target := some (heir, s.pkg.now + 1000000000000) } })

/-- HANDOVER_ACCEPTANCE within 1 s: ownership passes (24 R406). -/
def execHandoverAcceptance (m : Nat) (s : State) : Out :=
  .next <| match s.pkg.target with
  | some (t, until_) =>
    if t = m ∧ s.pkg.now ≤ until_ then
      { s with pkg := { s.pkg with owner := some m, ownerSince := 0, target := none } }
    else s
  | none => s

/-- HANDOVER_TIMEOUT: nothing changes but the offer (24 R406). -/
def execHandoverTimeout (s : State) : Out :=
  .next <| match s.pkg.target with
  | some (_, until_) => if s.pkg.now ≤ until_ then s else { s with pkg := { s.pkg with target := none } }
  | none => s

/-- OWNERSHIP_LAPSE: the owner's link has been down for 10 s, and claims open again (24 R406). -/
def execOwnershipLapse (s : State) : Out :=
  .next <| match s.pkg.owner with
  | some _ => { s with pkg := { s.pkg with owner := none, open_ := true, target := none } }
  | none => s

/-- CONTROL_WINDOW_WRITE of `size` bytes at a window offset (24 R402, R403, R405). -/
def execControlWindowWrite (m off size val : Nat) (s : State) : Out := .next (s.windowWrite m off (bytesLE size val))

/-- HOST_OR_PEER_REQUEST of master m: n bytes are read, or written with `data` (24 R407, R408). At 2^52 the address space of
the model's requests has the control window, which BAR0 maps (log entry 30). -/
def execHostOrPeerRequest (m addr len : Nat) (data : Option (List (BitVec 8))) (s : State) : Out :=
  .next <| match data with
  | some bs => if 2 ^ 52 ≤ addr then s.windowWrite m (addr - 2 ^ 52) (bs.take len) else s.request m addr len data
  | none => s.request m addr len none

/-- MASTER_RELEASE by the owner: the held requests proceed in order (24 R407). -/
def execMasterRelease (m target : Nat) (s : State) : Out :=
  .next (s.byOwner m
    (if (s.master target).frozen then (s.modMaster target fun q => { q with frozen := false }).proceed target else s))

/-! ### Partitions -/

/-- PARTITION_START: the owner writes state 2 (24 R403). -/
def execPartitionStart (m p : Nat) (s : State) : Out := .next (s.windowWrite m (0x100000 + 1024 * (p % 32)) [2])

/-- PARTITION_STOP: the owner writes state 1 (24 R403). -/
def execPartitionStop (m p : Nat) (s : State) : Out := .next (s.windowWrite m (0x100000 + 1024 * (p % 32)) [1])

/-! ### Trace units -/

/-- TRACE_START: the owner writes a trace control word with run set (23 R391). -/
def execTraceStart (m d word : Nat) (s : State) : Out :=
  .next (s.windowWrite m (0x400800 + 4096 * (d % 8)) (bytesLE 8 (word ||| 0x80)))

/-- TRACE_STOP: the owner clears run (23 R391). -/
def execTraceStop (m d : Nat) (s : State) : Out :=
  .next (s.windowWrite m (0x400800 + 4096 * (d % 8)) (bitsToBytes 8 ((s.die (d % 8)).traceWord &&& ~~~0x80)))

/-- TRACE_POST_EXPIRY: the entries after the trigger are written, and the unit stops (23 R391). -/
def execTracePostExpiry (d : Nat) (s : State) : Out :=
  .next (if (s.die d).traceLeft = some 0 then
    s.modDie d fun v => { v with traceWord := v.traceWord &&& ~~~0x80, traceLeft := none } else s)

/-! ### Attestation, checkpoint, update -/

/-- ATTESTATION of a nonce (24 R410). -/
def execAttestation (nonce : Nat) (s : State) : Out :=
  .next { s with recs := { s.recs with answers := s.recs.answers ++ [Config.signature nonce s.attested] } }

/-- CHECKPOINT of a partition: it is stopped, and once its contexts are saved its groups are copied and it runs again; one that the
owner has started meanwhile is stopped anew. In host-assisted mode the host does both (24 R411, R412). -/
def execCheckpoint (p : Nat) (s : State) : Out :=
  .next <|
    if s.pkg.checkpoints.contains p then
      (if (s.part p).ent.state = 2 then s.stopPart p else if s.partBusy p then s else s.endCheckpoint p)
    else if s.pkg.hostCheckpoint ∨ (s.part p).ent.state ≠ 2 then s
    else
      let s1 := s.stopPart p
      { s1 with pkg := { s1.pkg with checkpoints := s1.pkg.checkpoints ++ [p] } }

/-- FIRMWARE_UPDATE: hardware keeps its limits from the update's start to its end, and a verified image takes its place and
loads its frequency tables. In host-assisted mode the image is the one that the host has pushed over BAR0 (log entry 30; 21 R365,
R370, 24 R411). -/
def execFirmwareUpdate (image : Nat) (valid : Bool) (s : State) : Out :=
  .next <|
    if s.pkg.hostUpdate ∧ s.pkg.pushed ≠ some image then s
    else if s.pkg.updating then
      let s1 : State := { s with pkg := { s.pkg with
        updating := false, pushed := none, firmware := if valid then s.pkg.firmware ++ [image] else s.pkg.firmware } }
      if valid then s1.loadTables image else s1
    else ({ s with pkg := { s.pkg with updating := true } } : State).holdLimits

end Sys2Proof.Machine
end

