-- ==== Sys2Proof/Machine/Dispatch.lean ====
section
/-! DEFINITION. The one dispatch of instructions and events to their meanings. -/

namespace Sys2Proof.Machine

/-- What an instruction or event does to a state: one arm for each row of the opcode table. -/
def exec (i : Instr) (s : State) : Host.Outcome State Fault Refusal :=
  match i with
  | .add d a b => Sys2Proof.Machine.execAdd d a b s
  | .sub d a b => Sys2Proof.Machine.execSub d a b s
  | .mul d a b => Sys2Proof.Machine.execMul d a b s
  | .mulh d a b => Sys2Proof.Machine.execMulh d a b s
  | .mulhu d a b => Sys2Proof.Machine.execMulhu d a b s
  | .divu d a b => Sys2Proof.Machine.execDivu d a b s
  | .remu d a b => Sys2Proof.Machine.execRemu d a b s
  | .and d a b => Sys2Proof.Machine.execAnd d a b s
  | .or d a b => Sys2Proof.Machine.execOr d a b s
  | .xor d a b => Sys2Proof.Machine.execXor d a b s
  | .shl d a b => Sys2Proof.Machine.execShl d a b s
  | .shr d a b => Sys2Proof.Machine.execShr d a b s
  | .sra d a b => Sys2Proof.Machine.execSra d a b s
  | .min d a b => Sys2Proof.Machine.execMin d a b s
  | .max d a b => Sys2Proof.Machine.execMax d a b s
  | .minu d a b => Sys2Proof.Machine.execMinu d a b s
  | .maxu d a b => Sys2Proof.Machine.execMaxu d a b s
  | .slt d a b => Sys2Proof.Machine.execSlt d a b s
  | .sltu d a b => Sys2Proof.Machine.execSltu d a b s
  | .seq d a b => Sys2Proof.Machine.execSeq d a b s
  | .sel d c a b => Sys2Proof.Machine.execSel d c a b s
  | .mov d a => Sys2Proof.Machine.execMov d a s
  | .popc d a => Sys2Proof.Machine.execPopc d a s
  | .clz d a => Sys2Proof.Machine.execClz d a s
  | .ctz d a => Sys2Proof.Machine.execCtz d a s
  | .fnsb d a b => Sys2Proof.Machine.execFnsb d a b s
  | .brev d a => Sys2Proof.Machine.execBrev d a s
  | .addi d a i_ => Sys2Proof.Machine.execAddi d a i_ s
  | .andi d a i_ => Sys2Proof.Machine.execAndi d a i_ s
  | .ori d a i_ => Sys2Proof.Machine.execOri d a i_ s
  | .xori d a i_ => Sys2Proof.Machine.execXori d a i_ s
  | .shli d a n => Sys2Proof.Machine.execShli d a n s
  | .shri d a n => Sys2Proof.Machine.execShri d a n s
  | .srai d a n => Sys2Proof.Machine.execSrai d a n s
  | .movi d i_ => Sys2Proof.Machine.execMovi d i_ s
  | .movk d i_ => Sys2Proof.Machine.execMovk d i_ s
  | .extr d a p l => Sys2Proof.Machine.execExtr d a p l s
  | .depo d a p l => Sys2Proof.Machine.execDepo d a p l s
  | .vadd t d a b k s_ => Sys2Proof.Machine.execVadd t d a b k s_ s
  | .vsub t d a b k s_ => Sys2Proof.Machine.execVsub t d a b k s_ s
  | .vmul t d a b k s_ => Sys2Proof.Machine.execVmul t d a b k s_ s
  | .vmulh t d a b k s_ => Sys2Proof.Machine.execVmulh t d a b k s_ s
  | .vmin t d a b k s_ => Sys2Proof.Machine.execVmin t d a b k s_ s
  | .vmax t d a b k s_ => Sys2Proof.Machine.execVmax t d a b k s_ s
  | .vabs t d a k => Sys2Proof.Machine.execVabs t d a k s
  | .vand t d a b k s_ => Sys2Proof.Machine.execVand t d a b k s_ s
  | .vor t d a b k s_ => Sys2Proof.Machine.execVor t d a b k s_ s
  | .vxor t d a b k s_ => Sys2Proof.Machine.execVxor t d a b k s_ s
  | .vandn t d a b k s_ => Sys2Proof.Machine.execVandn t d a b k s_ s
  | .vshl t d a b k s_ => Sys2Proof.Machine.execVshl t d a b k s_ s
  | .vshr t d a b k s_ => Sys2Proof.Machine.execVshr t d a b k s_ s
  | .vsra t d a b k s_ => Sys2Proof.Machine.execVsra t d a b k s_ s
  | .vrot t d a b k s_ => Sys2Proof.Machine.execVrot t d a b k s_ s
  | .vpopc t d a k => Sys2Proof.Machine.execVpopc t d a k s
  | .vclz t d a k => Sys2Proof.Machine.execVclz t d a k s
  | .vctz t d a k => Sys2Proof.Machine.execVctz t d a k s
  | .vfnsb t d a b k => Sys2Proof.Machine.execVfnsb t d a b k s
  | .vbrev t d a k => Sys2Proof.Machine.execVbrev t d a k s
  | .vcmp t e r a b k s_ => Sys2Proof.Machine.execVcmp t e r a b k s_ s
  | .vsel t d a b k => Sys2Proof.Machine.execVsel t d a b k s
  | .vmov t d a k => Sys2Proof.Machine.execVmov t d a k s
  | .vmovi t d i_ => Sys2Proof.Machine.execVmovi t d i_ s
  | .vbcast t d a k => Sys2Proof.Machine.execVbcast t d a k s
  | .vextr t d a i_ j => Sys2Proof.Machine.execVextr t d a i_ j s
  | .vperm t d a b k => Sys2Proof.Machine.execVperm t d a b k s
  | .xcl t d a n k => Sys2Proof.Machine.execXcl t d a n k s
  | .vred t d a o k s_ => Sys2Proof.Machine.execVred t d a o k s_ s
  | .vfadd t d a b k => Sys2Proof.Machine.execVfadd t d a b k s
  | .vfsub t d a b k => Sys2Proof.Machine.execVfsub t d a b k s
  | .vfmul t d a b k => Sys2Proof.Machine.execVfmul t d a b k s
  | .vfma t d a b k => Sys2Proof.Machine.execVfma t d a b k s
  | .vfmin t d a b k => Sys2Proof.Machine.execVfmin t d a b k s
  | .vfmax t d a b k => Sys2Proof.Machine.execVfmax t d a b k s
  | .vfneg t d a k s_ => Sys2Proof.Machine.execVfneg t d a k s_ s
  | .vfcmp t e r a b k => Sys2Proof.Machine.execVfcmp t e r a b k s
  | .kand d a b => Sys2Proof.Machine.execKand d a b s
  | .kor d a b => Sys2Proof.Machine.execKor d a b s
  | .kxor d a b => Sys2Proof.Machine.execKxor d a b s
  | .knot d a => Sys2Proof.Machine.execKnot d a s
  | .kmov d a => Sys2Proof.Machine.execKmov d a s
  | .fexp2 i_ o d a k r => Sys2Proof.Machine.execFexp2 i_ o d a k r s
  | .flog2 i_ o d a k r => Sys2Proof.Machine.execFlog2 i_ o d a k r s
  | .frcp i_ o d a k r => Sys2Proof.Machine.execFrcp i_ o d a k r s
  | .frsq i_ o d a k r => Sys2Proof.Machine.execFrsq i_ o d a k r s
  | .fsqrt i_ o d a k r => Sys2Proof.Machine.execFsqrt i_ o d a k r s
  | .ftanh i_ o d a k r => Sys2Proof.Machine.execFtanh i_ o d a k r s
  | .fcvt i_ o d a k r => Sys2Proof.Machine.execFcvt i_ o d a k r s
  | .fbpk i_ m d a k r => Sys2Proof.Machine.execFbpk i_ m d a k r s
  | .fbunpk o m d a k r => Sys2Proof.Machine.execFbunpk o m d a k r s
  | .fscl i_ o d a k r => Sys2Proof.Machine.execFscl i_ o d a k r s
  | .frnd i_ o d a k r => Sys2Proof.Machine.execFrnd i_ o d a k r s
  | .bobpop d => Sys2Proof.Machine.execBobpop d s
  | .ldx v b o => Sys2Proof.Machine.execLdx v b o s
  | .stx v b o => Sys2Proof.Machine.execStx v b o s
  | .ldxs z d b o => Sys2Proof.Machine.execLdxs z d b o s
  | .stxs z d b o => Sys2Proof.Machine.execStxs z d b o s
  | .ldw v b o => Sys2Proof.Machine.execLdw v b o s
  | .stw v b o => Sys2Proof.Machine.execStw v b o s
  | .lda v k r i_ => Sys2Proof.Machine.execLda v k r i_ s
  | .sta v k r i_ => Sys2Proof.Machine.execSta v k r i_ s
  | .ldg z d b o => Sys2Proof.Machine.execLdg z d b o s
  | .stg z d b o => Sys2Proof.Machine.execStg z d b o s
  | .vldg v b o => Sys2Proof.Machine.execVldg v b o s
  | .vstg v b o => Sys2Proof.Machine.execVstg v b o s
  | .vgath z v b i_ k => Sys2Proof.Machine.execVgath z v b i_ k s
  | .vscat z v b i_ k => Sys2Proof.Machine.execVscat z v b i_ k s
  | .ldacq s_ d b o => Sys2Proof.Machine.execLdacq s_ d b o s
  | .strel s_ d b o => Sys2Proof.Machine.execStrel s_ d b o s
  | .aadd d b v s_ => Sys2Proof.Machine.execAadd d b v s_ s
  | .amin d b v s_ => Sys2Proof.Machine.execAmin d b v s_ s
  | .amax d b v s_ => Sys2Proof.Machine.execAmax d b v s_ s
  | .axchg d b v s_ => Sys2Proof.Machine.execAxchg d b v s_ s
  | .acas d b v s_ => Sys2Proof.Machine.execAcas d b v s_ s
  | .afadd d b v s_ => Sys2Proof.Machine.execAfadd d b v s_ s
  | .chunk d b v s_ => Sys2Proof.Machine.execChunk d b v s_ s
  | .ldblk n b t => Sys2Proof.Machine.execLdblk n b t s
  | .bufhold n b o => Sys2Proof.Machine.execBufhold n b o s
  | .buffree n b o => Sys2Proof.Machine.execBuffree n b o s
  | .scacc d r s_ g e c => Sys2Proof.Machine.execScacc d r s_ g e c s
  | .mxpushWstore q a o => Sys2Proof.Machine.execMxpushWstore q a o s
  | .mxpushStream q h => Sys2Proof.Machine.execMxpushStream q h s
  | .mxflip => Sys2Proof.Machine.execMxflip s
  | .mxacc b r a f o => Sys2Proof.Machine.execMxacc b r a f o s
  | .mxbp b g n a p h o => Sys2Proof.Machine.execMxbp b g n a p h o s
  | .mxdrain b r a f o => Sys2Proof.Machine.execMxdrain b r a f o s
  | .mxzero b r c => Sys2Proof.Machine.execMxzero b r c s
  | .mxhed h k a c => Sys2Proof.Machine.execMxhed h k a c s
  | .mxunpin h => Sys2Proof.Machine.execMxunpin h s
  | .mxgang q h m => Sys2Proof.Machine.execMxgang q h m s
  | .br o => Sys2Proof.Machine.execBr o s
  | .jmpi a d => Sys2Proof.Machine.execJmpi a d s
  | .call o => Sys2Proof.Machine.execCall o s
  | .ret => Sys2Proof.Machine.execRet s
  | .rep a i_ => Sys2Proof.Machine.execRep a i_ s
  | .yield a i_ => Sys2Proof.Machine.execYield a i_ s
  | .trap i_ => Sys2Proof.Machine.execTrap i_ s
  | .rett => Sys2Proof.Machine.execRett s
  | .rettResume a => Sys2Proof.Machine.execRettResume a s
  | .rettSkip a => Sys2Proof.Machine.execRettSkip a s
  | .rettEnd a => Sys2Proof.Machine.execRettEnd a s
  | .copy d s_ n t => Sys2Proof.Machine.execCopy d s_ n t s
  | .copych h t => Sys2Proof.Machine.execCopych h t s
  | .copymc a n q t => Sys2Proof.Machine.execCopymc a n q t s
  | .cancel t => Sys2Proof.Machine.execCancel t s
  | .waitany d m => Sys2Proof.Machine.execWaitany d m s
  | .waitall m => Sys2Proof.Machine.execWaitall m s
  | .ffrdy d m => Sys2Proof.Machine.execFfrdy d m s
  | .tagclr m => Sys2Proof.Machine.execTagclr m s
  | .tagst d t => Sys2Proof.Machine.execTagst d t s
  | .barinit b e => Sys2Proof.Machine.execBarinit b e s
  | .bararr b n => Sys2Proof.Machine.execBararr b n s
  | .barwait b => Sys2Proof.Machine.execBarwait b s
  | .phase s_ => Sys2Proof.Machine.execPhase s_ s
  | .fence => Sys2Proof.Machine.execFence s
  | .subscr a s_ h => Sys2Proof.Machine.execSubscr a s_ h s
  | .slotwait d h => Sys2Proof.Machine.execSlotwait d h s
  | .slotpop h => Sys2Proof.Machine.execSlotpop h s
  | .slotdone h => Sys2Proof.Machine.execSlotdone h s
  | .unsub d h => Sys2Proof.Machine.execUnsub d h s
  | .seqld a n t => Sys2Proof.Machine.execSeqld a n t s
  | .seqgo a s_ => Sys2Proof.Machine.execSeqgo a s_ s
  | .seqwait => Sys2Proof.Machine.execSeqwait s
  | .gang a m s_ => Sys2Proof.Machine.execGang a m s_ s
  | .spawn d a => Sys2Proof.Machine.execSpawn d a s
  | .taskend => Sys2Proof.Machine.execTaskend s
  | .trigger => Sys2Proof.Machine.execTrigger s
  | .decide b c => Sys2Proof.Machine.execDecide b c s
  | .pkadv a i_ => Sys2Proof.Machine.execPkadv a i_ s
  | .pkset a i_ => Sys2Proof.Machine.execPkset a i_ s
  | .waitl a i_ => Sys2Proof.Machine.execWaitl a i_ s
  | .held => Sys2Proof.Machine.execHeld s
  | .commit s_ => Sys2Proof.Machine.execCommit s_ s
  | .squash => Sys2Proof.Machine.execSquash s
  | .guard d a => Sys2Proof.Machine.execGuard d a s
  | .symdecl a m => Sys2Proof.Machine.execSymdecl a m s
  | .symrd d k w => Sys2Proof.Machine.execSymrd d k w s
  | .symgen d => Sys2Proof.Machine.execSymgen d s
  | .deadline a c => Sys2Proof.Machine.execDeadline a c s
  | .stepend d => Sys2Proof.Machine.execStepend d s
  | .rdctl d n => Sys2Proof.Machine.execRdctl d n s
  | .wrctl a n => Sys2Proof.Machine.execWrctl a n s
  | .coll a t => Sys2Proof.Machine.execColl a t s
  | .bundleIssue n => Sys2Proof.Machine.execBundleIssue n s
  | .yieldWake x => Sys2Proof.Machine.execYieldWake x s
  | .waitTimeout x => Sys2Proof.Machine.execWaitTimeout x s
  | .barrierTimeout x => Sys2Proof.Machine.execBarrierTimeout x s
  | .globalLoadReturn n k id => Sys2Proof.Machine.execGlobalLoadReturn n k id s
  | .atomicPerformed n k id => Sys2Proof.Machine.execAtomicPerformed n k id s
  | .publication x => Sys2Proof.Machine.execPublication x s
  | .forcedSnapshotBoundary x => Sys2Proof.Machine.execForcedSnapshotBoundary x s
  | .copyComplete n id => Sys2Proof.Machine.execCopyComplete n id s
  | .chainRecord n id => Sys2Proof.Machine.execChainRecord n id s
  | .cancelAcknowledge n id => Sys2Proof.Machine.execCancelAcknowledge n id s
  | .multicastPieceLanding n id q => Sys2Proof.Machine.execMulticastPieceLanding n id q s
  | .loadBlockFill n id tag => Sys2Proof.Machine.execLoadBlockFill n id tag s
  | .shuttleFill n h => Sys2Proof.Machine.execShuttleFill n h s
  | .shuttlePull n h => Sys2Proof.Machine.execShuttlePull n h s
  | .heddleRowArrival n h => Sys2Proof.Machine.execHeddleRowArrival n h s
  | .deckLoadComplete n id => Sys2Proof.Machine.execDeckLoadComplete n id s
  | .cardVisit n => Sys2Proof.Machine.execCardVisit n s
  | .cardStep n => Sys2Proof.Machine.execCardStep n s
  | .cardCopyRequest n => Sys2Proof.Machine.execCardCopyRequest n s
  | .collComplete n id peers => Sys2Proof.Machine.execCollComplete n id peers s
  | .spawnComplete x => Sys2Proof.Machine.execSpawnComplete x s
  | .dispatch d p => Sys2Proof.Machine.execDispatch d p s
  | .ringRefill p => Sys2Proof.Machine.execRingRefill p s
  | .contextSave x => Sys2Proof.Machine.execContextSave x s
  | .resumption r n => Sys2Proof.Machine.execResumption r n s
  | .streamTailRead f => Sys2Proof.Machine.execStreamTailRead f s
  | .launchPacket f => Sys2Proof.Machine.execLaunchPacket f s
  | .waitsemPacket f => Sys2Proof.Machine.execWaitsemPacket f s
  | .sigsemPacket f => Sys2Proof.Machine.execSigsemPacket f s
  | .patchPacket f => Sys2Proof.Machine.execPatchPacket f s
  | .replayPacket f => Sys2Proof.Machine.execReplayPacket f s
  | .fencePacket f => Sys2Proof.Machine.execFencePacket f s
  | .replayComplete f => Sys2Proof.Machine.execReplayComplete f s
  | .shootDownComplete i_ => Sys2Proof.Machine.execShootDownComplete i_ s
  | .refreshInterval ch => Sys2Proof.Machine.execRefreshInterval ch s
  | .perBankRefresh ch => Sys2Proof.Machine.execPerBankRefresh ch s
  | .allBankRefresh ch => Sys2Proof.Machine.execAllBankRefresh ch s
  | .bobbinPauseEnd n => Sys2Proof.Machine.execBobbinPauseEnd n s
  | .governorEpoch compute memory => Sys2Proof.Machine.execGovernorEpoch compute memory s
  | .clockChange d e => Sys2Proof.Machine.execClockChange d e s
  | .clockSwitchPauseEnd d => Sys2Proof.Machine.execClockSwitchPauseEnd d s
  | .deadlineRisk d k => Sys2Proof.Machine.execDeadlineRisk d k s
  | .ballastBundle n => Sys2Proof.Machine.execBallastBundle n s
  | .watchdogExpiry => Sys2Proof.Machine.execWatchdogExpiry s
  | .dieGate d => Sys2Proof.Machine.execDieGate d s
  | .ungateComplete d => Sys2Proof.Machine.execUngateComplete d s
  | .handoverTimeout => Sys2Proof.Machine.execHandoverTimeout s
  | .ownershipLapse => Sys2Proof.Machine.execOwnershipLapse s
  | .tracePostExpiry d => Sys2Proof.Machine.execTracePostExpiry d s
  | .checkpoint p => Sys2Proof.Machine.execCheckpoint p s
  | .fixedLatencyWriteback n => Sys2Proof.Machine.execFixedLatencyWriteback n s
  | .dump p ranges => Sys2Proof.Machine.execDump p ranges s
  | .translationWalk d p va wr => Sys2Proof.Machine.execTranslationWalk d p va wr s
  | .shootDown p va len core => Sys2Proof.Machine.execShootDown p va len core s
  | .temperatureRead ch temp => Sys2Proof.Machine.execTemperatureRead ch temp s
  | .patrolScrub ch line found => Sys2Proof.Machine.execPatrolScrub ch line found s
  | .sliceScrub d line found => Sys2Proof.Machine.execSliceScrub d line found s
  | .bobbinPush n => Sys2Proof.Machine.execBobbinPush n s
  | .bobbinHealthFailure n => Sys2Proof.Machine.execBobbinHealthFailure n s
  | .hostEntryChoice d e => Sys2Proof.Machine.execHostEntryChoice d e s
  | .columnTrimTick d col => Sys2Proof.Machine.execColumnTrimTick d col s
  | .marginAlarm d col => Sys2Proof.Machine.execMarginAlarm d col s
  | .currentLimit d col => Sys2Proof.Machine.execCurrentLimit d col s
  | .thermalTrip d => Sys2Proof.Machine.execThermalTrip d s
  | .thermalRecovery d => Sys2Proof.Machine.execThermalRecovery d s
  | .dieUngate d => Sys2Proof.Machine.execDieUngate d s
  | .shrink p d => Sys2Proof.Machine.execShrink p d s
  | .grow p d => Sys2Proof.Machine.execGrow p d s
  | .packageReset stage images => Sys2Proof.Machine.execPackageReset stage images s
  | .ownershipClaim m valid => Sys2Proof.Machine.execOwnershipClaim m valid s
  | .ownerHandover m heir => Sys2Proof.Machine.execOwnerHandover m heir s
  | .handoverAcceptance m => Sys2Proof.Machine.execHandoverAcceptance m s
  | .controlWindowWrite m off size val => Sys2Proof.Machine.execControlWindowWrite m off size val s
  | .masterRelease m target => Sys2Proof.Machine.execMasterRelease m target s
  | .partitionStart m p => Sys2Proof.Machine.execPartitionStart m p s
  | .partitionStop m p => Sys2Proof.Machine.execPartitionStop m p s
  | .traceStart m d word => Sys2Proof.Machine.execTraceStart m d word s
  | .traceStop m d => Sys2Proof.Machine.execTraceStop m d s
  | .attestation nonce => Sys2Proof.Machine.execAttestation nonce s
  | .firmwareUpdate image valid => Sys2Proof.Machine.execFirmwareUpdate image valid s
  | .hostOrPeerRequest m addr len data => Sys2Proof.Machine.execHostOrPeerRequest m addr len data s
  | .translationMemoryEdit core p addr val => Sys2Proof.Machine.execTranslationMemoryEdit core p addr val s
  | .currentBelowLimit d col => Sys2Proof.Machine.execCurrentBelowLimit d col s

end Sys2Proof.Machine
end

