-- ==== Sys2Proof/Machine/Schedule.lean ====
section
/-! DEFINITION. What happens next: the internal events that can happen now, the issue of a core, and the passing of time,
with the stall counters and the trace units (log entry 33; 04 R89, R110, 22 R389, 23 R391 to R394). -/

namespace Sys2Proof.Machine

namespace State

/-- Whether an event changes the state. -/
def changes (s : State) (i : Instr) : Bool :=
  match exec i s with
  | .next t => decide (t ≠ s)
  | _ => false

/-- The first event of a list that changes the state. -/
def firstEvent (s : State) (is : List Instr) : Option Instr := is.find? s.changes

/-! ### Events that wait for nothing outside -/

/-- The events of context x: the end of its save, waits, publications and results. -/
def contextEvents (s : State) (x : Nat) : List Instr :=
  let c := s.ctx x
  let now := s.pkg.now
  (if c.iss.saving.isSome then [.contextSave x] else [])
    ++ (if c.iss.sleepUntil.isSome then [.yieldWake x] else [])
    ++ (match c.iss.wait with
      | some w => if w.timed = 0x17 then [.waitTimeout x] else if w.timed = 0x0B then [.barrierTimeout x] else []
      | none => [])
    ++ (if c.mem.pubs.isEmpty then [] else [.publication x])
    ++ (if c.mem.view.isSome then [.forcedSnapshotBoundary x] else [])
    ++ (c.mem.ops.filter fun o => Config.arrives now x o.id).map fun o =>
        if o.size = 8 then .spawnComplete x
        else if o.home.isSome then .atomicPerformed (coreOf x) (x % 8) o.id
        else .globalLoadReturn (coreOf x) (x % 8) o.id

/-- The events of an engine operation of core n. -/
def engineEvents (n : Nat) (e : EngineOp) : List Instr :=
  (if e.cancel then [.cancelAcknowledge n e.id] else [])
    ++ match e.kind with
      | .copy _ _ _ => [.copyComplete n e.id]
      | .chain _ => [.chainRecord n e.id]
      | .multicast _ _ _ _ _ _ => (List.range 4).map fun q => .multicastPieceLanding n e.id q
      | .deck _ _ => [.deckLoadComplete n e.id]
      | .block _ _ => [.loadBlockFill n e.id e.tag]
      | .coll _ => [.collComplete n e.id []]

/-- The events of core n: landings, engines, rings, rows and the generator. -/
def coreEvents (s : State) (n : Nat) : List Instr :=
  let c := s.core n
  let now := s.pkg.now
  (if c.landings.isEmpty then [] else [.fixedLatencyWriteback n])
    ++ ((c.engines.filter fun e => e.cancel || Config.arrives now (8000 + n) e.id).flatMap fun e => engineEvents n e)
    ++ (((c.rings.map (·.1)).filter fun h => Config.arrives now (9000 + n) h).flatMap fun h =>
        [.shuttleFill n h, .shuttlePull n h])
    ++ (((c.streams.map (·.1)).filter fun h => Config.arrives now (10000 + n) h).map fun h => .heddleRowArrival n h)
    ++ (if c.bobbinPause.isSome then [.bobbinPauseEnd n] else [])

/-- The events of partition p: checkpoint, refills, placements. -/
def partEvents (s : State) (p : Nat) : List Instr :=
  (if s.pkg.checkpoints.contains p then [.checkpoint p] else [])
    ++ (if (s.part p).ent.state = 2 then .ringRefill p :: (s.partDies p).map (fun d => .dispatch d p) else [])

/-- The resumptions that may be tried: each saved context on the core it left, or on every core of its partition. -/
def resumeEvents (s : State) : List Instr :=
  (List.range s.recs.saves.length).flatMap fun r =>
    match s.recs.saves[r]? with
    | none => []
    | some q =>
      if q.alone then [.resumption r q.core]
      else ((List.range 192).filter fun k => (s.part q.part).ent.quads.getLsbD k).map fun k => .resumption r (4 * k + q.core % 4)

/-- The events of front end f. -/
def frontEvents (f : Nat) : List Instr :=
  [.replayComplete f, .launchPacket f, .waitsemPacket f, .sigsemPacket f, .patchPacket f, .replayPacket f, .fencePacket f,
    .streamTailRead f]

/-- The events of a channel that are due. -/
def channelEvents (s : State) (ch : Nat) : List Instr :=
  let c := s.channel ch
  if s.pkg.now < c.interval + refreshTime c.rate ∧ c.owed = 0 then []
  else [.refreshInterval ch, .allBankRefresh ch, .perBankRefresh ch]

/-- The events of a die: the ends of its waits, risks of its steps, the gating of a die that a job has left. -/
def dieEvents (s : State) (d : Nat) : List Instr :=
  let v := s.die d
  (if v.pauseEnd.isSome then [.clockSwitchPauseEnd d] else [])
    ++ (if v.ungateAt.isSome then [.ungateComplete d] else [])
    ++ (if v.traceLeft = some 0 then [.tracePostExpiry d] else [])
    ++ ((List.range v.steps.length).map fun k => .deadlineRisk d k)
    ++ (if s.parts.any fun p => p.2.shrunk.contains d then [.dieGate d] else [])

/-- The events of the package: the governor's epoch, the end of an offer of the ownership, the shoot-downs. -/
def packageEvents (s : State) : List Instr :=
  (if s.pkg.now < (s.pkg.epoch + 1) * 100000000 then []
   else [.governorEpoch ((List.range 8).map (Config.joules s.pkg.epoch))
     ((List.range 13).map fun i => Config.joules s.pkg.epoch (8 + i))])
    ++ (if s.pkg.target.isSome then [.handoverTimeout] else [])
    ++ (List.range s.shoots.length).map .shootDownComplete

/-- The next internal event that can happen now. -/
def nextEvent (s : State) : Option Instr :=
  let xs := (s.ctxs.map (·.1)).filter fun x => !s.ctxFree x
  (s.firstEvent s.packageEvents)
    <|> ((List.range 8).findSome? fun d => s.firstEvent (s.dieEvents d))
    <|> (xs.findSome? fun x => s.firstEvent (s.contextEvents x))
    <|> ((s.cores.map (·.1)).findSome? fun n => s.firstEvent (s.coreEvents n))
    <|> ((s.parts.map (·.1)).findSome? fun p => s.firstEvent (s.partEvents p))
    <|> (s.firstEvent s.resumeEvents)
    <|> ((s.fronts.filter fun f => f.2.bound && !f.2.halted).findSome? fun f => s.firstEvent (frontEvents f.1))
    <|> ((List.range 384).findSome? fun ch => s.firstEvent (s.channelEvents ch))

/-! ### The issue of a cycle -/

/-- A core that holds a context and has not made its choice in this cycle. -/
def nextIssue (s : State) : Option Nat :=
  ((s.ctxs.filter fun c => decide (c.2.iss.phase ≠ .free)).map fun c => coreOf c.1).find? fun n =>
    !(s.die (dieOf n)).gated && decide ((s.core n).iss.tried ≠ some (s.cyc n))

/-- The deck events and the ballast of a cycle. -/
def lateEvents (s : State) (n : Nat) : List Instr :=
  (if (s.core n).seq.running then [.cardVisit n, .cardStep n, .cardCopyRequest n]
    else if (s.core n).arriving.isEmpty then [] else [.cardVisit n])
    ++ (if (s.core n).iss.slew = 16320 then [] else [.ballastBundle n])

def nextLate (s : State) : Option Instr :=
  (s.cores.map (·.1)).findSome? fun n => s.firstEvent (s.lateEvents n)

/-! ### The end of a cycle -/

/-- The stall cause of core n in the cycle that ends; 0 where a bundle issued (23 R393). A column at its limit and a clock
switch hold every core, whether a context is eligible or not (21 R360, R366). -/
def causeOf (s : State) (n : Nat) : Nat :=
  let k := (s.core n).iss
  let now := s.cyc n
  if k.lastIssue = some now then 0
  else
    let own := (List.range 8).filterMap fun c =>
      let i := (s.ctx (8 * n + c)).iss
      if i.phase = .free ∨ i.phase = .saved then none
      else if i.saving.isSome then some 14
      else if i.phase = .stopped ∨ i.cause = 0 then none
      else some i.cause
    ((if (s.die (dieOf n)).limited.get false (columnOf n) then [6] else []) ++ (if s.paused n then [15] else [])
      ++ (if k.ballastCyc = some now then [7] else []) ++ own).foldl min 16

/-- The trace entry of core n for the cycle that ends (23 R392). A core whose unit no context holds has no next bundle: its
pc and context are free values. -/
def traceEntry (s : State) (n : Nat) : TraceEntry :=
  let k := (s.core n).iss
  let now := s.cyc n
  let seq := decide (k.stepCyc = some now)
  match (if k.lastIssue = some now then k.last else none) with
  | some e => { e with seq := seq }
  | none =>
    let ballast := decide (k.ballastCyc = some now)
    match k.running with
    | some c =>
      ⟨(s.ctx (8 * n + c)).pc.toNat % 2 ^ 46, c, 0, 0, s.causeOf n, seq, ballast, now % 2 ^ 48, none⟩
    | none =>
      ⟨ofBytesLE (freeBytes (s.free + now) 6) % 2 ^ 46, (Config.freeByte (s.free + now) 6).toNat % 8, 0, 0, s.causeOf n, seq,
        ballast, now % 2 ^ 48, none⟩

/-- The trace unit of die d writes the entry of its core (23 R391). -/
def traceCycle (s : State) (d : Nat) : State :=
  let v := s.die d
  if v.traceWord.getLsbD 7 then
    let e := s.traceEntry (96 * d + bits v.traceWord 6 0)
    s.setDie d { v with trace := (e :: v.trace).take 65536, traceLeft := v.traceLeft.map (· - 1) }
  else s

/-- The event counter of core n's stall cause (23 R394). -/
def countCause (s : State) (n : Nat) : State :=
  let k := s.causeOf n
  if k = 0 then s
  else s.modCore n fun c => { c with iss := { c.iss with
    events := c.iss.events.put k (min (c.iss.events.get 0 k + 1) (2 ^ 48 - 1)) } }

/-- The cores of die d that have held nothing since reset are idle, limited or paused, column by column (23 R394). -/
def countQuiet (s : State) (d : Nat) : State :=
  s.modDie d fun v => { v with quiet := (List.range 12).foldl (fun (t : Tab Nat) c =>
    let k := 32 * c + (if v.limited.get false c then 6 else if s.paused (96 * d + 8 * c) then 15 else 16)
    t.put k (min (t.get 0 k + 1) (2 ^ 48 - 1))) v.quiet }

/-- The stores of a core by number, each with its sectors: 0 W-store, 1 X-store, 2 accumulators, 3 shadow and 4 active plane,
5 vector registers. -/
def spaceOf (k : Nat) : Option (Space × Nat) :=
  [(Space.wstore, 16384), (Space.xstore, 12288), (Space.acc, 8192), (Space.shadow, 256), (Space.active, 256), (Space.vregs, 6144)][k]?

/-- The upset that core n's stores meet in this cycle, by a free value: one wrong bit of a good sector is corrected at its next
read, a second one or several make it uncorrectable (08 R181; log entry 6). -/
def upset (s : State) (n : Nat) : State :=
  match Config.upset n (s.cyc n) with
  | none => s
  | some (k, i, multi) => match spaceOf k with
    | none => s
    | some (sp, size) =>
      if size ≤ i then s
      else s.modStore n fun st =>
        let m := Space.codes sp st
        if m.get i = 0 ∨ m.get i = 2 then Space.put sp st (m.set i (if multi ∨ m.get i = 2 then 3 else 2)) else st

/-- Whether a context of core n waits for a shoot-down's range (22 R388). -/
def shotHeld (s : State) (n : Nat) (h : ShootDown) : Bool :=
  (List.range 8).any fun c => match (s.ctx (8 * n + c)).iss.wait with
    | some w => decide (s.partOf (8 * n + c) = h.part ∧ (s.ctx (8 * n + c)).iss.phase = .waiting ∧ w.cause = 3
        ∧ 2 ^ 63 + h.va ≤ w.addr.toNat ∧ w.addr.toNat < 2 ^ 63 + h.va + h.len)
    | none => false

/-- The cycle of die d ends: counters, stalled cycles, trace; the die's count advances. -/
def endCycle (s : State) (d : Nat) : State :=
  let ns := (s.cores.map (·.1)).filter fun n => dieOf n = d
  let s := s.traceCycle d
  let s := ns.foldl (fun (s : State) n => (s.countCause n).upset n) (s.countQuiet d)
  let s : State := { s with shoots := s.shoots.map fun h =>
    { h with stalled := h.stalled + (ns.filter fun n => s.shotHeld n h).length } }
  s.modDie d fun v => { v with cyc := v.cyc + 1 }

/-! ### Time -/

/-- ps to the end of die d's cycle: its phase counts ps × MHz, 10^6 to a cycle. -/
def timeLeft (v : Die) : Nat := (1000000 - v.phase + v.mhz - 1) / v.mhz

/-- ps to the next end of a cycle of a clocked die; 1 ns with every die gated. -/
def nextEdge (s : State) : Nat :=
  let ds := (List.range 8).filter fun d => !(s.die d).gated
  match ds.map fun d => timeLeft (s.die d) with
  | [] => 1000
  | t :: ts => ts.foldl min t

/-- Die d after dt ps: a cycle ends where its phase has come to 10^6. -/
def passTime (s : State) (dt d : Nat) : State :=
  let v := s.die d
  if v.gated then s
  else
    let ph := v.phase + dt * v.mhz
    if ph < 1000000 then s.setDie d { v with phase := ph }
    else (s.setDie d { v with phase := ph - 1000000 }).endCycle d

/-- What goes on with time: sectors of engine moves and ring fills land, by free values, and the requests that a channel made
wait try again (08 R197, 22 R379). -/
def goOn (s : State) : State :=
  let s := s.cores.foldl (fun (s : State) c =>
    let s := c.2.engines.foldl (fun (s : State) e => s.landEarly c.1 e.id) s
    c.2.rings.foldl (fun (s : State) r => s.fillEarly c.1 r.1) s) s
  (s.masters.filter fun m => !m.2.frozen && !m.2.requests.isEmpty).foldl (fun (s : State) m => s.proceed m.1) s

/-- Time passes to the next end of a cycle. -/
def tick (s : State) : State :=
  let dt := s.nextEdge
  let s : State := { s with pkg := { s.pkg with now := s.pkg.now + dt } }
  (List.range 8).foldl (fun (s : State) d => s.passTime dt d) s.goOn

/-- The event of this step: the head of the agenda, an internal event, an issue, a deck's event; none when time passes. -/
def nextStep (s : State) : Option Instr :=
  s.agenda.head? <|> s.nextEvent <|> (s.nextIssue.map .bundleIssue) <|> s.nextLate

/-! ### An instruction to be fetched next -/

def putWord8 (m : Memory) (a v : Nat) : Memory := m.write a (bytesLE 8 v)

/-- A task of core 0's context 0 whose next bundle holds one slot word: page tables at 0x1000 to 0x3FFF that map 32 MiB
at 0, the bundle at 0x10000, partition 0 with quad 0 and channel group 0 (log entry 34). -/
def bootWith (s : State) (slot w : Nat) : State :=
  let m := putWord8 (putWord8 (putWord8 s.mem 0x1000 0x2001) 0x2000 0x3001) 0x3000 0x7F
  let m := m.write 0x10000 ((oneSlotWords slot w).flatMap (bytesLE 4))
  let s : State := { s with mem := m, pkg := { s.pkg with serial := s.pkg.serial + 1 } }
  let s := s.setPart 0 { s.part 0 with ent := { (s.part 0).ent with state := 1, quads := 1, groups := 1, root := 0x1000 } }
  let s := s.setCtx 0 { resetCtx with
    pc := 0x400, blocks := [0, 1], ctl := [(0x001, 0x10000)], iss := { resetCtx.iss with phase := .eligible }
    mem := { resetCtx.mem with me := s.pkg.serial } }
  s.modDie 0 fun v => { v with cyc := v.cyc + 1 }

end State
end Sys2Proof.Machine
end

