-- ==== Sys2Proof/Machine/Step.lean ====
section
/-! DEFINITION. The step of the package, and the placing of an instruction that the next step fetches. -/

namespace Sys2Proof.Machine

/-- One step: the head of the agenda, else the next internal event, else the issue of a core, else a deck's event; with
none of them, time passes to the next end of a cycle (log entry 33). -/
def step (s : State) : Host.Outcome State Fault Refusal :=
  match s.nextStep with
  | some i => exec i { s with agenda := s.agenda.drop 1 }
  | none => .next s.tick

/-- The word `w` of a table row stands in its slot of the bundle that the next step issues. -/
def State.withFetchWord (s : State) (nbits w : Nat) : State :=
  match (if nbits = 32 then tableClass w else none) with
  | some c => s.bootWith (firstSlot c) w
  | none => s

end Sys2Proof.Machine
end

