-- ==== Sys2Proof/Safety.lean ====
section
/-! DEFINITION. What counts as a safe run, and the words of the statements: invariants of a state, frames, and the results of
vector operations as the spec describes them, element by element. -/

namespace Sys2Proof

/-- The fixed-latency operations of slots S, V, F, M and X (02 R38): after the issue their results are on their way. -/
def Instr.fixedLatency (i : Instr) : Bool :=
  match i with
  | .ldx _ _ _ | .stx _ _ _ | .ldxs _ _ _ _ | .stxs _ _ _ _ | .ldw _ _ _ | .stw _ _ _ | .lda _ _ _ _ | .sta _ _ _ _
  | .bufhold _ _ _ | .buffree _ _ _ | .scacc _ _ _ _ _ _ | .mxpushWstore _ _ _ | .mxflip | .mxacc _ _ _ _ _
  | .mxbp _ _ _ _ _ _ _ | .mxdrain _ _ _ _ _ | .mxzero _ _ _ => true
  | _ => match encode i with
    | some (.scalar, _) => true
    | some (.vector, _) => true
    | some (.special, _) => true
    | _ => false

end Sys2Proof

namespace Sys2Proof.Machine

/-- A run of any length from `s` goes on: no step of it faults or is refused. -/
def Safe (s : State) : Prop := ∀ k, ∃ t, Sys2Proof.core.run k s = .next t

/-- What holds between the parts of a state that a run reaches: memory and poison keep their canonical form, and so do the
stores of every core. -/
def State.Inv (s : State) : Prop :=
  s.mem.wf = true ∧ s.poison.wf = true ∧ ∀ n, (s.core n).st.xstore.wf = true ∧ (s.core n).st.wstore.wf = true

/-- The stores of every core are canonical. -/
def State.storesWf (s : State) : Prop := ∀ n, (s.core n).st.xstore.wf = true ∧ (s.core n).st.wstore.wf = true

/-- Reads have corrected single-bit errors of a core's stores: no content and no other check code changes, and a code that
does was 2 and is 0 (08 R181). -/
def OnlyMended (a b : CoreStore) : Prop :=
  b = { a with xpoison := b.xpoison, wpoison := b.wpoison, accPoison := b.accPoison, shadowPoison := b.shadowPoison,
               activePoison := b.activePoison, vpoison := b.vpoison }
    ∧ ∀ sp : State.Space, (sp.codes a).wf = true → (sp.codes b).wf = true ∧
        ∀ i, (sp.codes b).get i = (sp.codes a).get i ∨ ((sp.codes a).get i = 2 ∧ (sp.codes b).get i = 0)

/-- Of the records and the bus masters only what the device error log brings has changed: its ring and its count, and with
host-assisted logging the notices and the vectors of functions (24 R404, R408, R411). -/
def LogsOnly (s u : State) : Prop :=
  u.recs = { s.recs with log := u.recs.log, logged := u.recs.logged, notices := u.recs.notices }
    ∧ (u.masters.map fun m => (m.1, { m.2 with vectors := [] })) = s.masters.map fun m => (m.1, { m.2 with vectors := [] })

/-- The reads of an operation have corrected single-bit errors of core n, and logged each; nothing else changes (08 R181). -/
def Mended (s u : State) (n : Nat) : Prop :=
  u = { s with cores := u.cores, recs := u.recs, masters := u.masters } ∧ LogsOnly s u ∧ (∀ m, m ≠ n → u.core m = s.core m)
    ∧ u.core n = { s.core n with st := (u.core n).st } ∧ OnlyMended (s.core n).st (u.core n).st

/-- What a fixed-latency slot operation may change of a core when it issues: its landings on the way (those there stay),
the count of its issues, its bobbin queue, and single-bit errors that its reads correct. -/
def KeepsCore (a b : Core) : Prop :=
  b = { a with landings := b.landings, iss := { a.iss with seq := b.iss.seq }, bobbin := b.bobbin, drawn := b.drawn,
               bobbinCyc := b.bobbinCyc, st := b.st }
    ∧ OnlyMended a.st b.st ∧ ∀ l ∈ a.landings, l ∈ b.landings

/-- The frame of a fixed-latency slot operation at its issue in a bundle: no context, no memory, no store, no control
register and no other unit changes; only results on the way are added, faults or waits of the slot are noted, and the
single-bit errors its reads meet are corrected and logged. -/
def SlotFrame (s t : State) : Prop :=
  t = { s with cores := t.cores, cur := { s.cur with faults := t.cur.faults, retry := t.cur.retry, least := t.cur.least }
               recs := t.recs, masters := t.masters }
    ∧ LogsOnly s t ∧ (∀ n, KeepsCore (s.core n) (t.core n)) ∧ ∀ f ∈ s.cur.faults, f ∈ t.cur.faults

/-- Whether the listed vector registers lie within the issuing context's grant (06 R131). -/
def State.grants (s : State) (rs : List Nat) : Prop := ∀ r ∈ rs, r < s.grant s.cur.ctx

/-- A vector result of elements of w bytes under mask k: it lands in v d after `lat` cycles, in exactly the bytes of the
active elements, and each of them takes the value f gives it (06 R133). -/
def VecResult (s t : State) (d w lat k : Nat) (f : Nat → Nat) : Prop :=
  ∃ mask data, t = s.schedule lat 0 (.vector d mask data)
    ∧ (∀ i < 1024, mask.getLsbD i = State.active w (s.readK k) (i / w))
    ∧ ∀ i < 1024 / w, State.active w (s.readK k) i = true → State.elem w data i = f i % 2 ^ (8 * w)

/-- A floating or converted vector result of elements of w bytes under mask k: `f` gives the encoding and the flags of
each element that is written, none for an element the operation does not write; the flags that land are those of the
elements written (06 R133, 07 R156, R165). -/
def FloatResult (s t : State) (d w lat k : Nat) (f : Nat → Option (Nat × BitVec 5)) : Prop :=
  ∃ flags mask data, t = s.schedule lat flags (.vector d mask data)
    ∧ (∀ i < 1024, mask.getLsbD i = (State.active w (s.readK k) (i / w) && (f (i / w)).isSome))
    ∧ (∀ i < 1024 / w, ∀ v, State.active w (s.readK k) i = true → f i = some v → State.elem w data i = v.1 % 2 ^ (8 * w))
    ∧ ∀ b < 5, (flags.getLsbD b = true ↔
        ∃ i < 1024 / w, ∃ v, State.active w (s.readK k) i = true ∧ f i = some v ∧ v.2.getLsbD b = true)

/-- A mask result of an element test: all w bits of each active element take the outcome (06 R132, R139). -/
def MaskResult (s t : State) (e lat w k : Nat) (holds : Nat → Prop) : Prop :=
  ∃ sel data, t = s.writeK e lat sel data
    ∧ ∀ i < 1024, sel.getLsbD i = State.active w (s.readK k) (i / w)
        ∧ (sel.getLsbD i = true → (data.getLsbD i = true ↔ holds (i / w)))

/-- Whether the bobbin queue of the issuing core holds a word, or the rounding code needs none (07 R160, R161). -/
def State.bobbinReady (s : State) (code : Nat) : Prop :=
  code = 5 → ((s.fillBobbin s.cur.core).core s.cur.core).bobbin ≠ []

/-- An access of the issuing slot that goes ahead: no ldacq and no atomic on its lines holds it, no byte lies in the window region, no shoot-down
holds its range, and its pieces translate to `ps`, with `s1` the state after the walks (08 R184, 22 R386). -/
def State.reaches (s : State) (k : Access) (each : Bool) (reqs : List (Nat × Nat × Nat)) (ps : List Piece) (s1 : State) :
    Prop :=
  s.homeAhead reqs = false
    ∧ (∀ r ∈ reqs, State.inWindow r.1 = false ∧ State.inWindow (r.1 + r.2.1 - 1) = false
        ∧ s.shooting (State.partOf s s.cur.ctx) r.1 r.2.1 = false)
    ∧ State.placeAll k each reqs s = .ok (ps, s1)

/-- An interlocked access enters flight: the issuing context gains one operation `o`, which `holds` describes, the lines that its
translation's walks read are kept for it, and nothing else changes (02 R40, 22 R386). -/
def OpAdded (s t : State) (holds : MemOp → Prop) : Prop :=
  ∃ o : MemOp, t = (s.modMem s.cur.ctx fun m => { m with ops := m.ops ++ [o], nextId := m.nextId + 1 }).keepWalks s.cur.ctx o.id
    ∧ o.id = (s.ctx s.cur.ctx).mem.nextId ∧ o.order = (s.ctx s.cur.ctx).mem.fences ∧ o.issued = s.pkg.now
    ∧ o.slot = s.cur.slot ∧ holds o

/-- The stores of pieces: the bytes of each go to the context's store buffer, or its held buffer, in order (08 R193). -/
def State.stores (s : State) (ps : List Piece) (bytes : Piece → List (BitVec 8)) : State :=
  ps.foldl (fun t q => t.storeBytes s.cur.ctx q.va q.pa (bytes q)) s

/-- Whether the store buffer of the issuing context's core, or in held mode its held buffer, has room for the lines of pieces
(08 R193, 17 R329, R330). -/
def State.storeRoom (s : State) (ps : List Piece) (bytes : Piece → List (BitVec 8)) : Prop :=
  let ls := ps.flatMap fun q => State.linesOf .buffer q.va q.pa (bytes q)
  match (s.ctx s.cur.ctx).mem.held with
  | some h => State.heldLines h.lines (ls.map (·.line)) ≤ 2048
  | none => s.bufferShort s.cur.ctx ls = false

/-- The bytes of a scalar store: the low n bytes of a register, little-endian (00 R5). -/
def wordBytes (v : BitVec 64) (n : Nat) : List (BitVec 8) := (List.range n).map fun i => BitVec.ofNat 8 (v.toNat / 256 ^ i)

/-- The bytes of a vector register that a piece takes. -/
def laneBytes (v : BitVec 8192) (q : Piece) : List (BitVec 8) :=
  (List.range q.n).map fun i => BitVec.ofNat 8 (State.elem 1 v (q.off + i))

end Sys2Proof.Machine
end

