-- ==== Sys2Proof/WellFormed.lean ====
section
/-! DEFINITION. Well-formed instructions: a slot operation whose fields have an encoding (03 R55 to R71), and an event at a
unit that the package has (01 R16, R17, 24 R405). -/

namespace Sys2Proof

/-- A context of the package, 8 × core + number (01 R17). -/
def ctxOk (x : Nat) : Bool := decide (x < 6144)
def coreOk (n : Nat) : Bool := decide (n < 768)
def dieOk (d : Nat) : Bool := decide (d < 8)
def columnOk (c : Nat) : Bool := decide (c < 12)
def partOk (p : Nat) : Bool := decide (p < 32)
def frontOk (f : Nat) : Bool := decide (f < 64)
/-- A channel, 32 × stack + channel of the stack (22 R376). -/
def channelOk (ch : Nat) : Bool := decide (ch < 384)
/-- A master: the management path, a host function, or a peer package (24 R405). -/
def masterOk (m : Nat) : Bool := decide (m ≤ 32) || decide (64 ≤ m ∧ m < 128)
/-- A Briuc system core, edge die × 4 + core (22 R389). -/
def systemCoreOk (c : Nat) : Bool := decide (c < 8)

/-- The check of each instruction. The forms of rett with an operand do not name s0
(14 R291). -/
def Instr.wellFormed (i : Instr) : Bool :=
  match i with
  | .add _ _ _ => true
  | .sub _ _ _ => true
  | .mul _ _ _ => true
  | .mulh _ _ _ => true
  | .mulhu _ _ _ => true
  | .divu _ _ _ => true
  | .remu _ _ _ => true
  | .and _ _ _ => true
  | .or _ _ _ => true
  | .xor _ _ _ => true
  | .shl _ _ _ => true
  | .shr _ _ _ => true
  | .sra _ _ _ => true
  | .min _ _ _ => true
  | .max _ _ _ => true
  | .minu _ _ _ => true
  | .maxu _ _ _ => true
  | .slt _ _ _ => true
  | .sltu _ _ _ => true
  | .seq _ _ _ => true
  | .sel _ _ _ _ => true
  | .mov _ _ => true
  | .popc _ _ => true
  | .clz _ _ => true
  | .ctz _ _ => true
  | .fnsb _ _ _ => true
  | .brev _ _ => true
  | .addi _ _ _ => true
  | .andi _ _ _ => true
  | .ori _ _ _ => true
  | .xori _ _ _ => true
  | .shli _ _ _ => true
  | .shri _ _ _ => true
  | .srai _ _ _ => true
  | .movi _ _ => true
  | .movk _ _ => true
  | .extr _ _ _ _ => true
  | .depo _ _ _ _ => true
  | .vadd _ _ _ _ _ _ => true
  | .vsub _ _ _ _ _ _ => true
  | .vmul _ _ _ _ _ _ => true
  | .vmulh _ _ _ _ _ _ => true
  | .vmin _ _ _ _ _ _ => true
  | .vmax _ _ _ _ _ _ => true
  | .vabs _ _ _ _ => true
  | .vand _ _ _ _ _ _ => true
  | .vor _ _ _ _ _ _ => true
  | .vxor _ _ _ _ _ _ => true
  | .vandn _ _ _ _ _ _ => true
  | .vshl _ _ _ _ _ _ => true
  | .vshr _ _ _ _ _ _ => true
  | .vsra _ _ _ _ _ _ => true
  | .vrot _ _ _ _ _ _ => true
  | .vpopc _ _ _ _ => true
  | .vclz _ _ _ _ => true
  | .vctz _ _ _ _ => true
  | .vfnsb _ _ _ _ _ => true
  | .vbrev _ _ _ _ => true
  | .vcmp _ _ _ _ _ _ _ => true
  | .vsel _ _ _ _ _ => true
  | .vmov _ _ _ _ => true
  | .vmovi _ _ _ => true
  | .vbcast _ _ _ _ => true
  | .vextr _ _ _ _ _ => true
  | .vperm _ _ _ _ _ => true
  | .xcl _ _ _ _ _ => true
  | .vred _ _ _ _ _ _ => true
  | .vfadd _ _ _ _ _ => true
  | .vfsub _ _ _ _ _ => true
  | .vfmul _ _ _ _ _ => true
  | .vfma _ _ _ _ _ => true
  | .vfmin _ _ _ _ _ => true
  | .vfmax _ _ _ _ _ => true
  | .vfneg _ _ _ _ _ => true
  | .vfcmp _ _ _ _ _ _ => true
  | .kand _ _ _ => true
  | .kor _ _ _ => true
  | .kxor _ _ _ => true
  | .knot _ _ => true
  | .kmov _ _ => true
  | .fexp2 _ _ _ _ _ _ => true
  | .flog2 _ _ _ _ _ _ => true
  | .frcp _ _ _ _ _ _ => true
  | .frsq _ _ _ _ _ _ => true
  | .fsqrt _ _ _ _ _ _ => true
  | .ftanh _ _ _ _ _ _ => true
  | .fcvt _ _ _ _ _ _ => true
  | .fbpk _ _ _ _ _ _ => true
  | .fbunpk _ _ _ _ _ _ => true
  | .fscl _ _ _ _ _ _ => true
  | .frnd _ _ _ _ _ _ => true
  | .bobpop _ => true
  | .ldx _ _ _ => true
  | .stx _ _ _ => true
  | .ldxs _ _ _ _ => true
  | .stxs _ _ _ _ => true
  | .ldw _ _ _ => true
  | .stw _ _ _ => true
  | .lda _ _ _ _ => true
  | .sta _ _ _ _ => true
  | .ldg _ _ _ _ => true
  | .stg _ _ _ _ => true
  | .vldg _ _ _ => true
  | .vstg _ _ _ => true
  | .vgath _ _ _ _ _ => true
  | .vscat _ _ _ _ _ => true
  | .ldacq _ _ _ _ => true
  | .strel _ _ _ _ => true
  | .aadd _ _ _ _ => true
  | .amin _ _ _ _ => true
  | .amax _ _ _ _ => true
  | .axchg _ _ _ _ => true
  | .acas _ _ _ _ => true
  | .afadd _ _ _ _ => true
  | .chunk _ _ _ _ => true
  | .ldblk _ _ _ => true
  | .bufhold _ _ _ => true
  | .buffree _ _ _ => true
  | .scacc _ _ _ _ _ _ => true
  | .mxpushWstore _ _ _ => true
  | .mxpushStream _ _ => true
  | .mxflip => true
  | .mxacc _ _ _ _ _ => true
  | .mxbp _ _ _ _ _ _ _ => true
  | .mxdrain _ _ _ _ _ => true
  | .mxzero _ _ _ => true
  | .mxhed _ _ _ _ => true
  | .mxunpin _ => true
  | .mxgang _ _ _ => true
  | .br _ => true
  | .jmpi _ _ => true
  | .call _ => true
  | .ret => true
  | .rep _ _ => true
  | .yield _ _ => true
  | .trap _ => true
  | .rett => true
  | .rettResume a => a != 0
  | .rettSkip a => a != 0
  | .rettEnd a => a != 0
  | .copy _ _ _ _ => true
  | .copych _ _ => true
  | .copymc _ _ _ _ => true
  | .cancel _ => true
  | .waitany _ _ => true
  | .waitall _ => true
  | .ffrdy _ _ => true
  | .tagclr _ => true
  | .tagst _ _ => true
  | .barinit _ _ => true
  | .bararr _ _ => true
  | .barwait _ => true
  | .phase _ => true
  | .fence => true
  | .subscr _ _ _ => true
  | .slotwait _ _ => true
  | .slotpop _ => true
  | .slotdone _ => true
  | .unsub _ _ => true
  | .seqld _ _ _ => true
  | .seqgo _ _ => true
  | .seqwait => true
  | .gang _ _ _ => true
  | .spawn _ _ => true
  | .taskend => true
  | .trigger => true
  | .decide _ _ => true
  | .pkadv _ _ => true
  | .pkset _ _ => true
  | .waitl _ _ => true
  | .held => true
  | .commit _ => true
  | .squash => true
  | .guard _ _ => true
  | .symdecl _ _ => true
  | .symrd _ _ _ => true
  | .symgen _ => true
  | .deadline _ _ => true
  | .stepend _ => true
  | .rdctl _ _ => true
  | .wrctl _ _ => true
  | .coll _ _ => true
  | .bundleIssue n => coreOk n
  | .yieldWake x => ctxOk x
  | .waitTimeout x => ctxOk x
  | .barrierTimeout x => ctxOk x
  | .globalLoadReturn n k _ => coreOk n && Nat.blt k 8
  | .atomicPerformed n k _ => coreOk n && Nat.blt k 8
  | .publication x => ctxOk x
  | .forcedSnapshotBoundary x => ctxOk x
  | .copyComplete n _ => coreOk n
  | .chainRecord n _ => coreOk n
  | .cancelAcknowledge n _ => coreOk n
  | .multicastPieceLanding n _ _ => coreOk n
  | .loadBlockFill n _ tag => coreOk n && Nat.blt tag 64
  | .shuttleFill n _ => coreOk n
  | .shuttlePull n _ => coreOk n
  | .heddleRowArrival n _ => coreOk n
  | .deckLoadComplete n _ => coreOk n
  | .cardVisit n => coreOk n
  | .cardStep n => coreOk n
  | .cardCopyRequest n => coreOk n
  | .collComplete n _ _ => coreOk n
  | .spawnComplete x => ctxOk x
  | .dispatch d p => dieOk d && partOk p
  | .ringRefill p => partOk p
  | .contextSave x => ctxOk x
  | .resumption _ n => coreOk n
  | .streamTailRead f => frontOk f
  | .launchPacket f => frontOk f
  | .waitsemPacket f => frontOk f
  | .sigsemPacket f => frontOk f
  | .patchPacket f => frontOk f
  | .replayPacket f => frontOk f
  | .fencePacket f => frontOk f
  | .replayComplete f => frontOk f
  | .shootDownComplete _ => true
  | .refreshInterval ch => channelOk ch
  | .perBankRefresh ch => channelOk ch
  | .allBankRefresh ch => channelOk ch
  | .bobbinPauseEnd n => coreOk n
  | .governorEpoch compute memory => compute.length == 8 && memory.length == 13
  | .clockChange d _ => dieOk d
  | .clockSwitchPauseEnd d => dieOk d
  | .deadlineRisk d _ => dieOk d
  | .ballastBundle n => coreOk n
  | .watchdogExpiry => true
  | .dieGate d => dieOk d
  | .ungateComplete d => dieOk d
  | .handoverTimeout => true
  | .ownershipLapse => true
  | .tracePostExpiry d => dieOk d
  | .checkpoint p => partOk p
  | .fixedLatencyWriteback n => coreOk n
  | .dump p _ => partOk p
  | .translationWalk d p _ _ => dieOk d && partOk p
  | .shootDown p _ _ core => partOk p && systemCoreOk core
  | .temperatureRead ch _ => channelOk ch
  | .patrolScrub ch _ _ => channelOk ch
  | .sliceScrub d _ _ => dieOk d
  | .bobbinPush n => coreOk n
  | .bobbinHealthFailure n => coreOk n
  | .hostEntryChoice d _ => dieOk d
  | .columnTrimTick d col => dieOk d && columnOk col
  | .marginAlarm d col => dieOk d && columnOk col
  | .currentLimit d col => dieOk d && columnOk col
  | .thermalTrip d => dieOk d
  | .thermalRecovery d => dieOk d
  | .dieUngate d => dieOk d
  | .shrink p d => partOk p.part && dieOk d
  | .grow p d => partOk p && dieOk d
  | .packageReset _ _ => true
  | .ownershipClaim m _ => masterOk m
  | .ownerHandover m heir => masterOk m && masterOk heir
  | .handoverAcceptance m => masterOk m
  | .controlWindowWrite m _ _ _ => masterOk m
  | .masterRelease m target => masterOk m && masterOk target
  | .partitionStart m p => masterOk m && partOk p
  | .partitionStop m p => masterOk m && partOk p
  | .traceStart m d _ => masterOk m && dieOk d
  | .traceStop m d => masterOk m && dieOk d
  | .attestation _ => true
  | .firmwareUpdate _ _ => true
  | .hostOrPeerRequest m _ _ _ => masterOk m
  | .translationMemoryEdit core p _ _ => systemCoreOk core && partOk p
  | .currentBelowLimit d col => dieOk d && columnOk col

end Sys2Proof
end

