-- ==== Sys2Proof/Certificates/Slice0/Obligations.lean ====
section
/-! DEFINITION. The statements for the provers: what the rules of the spec say of the model's meanings. -/

open Sys2Proof Sys2Proof.Machine Sys2Proof.Machine.State

/-! ### The step, decoding, s0, the grant, traps, landings -/

/-- A step runs what comes next: the agenda's head, an internal event, the issue of a core, an event that comes after the
issues, else time passes (that order is the model's, log entry 33). A bundle is fetched as sixteen little-endian words at 64 × PC under the context's view, and each
committing slot runs exec of the instruction its word decodes to, with the slot's word, lend byte and operand latch in place
(02 R25, R53, R54). -/
def Obligations.StepRunsDecoded : Prop :=
  (∀ (s : State) (i : Instr) (rest : List Instr), s.agenda = i :: rest → step s = exec i { s with agenda := rest })
  ∧ (∀ (s : State) (i : Instr), s.agenda = [] → s.nextEvent = some i → step s = exec i s)
  ∧ (∀ (s : State) (n : Nat), s.agenda = [] → s.nextEvent = none → s.nextIssue = some n →
      step s = exec (.bundleIssue n) s)
  ∧ (∀ (s : State) (i : Instr), s.agenda = [] → s.nextEvent = none → s.nextIssue = none → s.nextLate = some i → step s = exec i s)
  ∧ (∀ s : State, s.agenda = [] → s.nextEvent = none → s.nextIssue = none → s.nextLate = none → step s = .next s.tick)
  ∧ (∀ (s s1 : State) (x pa : Nat),
      s.translate (coreOf x) (State.partOf s x) (64 * (s.ctx x).pc.toNat) .fetch = .ok (pa, s1) →
      s.denied (State.partOf s x) pa 64 = none →
      let f := s1.forgetWalks.touchL2 (pa / 128) false
      ∃ ws, s.fetchWords x = .ok (ws, f) ∧ ws.length = 16
        ∧ ∀ i < 16, ws.getD i 0 = (f.loadByte x (pa + 4 * i)).toNat + 256 * (f.loadByte x (pa + 4 * i + 1)).toNat
          + 65536 * (f.loadByte x (pa + 4 * i + 2)).toNat + 16777216 * (f.loadByte x (pa + 4 * i + 3)).toNat)
  ∧ ∀ (s : State) (ws : List Nat) (i : Nat) (latch : List Latched) (ins : Instr), i < 10 → s.cur.ended = false →
      decodeSlot (slotClass i) (ws.getD (4 + i) 0) = .op ins →
      exec ins (s.modCur fun c => { c with
          slot := i, word := ws.getD (4 + i) 0, lend := (decodeBundle ws).lend.getD i 0
          latch := ((latch.find? fun l => l.slot = i).map (·.regs)).getD [] })
        = .next (runAt (decodeBundle ws) latch s i)

/-- Words written out from the encodings of the manual decode to the instructions they stand for. -/
def Obligations.DecodeWords : Prop :=
  decodeSlot .scalar 0x20145001 = .op (.addi 5 5 1) ∧ decodeSlot .scalar 0x15105187 = .op (.sel 4 5 6 7)
  ∧ decodeSlot .scalar 0x31203F07 = .op (.depo 8 3 60 7) ∧ decodeSlot .vector 0x51830424 = .op (.vfadd 6 3 1 2 2)
  ∧ decodeSlot .special 0x3401C000 = .op (.bobpop 7) ∧ decodeSlot .memory 0x30C71802 = .op (.ldacq 3 7 6 2)
  ∧ decodeSlot .matrix 0x04100000 = .op (.mxpushWstore 1 0 0) ∧ decodeSlot .control 0x01FFFFFD = .op (.br 0xFFFFFD)
  ∧ decodeSlot .control 0x08250000 = .op (.rettSkip 9) ∧ decodeSlot .control 0x10105183 = .op (.copy 4 5 6 3)
  ∧ decodeSlot .scalar 0 = .nop ∧ decodeSlot .control 0xFF000000 = .bad

/-- Decoding the encoding of a well-formed slot operation gives it back: no bit of an encoding is dropped (03 R55 to R71). -/
def Obligations.EncodeDecodes : Prop :=
  ∀ (i : Instr) (c : SlotClass) (w : Nat), i.wellFormed = true → encode i = some (c, w) →
    w < 2 ^ 32 ∧ decodeSlot c w = .op i

/-- s0 reads 0, whatever latch the slot has, and a write to it is discarded, in every slot class; it is never checked and no
bundle waits for it; what else the instruction does still happens (05 R113). -/
def Obligations.ZeroRegister : Prop :=
  ∀ (s : State) (a b : BitVec 6) (i : BitVec 12) (j : BitVec 18) (n : BitVec 12) (h : BitVec 6) (k : BitVec 4) (w : BitVec 2),
    s.readS 0 = 0 ∧ (∀ x v, s.setRegS x 0 v = s) ∧ (∀ x, s.regS x 0 = 0)
    ∧ exec (.add 0 a b) s = .next s ∧ exec (.mul 0 a b) s = .next s ∧ exec (.divu 0 a b) s = .next s
    ∧ exec (.sel 0 a b b) s = .next s ∧ exec (.addi 0 a i) s = .next s ∧ exec (.movi 0 j) s = .next s
    ∧ exec (.movk 0 j) s = .next s ∧ exec (.depo 0 a b h) s = .next s ∧ exec (.symrd 0 k w) s = .next s
    ∧ exec (.symgen 0) s = .next s
    ∧ (ctlAccess n.toNat ≠ none → n ≠ 0x024 → exec (.rdctl 0 n) s = .next s)
    ∧ (∀ v vs, ((s.fillBobbin s.cur.core).core s.cur.core).bobbin = v :: vs →
      exec (.bobpop 0) s = .next ((s.fillBobbin s.cur.core).modCore s.cur.core fun c => { c with bobbin := vs }))
    ∧ (∀ bd dt, shortRead bd dt 0 = false) ∧ (∀ x rs, s.pendingReg x rs ≠ some 0)
    ∧ ∀ bu slot, ∀ p ∈ s.writesAt bu slot, p.1 ≠ 0

/-- A slot that names a vector register at or above the grant takes trap 0x12, which carries the register's number, and
writes nothing (06 R131); that it comes before trap 0x02 for a reserved field of the same word is log entry 13's reading. -/
def Obligations.GrantTraps : Prop :=
  ∀ (s : State) (t k z r n : BitVec 3) (d a b c i : BitVec 6) (u : BitVec 1) (m : BitVec 4) (o : BitVec 10) (im : BitVec 16)
    (e : BitVec 5) (g : BitVec 2),
    let traps (ins : Instr) (rs : List Nat) := ¬ s.grants rs → ∃ q ∈ rs, s.grant s.cur.ctx ≤ q
      ∧ exec ins s = .next (s.raise ⟨0x12, s.cur.slot, 0, BitVec.ofNat 64 q, .precise⟩)
    traps (.vadd t d a b k u) [a.toNat, b.toNat, d.toNat] ∧ traps (.vmulh t d a b k u) [a.toNat, b.toNat, d.toNat]
    ∧ traps (.vxor t d a b k u) [a.toNat, b.toNat, d.toNat] ∧ traps (.vpopc t d a k) [a.toNat, d.toNat]
    ∧ traps (.vshl t d a b k 1) [a.toNat, d.toNat] ∧ traps (.vshl t d a b k 0) [a.toNat, b.toNat, d.toNat]
    ∧ traps (.vcmp t r n a b k u) [a.toNat, b.toNat] ∧ traps (.vsel t d a b k) [a.toNat, b.toNat, d.toNat]
    ∧ traps (.vmovi t d im) [d.toNat] ∧ traps (.vbcast t d c k) [d.toNat] ∧ traps (.vextr t d a c u) [a.toNat]
    ∧ traps (.vperm t d a b k) [a.toNat, b.toNat, d.toNat] ∧ traps (.xcl t d a n k) [a.toNat, d.toNat]
    ∧ traps (.vred t d a n k u) [a.toNat, d.toNat] ∧ traps (.vfadd t d a b k) [a.toNat, b.toNat, d.toNat]
    ∧ traps (.vfmin t d a b k) [a.toNat, b.toNat, d.toNat] ∧ traps (.ldx d b o) [d.toNat] ∧ traps (.stw d b o) [d.toNat]
    ∧ traps (.lda d m a i) [d.toNat] ∧ traps (.sta d m a i) [d.toNat] ∧ traps (.scacc m a m g e m) [e.toNat]
    ∧ traps (.vldg d b o) [d.toNat] ∧ traps (.vstg d b o) [d.toNat] ∧ traps (.vgath z d b i k) [d.toNat, i.toNat]
    ∧ traps (.vscat z d b i k) [d.toNat, i.toNat]

/-- Taking a trap writes the record, ctl.tcode (code, slot, deferred bit), ctl.tpc, ctl.tnext, ctl.tfa, ctl.tinfo and
ctl.tdone, stops the context, which gives up the issue unit and its snapshot, and leaves its registers, every other context
and memory alone unless a message or a log record goes out (14 R286 to R289). -/
def Obligations.TrapRecord : Prop :=
  ∀ (s : State) (x : Nat) (t : Trap) (tpc tnext tdone : BitVec 64) (st : Stop),
    let u := s.takeTrap x t tpc tnext tdone st
    u.ctl x 0x038 = BitVec.ofNat 64 (t.code + t.slot % 16 * 2 ^ 8 + (if t.delivery = .deferred then 2 ^ 12 else 0))
    ∧ u.ctl x 0x039 = tpc ∧ u.ctl x 0x03A = tnext ∧ u.ctl x 0x03B = t.fa ∧ u.ctl x 0x03C = t.info ∧ u.ctl x 0x012 = tdone
    ∧ (u.ctx x).iss.phase = .stopped ∧ (u.ctx x).trap.stop = some st ∧ (u.ctx x).mem.view = none
    ∧ (u.core (coreOf x)).iss.running ≠ some (x % 8)
    ∧ (∀ r, u.regS x r = s.regS x r) ∧ (∀ r, u.regV x r = s.regV x r) ∧ (∀ r, u.regK x r = s.regK x r)
    ∧ (u.ctx x).pc = (s.ctx x).pc ∧ (∀ y, y ≠ x → u.ctx y = s.ctx y) ∧ u.mem = s.mem

/-- rdctl or wrctl of a number that the map leaves unassigned raises trap 0x02 at the slot, wrctl of a register marked RO
trap 0x07; the fault is noted at the slot and nothing else changes (04 R105). -/
def Obligations.UnassignedControlRegisters : Prop :=
  ∀ (s : State) (d a : BitVec 6) (n : BitVec 12), s.cur.live = true →
    let noted (code : Nat) (fa info : BitVec 64) : State := { s with cur := { s.cur with
      faults := s.cur.faults ++ [⟨code, s.cur.slot, fa, info, .precise⟩] } }
    (ctlAccess n.toNat = none →
      exec (.rdctl d n) s = .next (noted 0x02 0 (BitVec.ofNat 64 s.cur.word))
      ∧ exec (.wrctl a n) s = .next (noted 0x02 0 (BitVec.ofNat 64 s.cur.word)))
    ∧ (ctlAccess n.toNat = some none → ∃ fa info, exec (.wrctl a n) s = .next (noted 0x07 fa info))

/-- A fixed-latency operation of slots S, V, F, M and X changes at its issue no register, no store, no memory and no
control register: its result is on its way, or its fault or wait is noted (02 R38, 05 to 09). -/
def Obligations.FixedLatencyFrame : Prop :=
  ∀ (i : Instr) (s : State), i.fixedLatency = true → s.cur.live = true → ∃ t, exec i s = .next t ∧ SlotFrame s t

/-- A landing changes its one destination: a scalar register, the masked bytes of a vector register, the selected bits of a
mask, or a control register; the bytes of a local store, the last of two writes of one byte, or words or rows of the
accumulators, the counts of their groups, a row of the shadow planes, the two planes exchanged, or in-use bits with their
holder; a sector that it covers whole is good, and one that it does not touch keeps its check code; its flags are ORed into
ctl.fpf; every other register, store, context and memory stays (02 R38, R39, 06 R133, 07 R158, R173, 08 R183, R195, R198,
09 R208, R209). -/
def Obligations.Landings : Prop :=
  (∀ (s : State) (n c seq cy : Nat) (f : BitVec 5), c < 8 →
       let x := 8 * n + c
       let after (w : Write) := s.land n ⟨cy, seq, c, f, w⟩
       let keeps (w : Write) := (after w).mem = s.mem ∧ (after w).poison = s.poison ∧ (∀ y, y ≠ x → (after w).ctx y = s.ctx y)
         ∧ (∀ m, m ≠ n → (after w).core m = s.core m) ∧ (after w).ctl x 0x019 = s.ctl x 0x019 ||| f.setWidth 64
       (∀ r v, keeps (.scalar r v) ∧ (∀ q, (after (.scalar r v)).regS x q = if q = r ∧ r ≠ 0 then v else s.regS x q)
         ∧ (∀ q, (after (.scalar r v)).regV x q = s.regV x q) ∧ ∀ q, (after (.scalar r v)).regK x q = s.regK x q)
       ∧ (∀ r m v, keeps (.vector r m v) ∧ (∀ q, (after (.vector r m v)).regS x q = s.regS x q)
         ∧ (∀ q, (after (.vector r m v)).regK x q = s.regK x q)
         ∧ (∀ e < 1024, elem 1 ((after (.vector r m v)).regV x r) e =
             if m.getLsbD e = true then elem 1 v e else elem 1 (s.regV x r) e)
         ∧ ∀ q, s.poolIndex x q ≠ s.poolIndex x r → (after (.vector r m v)).regV x q = s.regV x q)
       ∧ (∀ r sel v, keeps (.mask r sel v) ∧ (∀ q, (after (.mask r sel v)).regS x q = s.regS x q)
         ∧ ∀ q, ∀ e < 1024, ((after (.mask r sel v)).regK x q).getLsbD e =
             if q = r ∧ r ≠ 0 ∧ sel.getLsbD e = true then v.getLsbD e else (s.regK x q).getLsbD e)
       ∧ ∀ num v, num ≠ 0x019 → keeps (.ctl num v) ∧ (after (.ctl num v)).ctl x num = v
         ∧ ∀ q, q ≠ num → q ≠ 0x019 → (after (.ctl num v)).ctl x q = s.ctl x q)
  ∧ (∀ (s : State) (n c seq cy : Nat) (f : BitVec 5), c < 8 →
       let x := 8 * n + c
       let after (w : Write) := s.land n ⟨cy, seq, c, f, w⟩
       let st := (s.core n).st
       let new (w : Write) := ((after w).core n).st
       let stores (w : Write) := (after w).mem = s.mem ∧ (after w).poison = s.poison ∧ (∀ y, y ≠ x → (after w).ctx y = s.ctx y)
         ∧ (∀ m, m ≠ n → (after w).core m = s.core m) ∧ (after w).core n = { s.core n with st := new w }
         ∧ (after w).ctl x 0x019 = s.ctl x 0x019 ||| f.setWidth 64 ∧ (∀ q, (after w).regS x q = s.regS x q)
         ∧ (∀ q, (after w).regV x q = s.regV x q) ∧ ∀ q, (after w).regK x q = s.regK x q
       let put (parts : List (Nat × List (BitVec 8))) (a : Nat) : Option (BitVec 8) :=
         (parts.filterMap fun p => if p.1 ≤ a then p.2[a - p.1]? else none).getLast?
       let bytes (parts : List (Nat × List (BitVec 8))) (m m' codes codes' : Memory) := m.wf = true → codes.wf = true →
         (∀ a, m'.get a = (put parts a).getD (m.get a))
         ∧ ∀ i, ((∀ j < 32, put parts (32 * i + j) = none) → codes'.get i = codes.get i)
           ∧ ((∀ j < 32, (put parts (32 * i + j)).isSome = true) → codes'.get i = 0)
       let rowsOnly (w : Write) (hit : Nat → Prop) := (∀ r, ¬hit r → accRow (new w) r = accRow st r)
         ∧ ∀ i, ¬hit (i / 8) → (new w).accPoison.get i = st.accPoison.get i
       let words (w : Write) (r k : Nat) (g : Nat → Nat) := ∀ e < 64, accWord (accRow (new w) r) e =
         if e < k then g e % 2 ^ 32 else accWord (accRow st r) e
       (∀ ps, let w := Write.xstore ps
         stores w ∧ new w = { st with xstore := (new w).xstore, xpoison := (new w).xpoison }
         ∧ bytes ps st.xstore (new w).xstore st.xpoison (new w).xpoison)
       ∧ (∀ ps, let w := Write.wstore ps
         stores w ∧ new w = { st with wstore := (new w).wstore, wpoison := (new w).wpoison }
         ∧ bytes ps st.wstore (new w).wstore st.wpoison (new w).wpoison)
       ∧ (∀ row data, let w := Write.rows row data
         stores w ∧ new w = { st with acc := (new w).acc, accPoison := (new w).accPoison }
         ∧ rowsOnly w (fun r => row ≤ r ∧ r < row + data.length)
         ∧ (∀ j < data.length, accRow (new w) (row + j) = data.getD j 0)
         ∧ (st.accPoison.wf = true → ∀ i, row ≤ i / 8 → i / 8 < row + data.length → (new w).accPoison.get i = 0))
       ∧ (∀ row cols, cols.length ≤ 64 → let w := Write.beat row cols
         stores w ∧ new w = { st with acc := (new w).acc, accPoison := (new w).accPoison } ∧ rowsOnly w (· = row)
         ∧ words w row cols.length (fun e => matrixSum (accWord (accRow st row) e) (cols.getD e ⟨false, false, false, .zero, true⟩)))
       ∧ (∀ row cols, cols.length ≤ 64 → let w := Write.scaled row cols
         stores w ∧ new w = { st with acc := (new w).acc, accPoison := (new w).accPoison } ∧ rowsOnly w (· = row)
         ∧ words w row cols.length (fun e => scaleSum (accWord (accRow st row) e) (cols.getD e .zero)))
       ∧ (∀ bank g nb rows, (∀ r ∈ rows, r.length ≤ 64) → let w := Write.plane bank g nb rows
         let base := bank * 64 + 16 * g
         stores w ∧ new w = { st with acc := (new w).acc, accPoison := (new w).accPoison, counts := (new w).counts }
         ∧ rowsOnly w (fun r => base ≤ r ∧ r < base + nb)
         ∧ (∀ j < nb, words w (base + j) (rows.getD j []).length fun e =>
             (satI32 (sextN (accWord (accRow st (base + j)) e) 32 + (rows.getD j []).getD e 0) % 2 ^ 32).toNat)
         ∧ ∀ k, (new w).counts.get 0 k = if k = bank * 4 + g then Max.max (st.counts.get 0 k) nb else st.counts.get 0 k)
       ∧ (∀ bank row cnt, let w := Write.zeroRows bank row cnt
         let base := bank * 64 + row
         stores w ∧ new w = { st with acc := (new w).acc, accPoison := (new w).accPoison, counts := (new w).counts }
         ∧ rowsOnly w (fun r => base ≤ r ∧ r < base + cnt)
         ∧ (∀ j < cnt, accRow (new w) (base + j) = 0)
         ∧ (st.accPoison.wf = true → ∀ i, base ≤ i / 8 → i / 8 < base + cnt → (new w).accPoison.get i = 0)
         ∧ ∀ k, (new w).counts.get 0 k =
             if k / 4 = bank ∧ row < 16 * (k % 4) + 16 ∧ 16 * (k % 4) < row + cnt then 0 else st.counts.get 0 k)
       ∧ (∀ row cnt k, let w := Write.freeRows row cnt k
         stores w ∧ new w = { st with acc := (new w).acc, accPoison := (new w).accPoison }
         ∧ rowsOnly w (fun r => row ≤ r ∧ r < row + cnt))
       ∧ (∀ q row bad, let w := Write.shadow q row bad
         stores w ∧ new w = { st with shadow := (new w).shadow, shadowPoison := (new w).shadowPoison }
         ∧ (∀ k, (new w).shadow.get 0 k = if k = q then row else st.shadow.get 0 k)
         ∧ (st.shadowPoison.wf = true → ∀ i, (new w).shadowPoison.get i =
             if i / 4 = q then (if bad.getLsbD (i % 4) = true then 1 else 0) else st.shadowPoison.get i))
       ∧ (stores .flip ∧ new .flip = { st with
           shadow := st.active, active := st.shadow, shadowPoison := st.activePoison, activePoison := st.shadowPoison })
       ∧ ∀ g0 cnt on holder, let w := Write.inUse g0 cnt on holder
         stores w ∧ new w = { st with inUse := (new w).inUse, holders := (new w).holders }
         ∧ ∀ g d, (g < 192 → (new w).inUse.getLsbD g = if g0 ≤ g ∧ g < g0 + cnt then on else st.inUse.getLsbD g)
           ∧ (new w).holders.get d g = if on = true ∧ g0 ≤ g ∧ g < g0 + cnt then holder else st.holders.get d g)

/-- A plain store is seen by the storing context's next load and by no other read; a publication gives each byte of its
lines to memory, the newest line's byte first, and leaves every other byte, every register and every other context (08 R193,
12 R265, R266, R268, R269). -/
def Obligations.StoresAndPublications : Prop :=
  (∀ (s : State) (x a : Nat) (w : LineWrite), (s.ctx x).mem.held = none → (s.ctx x).mem.landed = [] →
    s.heldWrites x = [] → w.home = .buffer →
    (s.enterLine x w).loadByte x a = (lineByte a w).getD (s.loadByte x a) ∧ (s.enterLine x w).mem = s.mem
      ∧ ∀ y, y ≠ x → (s.enterLine x w).loadByte y a = s.loadByte y a)
  ∧ ∀ (s : State) (x sc a : Nat) (ls : List LineWrite) (rel : Bool) (w : Option Nat), s.mem.wf = true →
    let u := s.publishLines x sc ls rel w
    u.mem.get a = (ownByte a ls).getD (s.mem.get a) ∧ u.cores = s.cores ∧ u.dies = s.dies ∧ (∀ y ≠ x, u.ctx y = s.ctx y)
      ∧ u.ctx x = { s.ctx x with mem := { (s.ctx x).mem with
          carry := (u.ctx x).mem.carry, kept := (u.ctx x).mem.kept } }

/-- The canonical form of memory, poison and the stores is kept by landings, publications and the writes of hardware
(00 R5, 02 R38, 12 R265; the form is the model's, log entry 2). -/
def Obligations.CanonicalForms : Prop :=
  ∀ (s : State), s.Inv →
    (∀ n, (s.landDue n).Inv) ∧ (∀ x sc ls rel w, (s.publishLines x sc ls rel w).Inv) ∧ (∀ a bs, (s.sysWrite a bs).Inv)
    ∧ (∀ p va bs, (s.hwWrite p va bs).Inv) ∧ (∀ x va a bs, (s.storeBytes x va a bs).Inv)
    ∧ ∀ n p va k pa t, s.translate n p va k = .ok (pa, t) → t.Inv

/-- Every step, whatever it executes, keeps the canonical form of memory and of its poison: addresses strictly rising and no
entry of the value that an unlisted address reads as (the form is the model's, log entry 2). -/
def Obligations.StepKeepsForm : Prop :=
  ∀ (s t : State), s.mem.wf = true ∧ s.poison.wf = true → step s = .next t → t.mem.wf = true ∧ t.poison.wf = true

/-- After reset nothing runs and no task waits; the control registers hold the values the manual gives them; memory lists
nothing, so every byte reads 0 (that value is the model's, log entry 2), and every form is canonical (04 R92, 08 R186,
09 R205, 10 R242, 19 R349, 24 R409). -/
def Obligations.ResetState : Prop :=
  State.reset.Inv ∧ (∀ x, (State.reset.ctx x).iss.phase = .free ∧ (State.reset.ctx x).mem.ops = [])
  ∧ (∀ x, State.reset.ctl x 0x020 = 0x80 ∧ State.reset.ctl x 0x021 = 0x00802040 ∧ State.reset.ctl x 0x023 = 0x1000000
    ∧ State.reset.ctl x 0x030 = 4 ∧ State.reset.ctl x 0x019 = 0)
  ∧ (∀ a, State.reset.mem.get a = 0) ∧ State.reset.pkg.owner = none ∧ ∀ p, (State.reset.part p).ent.state = 0

/-- No instruction and no event faults or is refused, in any state: each has a next state, as the manual gives each an
effect. That an event whose conditions do not hold leaves the state as it is, is log entry 61's choice. -/
def Obligations.NoStop : Prop := ∀ (i : Instr) (s : State), ∃ t, exec i s = .next t

/-! ### Scalar slots (05) -/

/-- Sums, products and quotients wrap modulo 2^64 and land at issue + 1, 3 or 24; the high halves are those of the exact
products; a division by zero gives all ones, a remainder by zero the dividend, and neither traps (05 R117 to R120). -/
def Obligations.ScalarArithmetic : Prop :=
  ∀ (s : State) (d a b : BitVec 6),
    let A := s.readS a
    let B := s.readS b
    exec (.add d a b) s = .next (s.writeS d 1 (BitVec.ofNat 64 (A.toNat + B.toNat)))
    ∧ exec (.sub d a b) s = .next (s.writeS d 1 (BitVec.ofInt 64 ((A.toNat : Int) - B.toNat)))
    ∧ exec (.mul d a b) s = .next (s.writeS d 3 (BitVec.ofNat 64 (A.toNat * B.toNat)))
    ∧ exec (.mulh d a b) s = .next (s.writeS d 3 (BitVec.ofInt 64 (A.toInt * B.toInt / 2 ^ 64)))
    ∧ exec (.mulhu d a b) s = .next (s.writeS d 3 (BitVec.ofNat 64 (A.toNat * B.toNat / 2 ^ 64)))
    ∧ exec (.divu d a b) s =
        .next (s.writeS d 24 (BitVec.ofNat 64 (if B.toNat = 0 then 2 ^ 64 - 1 else A.toNat / B.toNat)))
    ∧ exec (.remu d a b) s =
        .next (s.writeS d 24 (BitVec.ofNat 64 (if B.toNat = 0 then A.toNat else A.toNat % B.toNat)))

/-- Logic, shifts by B[5:0], minima and maxima, comparisons, sel and mov land at issue + 1; sel, opcode 0x15, has its four
fields in bits [23:0] and reads its three sources at issue (05 R117, R118, R125). -/
def Obligations.ScalarLogic : Prop :=
  ∀ (s : State) (d c a b : BitVec 6),
    let A := s.readS a
    let B := s.readS b
    let n := B.toNat % 64
    exec (.and d a b) s = .next (s.writeS d 1 (BitVec.ofNat 64 (Nat.land A.toNat B.toNat)))
    ∧ exec (.or d a b) s = .next (s.writeS d 1 (BitVec.ofNat 64 (Nat.lor A.toNat B.toNat)))
    ∧ exec (.xor d a b) s = .next (s.writeS d 1 (BitVec.ofNat 64 (Nat.xor A.toNat B.toNat)))
    ∧ exec (.shl d a b) s = .next (s.writeS d 1 (BitVec.ofNat 64 (A.toNat * 2 ^ n)))
    ∧ exec (.shr d a b) s = .next (s.writeS d 1 (BitVec.ofNat 64 (A.toNat / 2 ^ n)))
    ∧ exec (.sra d a b) s = .next (s.writeS d 1 (BitVec.ofInt 64 (A.toInt / 2 ^ n)))
    ∧ exec (.min d a b) s = .next (s.writeS d 1 (BitVec.ofInt 64 (Min.min A.toInt B.toInt)))
    ∧ exec (.max d a b) s = .next (s.writeS d 1 (BitVec.ofInt 64 (Max.max A.toInt B.toInt)))
    ∧ exec (.minu d a b) s = .next (s.writeS d 1 (BitVec.ofNat 64 (Min.min A.toNat B.toNat)))
    ∧ exec (.maxu d a b) s = .next (s.writeS d 1 (BitVec.ofNat 64 (Max.max A.toNat B.toNat)))
    ∧ exec (.slt d a b) s = .next (s.writeS d 1 (if A.toInt < B.toInt then 1 else 0))
    ∧ exec (.sltu d a b) s = .next (s.writeS d 1 (if A.toNat < B.toNat then 1 else 0))
    ∧ exec (.seq d a b) s = .next (s.writeS d 1 (if A = B then 1 else 0))
    ∧ exec (.sel d c a b) s = .next (s.writeS d 1 (if s.readS c ≠ 0 then A else B))
    ∧ exec (.mov d a) s = .next (s.writeS d 1 A)
    ∧ ∀ w < 2 ^ 24, decodeSlot .scalar (0x15 * 2 ^ 24 + w) = .op (.sel (field w 18 6) (field w 12 6) (field w 6 6) (field w 0 6))

/-- popc, clz, ctz, fnsb and brev stand in both S slots in the SR form and run on all 64 bits with latency 1, each result by
what the manual says of it; extr and depo move a field (05 R126, R127). -/
def Obligations.ScalarBits : Prop :=
  ∀ (s : State) (d a b p l : BitVec 6),
    let A := s.readS a
    let B := s.readS b
    (∀ w < 2 ^ 24, let d1 := field w 18 6; let a1 := field w 12 6
      decodeSlot .scalar (0x17 * 2 ^ 24 + w) = .op (.popc d1 a1) ∧ decodeSlot .scalar (0x18 * 2 ^ 24 + w) = .op (.clz d1 a1)
      ∧ decodeSlot .scalar (0x19 * 2 ^ 24 + w) = .op (.ctz d1 a1) ∧ decodeSlot .scalar (0x1B * 2 ^ 24 + w) = .op (.brev d1 a1)
      ∧ decodeSlot .scalar (0x1A * 2 ^ 24 + w) = .op (.fnsb d1 a1 (field w 6 6)))
    ∧ slotClass 0 = .scalar ∧ slotClass 1 = .scalar
    ∧ (∃ r : Nat, exec (.popc d a) s = .next (s.writeS d 1 (BitVec.ofNat 64 r))
        ∧ r = ((List.range 64).filter fun i => A.getLsbD i).length)
    ∧ (∃ r : Nat, exec (.clz d a) s = .next (s.writeS d 1 (BitVec.ofNat 64 r)) ∧ r ≤ 64
        ∧ (∀ i < r, A.getLsbD (63 - i) = false) ∧ (r < 64 → A.getLsbD (63 - r) = true))
    ∧ (∃ r : Nat, exec (.ctz d a) s = .next (s.writeS d 1 (BitVec.ofNat 64 r)) ∧ r ≤ 64
        ∧ (∀ i < r, A.getLsbD i = false) ∧ (r < 64 → A.getLsbD r = true))
    ∧ (∃ r : Nat, exec (.fnsb d a b) s = .next (s.writeS d 1 (BitVec.ofNat 64 r)) ∧ r ≤ 64
        ∧ (r < 64 → A.getLsbD r = true ∧ ((List.range r).filter fun i => A.getLsbD i).length = B.toNat)
        ∧ (r = 64 → ((List.range 64).filter fun i => A.getLsbD i).length ≤ B.toNat))
    ∧ (∃ r : BitVec 64, exec (.brev d a) s = .next (s.writeS d 1 r) ∧ ∀ i < 64, r.getLsbD i = A.getLsbD (63 - i))
    ∧ (∃ r : BitVec 64, exec (.extr d a p l) s = .next (s.writeS d 1 r)
        ∧ ∀ i < 64, r.getLsbD i = (decide (i ≤ l.toNat) && A.getLsbD (p.toNat + i)))
    ∧ (∃ r : BitVec 64, exec (.depo d a p l) s = .next (s.writeS d 1 r)
        ∧ ∀ i < 64, r.getLsbD i =
            if p.toNat ≤ i ∧ i < p.toNat + (l.toNat + 1) then A.getLsbD (i - p.toNat) else (s.readS d).getLsbD i)

/-- Immediates: 12 or 18 bits widened by the lend byte as lend_imm says, shift amounts of six bits, and movk's shift by 26,
or by 18 in a tree bundle (03 R56, 05 R121 to R124). -/
def Obligations.ScalarImmediates : Prop :=
  ∀ (s : State) (d a n : BitVec 6) (i : BitVec 12) (j : BitVec 18),
    let A := s.readS a
    let imm := BitVec.ofInt 64 (lendImm i.toNat 12 s.cur.lend)
    exec (.addi d a i) s = .next (s.writeS d 1 (A + imm))
    ∧ exec (.andi d a i) s = .next (s.writeS d 1 (A &&& imm))
    ∧ exec (.ori d a i) s = .next (s.writeS d 1 (A ||| imm))
    ∧ exec (.xori d a i) s = .next (s.writeS d 1 (A ^^^ imm))
    ∧ exec (.shli d a n) s = .next (s.writeS d 1 (BitVec.ofNat 64 (A.toNat * 2 ^ n.toNat)))
    ∧ exec (.shri d a n) s = .next (s.writeS d 1 (BitVec.ofNat 64 (A.toNat / 2 ^ n.toNat)))
    ∧ exec (.srai d a n) s = .next (s.writeS d 1 (BitVec.ofInt 64 (A.toInt / 2 ^ n.toNat)))
    ∧ exec (.movi d j) s = .next (s.writeS d 1 (BitVec.ofInt 64 (lendImm j.toNat 18 s.cur.lend)))
    ∧ exec (.movk d j) s = .next (s.writeS d 1 (BitVec.ofNat 64
        (if s.cur.kind = BundleKind.tree then (s.readS d).toNat * 2 ^ 18 + j.toNat
         else (s.readS d).toNat * 2 ^ 26 + (s.cur.lend.toNat * 2 ^ 18 + j.toNat))))

/-! ### Vector slots (06) -/

/-- Two-operand integer operations work on the active elements and land at issue + 2; the s bit makes vmulh, vmin and vmax
unsigned (06 R133, R135, R136). -/
def Obligations.VectorIntegers : Prop :=
  ∀ (s : State) (t k : BitVec 3) (d a b : BitVec 6) (u : BitVec 1),
    t.toNat ≤ 3 → s.grants [a.toNat, b.toNat, d.toNat] →
    let w := vwidth t.toNat
    let W := 8 * w
    let x := elem w (s.readV a.toNat)
    let y := elem w (s.readV b.toNat)
    let gives (i : Instr) (f : Nat → Nat) := ∃ r, exec i s = .next r ∧ VecResult s r d.toNat w 2 k.toNat f
    gives (.vadd t d a b k u) (fun i => x i + y i)
    ∧ gives (.vsub t d a b k u) (fun i => x i + 2 ^ W - y i)
    ∧ gives (.vmul t d a b k u) (fun i => x i * y i)
    ∧ gives (.vmulh t d a b k u) (fun i => (asInt u W (x i) * asInt u W (y i) / 2 ^ W % 2 ^ W).toNat)
    ∧ gives (.vmin t d a b k u) (fun i => if asInt u W (x i) < asInt u W (y i) then x i else y i)
    ∧ gives (.vmax t d a b k u) (fun i => if asInt u W (x i) < asInt u W (y i) then y i else x i)
    ∧ gives (.vand t d a b k u) (fun i => Nat.land (x i) (y i))
    ∧ gives (.vor t d a b k u) (fun i => Nat.lor (x i) (y i))
    ∧ gives (.vxor t d a b k u) (fun i => Nat.xor (x i) (y i))
    ∧ gives (.vandn t d a b k u) (fun i => Nat.land (x i) (2 ^ W - 1 - y i))

/-- Shifts and rotation by the b field with s = 1, else by the low six bits of the element of register b, an amount of the width
or more shifting everything out; absolute value, counts, indexes and reversal of each active element (06 R136 to R138). -/
def Obligations.VectorShiftsAndBits : Prop :=
  (∀ (s : State) (t k : BitVec 3) (d a b : BitVec 6) (u : BitVec 1),
       t.toNat ≤ 3 → s.grants (if u = 1 then [a.toNat, d.toNat] else [a.toNat, b.toNat, d.toNat]) →
       let w := vwidth t.toNat
       let W := 8 * w
       let x := elem w (s.readV a.toNat)
       let n (i : Nat) := if u = 1 then b.toNat else elem w (s.readV b.toNat) i % 64
       let gives (i : Instr) (f : Nat → Nat) := ∃ r, exec i s = .next r ∧ VecResult s r d.toNat w 2 k.toNat f
       gives (.vshl t d a b k u) (fun i => x i * 2 ^ n i)
       ∧ gives (.vshr t d a b k u) (fun i => x i / 2 ^ n i)
       ∧ gives (.vsra t d a b k u) (fun i => (asInt 0 W (x i) / 2 ^ n i % 2 ^ W).toNat)
       ∧ gives (.vrot t d a b k u) (fun i => x i * 2 ^ (n i % W) + x i / 2 ^ (W - n i % W)))
  ∧ (∀ (s : State) (t k : BitVec 3) (d a b : BitVec 6),
       t.toNat ≤ 3 → s.grants [a.toNat, d.toNat] →
       let w := vwidth t.toNat
       let W := 8 * w
       let x := elem w (s.readV a.toNat)
       let gives (i : Instr) (f : Nat → Nat) := ∃ r, exec i s = .next r ∧ VecResult s r d.toNat w 2 k.toNat f
       gives (.vabs t d a k) (fun i => if x i < 2 ^ (W - 1) then x i else 2 ^ W - x i)
       ∧ gives (.vpopc t d a k) (fun i => popCount W (x i))
       ∧ gives (.vclz t d a k) (fun i => leadingZeros W (x i))
       ∧ gives (.vctz t d a k) (fun i => nthSet W (x i) 0)
       ∧ gives (.vbrev t d a k) (fun i => reverseBits W (x i))
       ∧ (b.toNat < s.grant s.cur.ctx →
           gives (.vfnsb t d a b k) (fun i => nthSet W (x i) (elem w (s.readV b.toNat) i))))

/-- Selection, moves, broadcast, extraction into a scalar register of any number, permutation and the rotation by clusters
(06 R140 to R144). -/
def Obligations.VectorMoves : Prop :=
  ∀ (s : State) (t k n : BitVec 3) (d a b c sd : BitVec 6) (i : BitVec 16) (j : BitVec 1),
    t ≠ 7 → (a.toNat < s.grant s.cur.ctx →
      let w := vwidth t.toNat
      let z := elem 8 (s.readV a.toNat) (j.toNat * 64 + c.toNat)
      exec (.vextr t sd a c j) s = .next (s.writeS sd 2
        (if t.toNat < 3 then BitVec.ofInt 64 (sextN z (8 * w)) else BitVec.ofNat 64 (z % 2 ^ (8 * w)))))
    ∧ (s.grants [d.toNat] →
      let fills (ins : Instr) (w : Nat) (f : Nat → Nat) := ∃ data, exec ins s =
          .next (s.schedule 2 0 (.vector d.toNat (BitVec.allOnes 1024) data))
        ∧ ∀ e < 1024 / w, elem w data e = f e % 2 ^ (8 * w)
      let w := vwidth t.toNat
      fills (.vmovi t d i) w (fun _ =>
        if t = 2 ∨ t = 3 then (s.imm i).toNat
        else if t = 6 then i.toNat * 2 ^ 16 + s.cur.lend.toNat * 2 ^ 8 else i.toNat)
      ∧ ∃ r, exec (.vbcast t d c k) s = .next r ∧ VecResult s r d.toNat w 2 k.toNat (fun _ => (s.readS c).toNat))
    ∧ (s.grants [a.toNat, d.toNat] →
      let w := vwidth t.toNat
      let m := 128 / w
      let x := elem w (s.readV a.toNat)
      let gives (ins : Instr) (lat : Nat) (f : Nat → Nat) :=
        ∃ r, exec ins s = .next r ∧ VecResult s r d.toNat w lat k.toNat f
      gives (.vmov t d a k) 2 x ∧ gives (.xcl t d a n k) 6 (fun e => x ((e / m + n.toNat) % 8 * m + e % m)))
    ∧ (s.grants [a.toNat, b.toNat, d.toNat] →
    let w := vwidth t.toNat
    let m := 128 / w
    let x := elem w (s.readV a.toNat)
    let y := elem w (s.readV b.toNat)
    let gives (ins : Instr) (lat : Nat) (f : Nat → Nat) := ∃ r, exec ins s = .next r ∧ VecResult s r d.toNat w lat k.toNat f
    (∃ data, exec (.vsel t d a b k) s = .next (s.schedule 2 0 (.vector d.toNat (BitVec.allOnes 1024) data))
      ∧ ∀ e < 1024 / w, elem w data e = (if active w (s.readK k.toNat) e then x e else y e) % 2 ^ (8 * w))
    ∧ gives (.vperm t d a b k) 2 (fun e => x (e / m * m + y e % m)))

/-- Comparisons write the outcome to the bits of the active elements of a mask; the mask operations work on whole masks; vred
leaves in element 0 of each cluster the reduction of its active elements and 0 in the others (06 R139, R145, R149). -/
def Obligations.MasksAndReduction : Prop :=
  (∀ (s : State) (t e r k : BitVec 3) (a b : BitVec 6) (u : BitVec 1) (ka kb : BitVec 3),
       s.grants [a.toNat, b.toNat] → r ≠ 7 →
       let w := vwidth t.toNat
       let x := elem w (s.readV a.toNat)
       let y := elem w (s.readV b.toNat)
       (t.toNat ≤ 3 → ∃ q, exec (.vcmp t e r a b k u) s = .next q
           ∧ MaskResult s q e.toNat 2 w k.toNat (fun i =>
               intRel r.toNat (asInt u (8 * w) (x i)) (asInt u (8 * w) (y i)) (Nat.land (x i) (y i) != 0) = true))
       ∧ (4 ≤ t.toNat → t ≠ 7 → ∃ q, exec (.vfcmp t e r a b k) s = .next q
           ∧ MaskResult s q e.toNat 4 w k.toNat (fun i =>
               floatRel r.toNat ((vfmt t.toNat).value (x i)) ((vfmt t.toNat).value (y i)) = true))
       ∧ exec (.kand e ka kb) s = .next (s.writeK e.toNat 2 (BitVec.allOnes 1024) (s.readK ka.toNat &&& s.readK kb.toNat))
       ∧ exec (.kor e ka kb) s = .next (s.writeK e.toNat 2 (BitVec.allOnes 1024) (s.readK ka.toNat ||| s.readK kb.toNat))
       ∧ exec (.kxor e ka kb) s = .next (s.writeK e.toNat 2 (BitVec.allOnes 1024) (s.readK ka.toNat ^^^ s.readK kb.toNat))
       ∧ exec (.knot e ka) s = .next (s.writeK e.toNat 2 (BitVec.allOnes 1024) (~~~ s.readK ka.toNat))
       ∧ exec (.kmov e ka) s = .next (s.writeK e.toNat 2 (BitVec.allOnes 1024) (s.readK ka.toNat)))
  ∧ (∀ (s : State) (t o k : BitVec 3) (d a : BitVec 6) (u : BitVec 1),
       t ≠ 7 → o.toNat ≤ (if t.toNat ≤ 3 then 5 else 2) → s.grants [a.toNat, d.toNat] →
       let w := vwidth t.toNat
       let m := 128 / w
       let xs (c : Nat) := (((List.range m).map (c * m + ·)).filter (active w (s.readK k.toNat))).map
         (elem w (s.readV a.toNat))
       let red (c : Nat) : Nat × BitVec 5 :=
         if t.toNat ≤ 3 then (reduceInt o.toNat (8 * w) u (xs c), 0)
         else if o = 0 then reduceSum (vfmt t.toNat) (xs c) else reducePick (vfmt t.toNat) (o == 2) (xs c)
       ∃ flags data, exec (.vred t d a o k u) s =
           .next (s.schedule (if t.toNat ≤ 3 then 2 else 4) flags (.vector d.toNat (BitVec.allOnes 1024) data))
         ∧ (∀ c < 8, elem w data (c * m) = (red c).1 % 2 ^ (8 * w))
         ∧ (∀ i < 1024 / w, i % m ≠ 0 → elem w data i = 0)
         ∧ ∀ b < 5, (flags.getLsbD b = true ↔ ∃ c < 8, (red c).2.getLsbD b = true))

/-- Floating operations round each active element once, in RN or the mode of the lend byte's override, and land at
issue + 4; minima, maxima and negation do not round (06 R146 to R148). -/
def Obligations.VectorFloats : Prop :=
  ∀ (s : State) (t k : BitVec 3) (d a b : BitVec 6) (u : BitVec 1),
    4 ≤ t.toNat → t ≠ 7 → s.grants [a.toNat, b.toNat, d.toNat] →
    let w := vwidth t.toNat
    let fm := vfmt t.toNat
    let x := elem w (s.readV a.toNat)
    let y := elem w (s.readV b.toNat)
    let z := elem w (s.readV d.toNat)
    let gives (i : Instr) (f : Nat → Nat × BitVec 5) :=
      ∃ r, exec i s = .next r ∧ FloatResult s r d.toNat w 4 k.toNat (fun e => some (f e))
    (∀ mode, s.overrideMode = some mode →
      let rounded (e : Exact × BitVec 5) : Nat × BitVec 5 := ((fm.round mode e.1).1, e.2 ||| (fm.round mode e.1).2)
      gives (.vfadd t d a b k) (fun i => rounded (exactAdd mode (fm.value (x i)) (fm.value (y i))))
      ∧ gives (.vfsub t d a b k) (fun i => rounded (exactAdd mode (fm.value (x i)) (fm.value (y i)).negate))
      ∧ gives (.vfmul t d a b k) (fun i => rounded (exactMul (fm.value (x i)) (fm.value (y i))))
      ∧ gives (.vfma t d a b k) (fun i => rounded (exactFma mode (fm.value (x i)) (fm.value (y i)) (fm.value (z i)))))
    ∧ gives (.vfmin t d a b k) (fun i => (floatPick fm false (x i) (y i), sigFlag fm (x i) ||| sigFlag fm (y i)))
    ∧ gives (.vfmax t d a b k) (fun i => (floatPick fm true (x i) (y i), sigFlag fm (x i) ||| sigFlag fm (y i)))
    ∧ gives (.vfneg t d a k u) (fun i =>
        (if u = 1 then x i % 2 ^ (8 * w - 1) else Nat.xor (x i) (2 ^ (8 * w - 1)), 0))

/-! ### Slot F (07) -/

/-- The functions of equal types: each active element is rounded once under the word's mode, its part being 0, and lands at
issue + 8; fscl takes its exponent from the lend byte; bobpop pops the oldest word of the queue into s[d] at issue + 8, and a
pop into s0 pops as well (07 R159, R160, R164 to R168, R172). -/
def Obligations.SpecialFunctions : Prop :=
  (∀ (s : State) (i k r : BitVec 3) (d a : BitVec 6),
       4 ≤ i.toNat → i ≠ 7 → s.grants [a.toNat, d.toNat] → s.effRound r ≠ 7 → s.bobbinReady (s.effRound r) →
       let w := vwidth i.toNat
       let fm := vfmt i.toNat
       let x := elem w (s.readV a.toNat)
       let p := roundWord s (s.effRound r)
       let mode (e : Nat) := elemMode (s.effRound r) p.1 (elemIndex w e)
       let gives (ins : Instr) (f : Fmt → Rounding → Nat → Nat × BitVec 5) :=
         ∃ q, exec ins s = .next q ∧ FloatResult p.2 q d.toNat w 8 k.toNat (fun e => some (f fm (mode e) (x e)))
       (s.cur.lend.toNat % 4 = 0 →
         gives (.fexp2 i i d a k r) fexp2Elem ∧ gives (.flog2 i i d a k r) flog2Elem ∧ gives (.frcp i i d a k r) frcpElem
         ∧ gives (.frsq i i d a k r) frsqElem ∧ gives (.fsqrt i i d a k r) fsqrtElem ∧ gives (.ftanh i i d a k r) ftanhElem
         ∧ gives (.frnd i i d a k r) frndElem)
       ∧ gives (.fscl i i d a k r) (mathElem (fun neg => (.inf neg, 0))
           (fun neg m e => (.num neg m (e + s.cur.lend.toInt) false, 0))))
  ∧ (∀ (s : State) (d : BitVec 6) (w : BitVec 64) (ws : List (BitVec 64)),
       ((s.fillBobbin s.cur.core).core s.cur.core).bobbin = w :: ws →
       exec (.bobpop d) s = .next
         (((s.fillBobbin s.cur.core).modCore s.cur.core fun c => { c with bobbin := ws }).writeS d 8 w))

/-- Conversion and the two forms of block floating point (07 R165, R169 to R171). A narrowing writes part p of each
cluster's destination, a widening reads part p of its source. -/
def Obligations.Conversions : Prop :=
  ∀ (s : State) (i o m k r : BitVec 3) (d a : BitVec 6),
    s.effRound r ≠ 7 → s.bobbinReady (s.effRound r) →
    let p := s.cur.lend.toNat % 4
    let q := roundWord s (s.effRound r)
    let mode (w e : Nat) := elemMode (s.effRound r) q.1 (elemIndex w e)
    (∀ win wout, fwidth i.toNat = some win → fwidth o.toNat = some wout → i ≠ o → s.grants [a.toNat, d.toNat] →
      p * Min.min win wout < Max.max win wout →
      ∃ t, exec (.fcvt i o d a k r) s = .next t
        ∧ FloatResult q.2 t d.toNat wout 8 k.toNat (fun e =>
            let c := e / (128 / wout)
            let j := e % (128 / wout)
            let src := if wout < win then j - p * (128 / win) else if win < wout then p * (128 / wout) + j else j
            if wout < win ∧ (j < p * (128 / win) ∨ (p + 1) * (128 / win) ≤ j) then none
            else some (fcvtElem i.toNat o.toNat (mode wout e) (elem win (s.readV a.toNat) (c * (128 / win) + src)))))
    ∧ (4 ≤ o.toNat → o ≠ 7 → m ≠ 7 → s.grants [a.toNat, a.toNat + 1, d.toNat] → p < vwidth o.toNat →
      let w := vwidth o.toNat
      let n := 128 / w
      ∃ t, exec (.fbunpk o m d a k r) s = .next t
        ∧ FloatResult q.2 t d.toNat w 8 k.toNat (fun e =>
            let g := p * n + e % n
            let M := sextN (elem 1 (s.readV a.toNat) (e / n * 128 + g)) (m.toNat + 2)
            let E := elem 1 (s.readV (a.toNat + 1)) (e / n * 128 + g / 32)
            some (if E = 0 then (0, 0) else if E = 255 then ((vfmt o.toNat).nan, 0)
              else (vfmt o.toNat).round (mode w e)
                (.num (decide (M < 0)) M.natAbs ((E : Int) - 127 - ((m.toNat : Int) + 1)) false))))
    ∧ (4 ≤ i.toNat → i ≠ 7 → m ≠ 7 → s.grants [a.toNat, d.toNat, d.toNat + 1] → p < vwidth i.toNat →
      let w := vwidth i.toNat
      let n := 128 / w
      let act (c b : Nat) := (((List.range 32).map fun e =>
          (c * 128 + p * n + 32 * b + e, elem w (s.readV a.toNat) (c * n + 32 * b + e))).filter
            fun v => (s.readK k.toNat).getLsbD v.1)
      let block (c b : Nat) := packBlock (m.toNat + 2) (vfmt i.toNat) (mode 1) (act c b)
      ∃ flags mask data emask edata, exec (.fbpk i m d a k r) s =
          .next ((q.2.schedule 8 flags (.vector d.toNat mask data)).schedule 8 0 (.vector (d.toNat + 1) emask edata))
        ∧ ∀ c < 8, ∀ b < n / 32,
          (∀ v ∈ (block c b).2.1, mask.getLsbD v.1 = true ∧ elem 1 data v.1 = v.2 % 256)
          ∧ let e := c * 128 + (p * n + 32 * b) / 32
            emask.getLsbD e = !(act c b).isEmpty ∧ (act c b ≠ [] → elem 1 edata e = (block c b).1 % 256))

/-! ### Local stores, accumulators and the array (08, 09) -/

/-- Vector loads from the X-store and the W-store: 128 bytes to each cluster, from addresses a stride apart, which is 128 in the
W-store, written whole at issue + 5; vector stores put the 128 bytes of cluster c at its address one cycle after issue;
scalar accesses to the X-store are little-endian, loads zero-extended or, for size codes 4 to 6, sign-extended;
a load corrects the single-bit errors it meets. A misaligned address traps 0x04, one outside the store 0x05, each at the
lowest address that fails, uncorrectable or poisoned data 0x08 at its lowest sector; lda and sta trap 0x04 at a row that is
no multiple of 4, bufhold and buffree 0x05 at a buffer that does not exist, with the lowest granule outside the store as address
(log entry 14) (08 R181, R184 to R188, R195). -/
def Obligations.LocalAccesses : Prop :=
  (∀ (s : State) (v b : BitVec 6) (o : BitVec 10),
       let st := (s.core s.cur.core).st
       let a := s.addrOf b 128 o
       let x := xstride s
       v.toNat < s.grant s.cur.ctx → a % 16 = 0 →
       ((∀ c < 8, a + c * x + 128 ≤ xstoreSize ∧ firstPoison st.xpoison (a + c * x) 128 = none) →
         ∃ u data, Mended s u s.cur.core
           ∧ exec (.ldx v b o) s = .next (u.schedule 5 0 (.vector v.toNat (BitVec.allOnes 1024) data))
           ∧ ∀ c < 8, ∀ i < 128, elem 1 data (128 * c + i) = (st.xstore.get (a + c * x + i)).toNat)
       ∧ ((∀ c < 8, a + c * 128 + 128 ≤ wstoreSize ∧ firstPoison st.wpoison (a + c * 128) 128 = none) →
         ∃ u data, Mended s u s.cur.core
           ∧ exec (.ldw v b o) s = .next (u.schedule 5 0 (.vector v.toNat (BitVec.allOnes 1024) data))
           ∧ ∀ i < 1024, elem 1 data i = (st.wstore.get (a + i)).toNat))
  ∧ (∀ (s : State) (v b : BitVec 6) (o : BitVec 10),
       let a := s.addrOf b 128 o
       let x := xstride s
       v.toNat < s.grant s.cur.ctx → a % 16 = 0 →
       ((∀ c < 8, a + c * x + 128 ≤ xstoreSize) →
         exec (.stx v b o) s = .next (s.schedule 1 0 (.xstore ((List.range 8).map fun c =>
           (a + c * x, (List.range 128).map fun i => BitVec.ofNat 8 (elem 1 (s.readV v.toNat) (128 * c + i)))))))
       ∧ ((∀ c < 8, a + c * 128 + 128 ≤ wstoreSize) →
         exec (.stw v b o) s = .next (s.schedule 1 0 (.wstore ((List.range 8).map fun c =>
           (a + c * 128, (List.range 128).map fun i => BitVec.ofNat 8 (elem 1 (s.readV v.toNat) (128 * c + i))))))))
  ∧ (∀ (s : State) (z : BitVec 3) (d b : BitVec 6) (o : BitVec 10),
       let n := sizeBytes z.toNat
       let a := s.addrOf b n o
       let st := (s.core s.cur.core).st
       let v := st.xstore.readNat a n
       a % n = 0 → a + n ≤ xstoreSize →
       (z ≠ 7 → firstPoison st.xpoison a n = none →
         ∃ u, Mended s u s.cur.core ∧ exec (.ldxs z d b o) s = .next (u.writeS d 5
           (if z.toNat < 4 then BitVec.ofNat 64 v else BitVec.ofInt 64 (sextN v (8 * n)))))
       ∧ (z.toNat < 4 →
         exec (.stxs z d b o) s = .next (s.schedule 1 0 (.xstore [(a, (List.range n).map fun i =>
           BitVec.ofNat 8 ((s.readS d).toNat / 256 ^ i))]))))
  ∧ (∀ (s : State) (z : BitVec 3) (v d b r i n : BitVec 6) (k : BitVec 4) (o : BitVec 10),
       let st := (s.core s.cur.core).st
       let a := s.addrOf b 128 o
       let m := sizeBytes z.toNat
       let y := s.addrOf b m o
       let row := accRowOf s r i
       let g0 : Int := ((s.readS b).toNat / 2048 : Nat) + lendImm o.toNat 10 s.cur.lend
       let traps (ins : Instr) (code fa : Nat) := exec ins s = .next (s.trapHere code fa 0)
       let vec (ins : Instr) (size stride : Nat) := (a % 16 ≠ 0 → traps ins 0x04 a)
         ∧ (a % 16 = 0 → ∀ c < 8, size < a + c * stride + 128 → (∀ e < c, a + e * stride + 128 ≤ size) →
           traps ins 0x05 (Max.max size (a + c * stride)))
       let bad (ins : Instr) (size stride : Nat) (codes : Memory) := a % 16 = 0 → (∀ c < 8, a + c * stride + 128 ≤ size) →
         ∀ q, (∃ c < 8, firstPoison codes (a + c * stride) 128 = some q) →
           (∀ c < 8, ∀ j, firstPoison codes (a + c * stride) 128 = some j → q ≤ j) → traps ins 0x08 (32 * q)
       (v.toNat < s.grant s.cur.ctx → vec (.ldx v b o) xstoreSize (xstride s) ∧ vec (.stx v b o) xstoreSize (xstride s)
         ∧ vec (.ldw v b o) wstoreSize 128 ∧ vec (.stw v b o) wstoreSize 128
         ∧ bad (.ldx v b o) xstoreSize (xstride s) st.xpoison ∧ bad (.ldw v b o) wstoreSize 128 st.wpoison
         ∧ (row % 4 ≠ 0 → traps (.lda v k r i) 0x04 (accReg k.toNat row) ∧ traps (.sta v k r i) 0x04 (accReg k.toNat row)))
       ∧ (z ≠ 7 → (y % m ≠ 0 → traps (.ldxs z d b o) 0x04 y) ∧ (y % m = 0 → xstoreSize < y + m → traps (.ldxs z d b o) 0x05 y)
         ∧ ∀ q, y % m = 0 → y + m ≤ xstoreSize → firstPoison st.xpoison y m = some q → traps (.ldxs z d b o) 0x08 (32 * q))
       ∧ (z.toNat < 4 → (y % m ≠ 0 → traps (.stxs z d b o) 0x04 y) ∧ (y % m = 0 → xstoreSize < y + m → traps (.stxs z d b o) 0x05 y))
       ∧ (s.readS n ≠ 0 → g0 < 0 ∨ 192 < g0 + (s.readS n).toNat →
         let fa := lowBits (2048 * (if g0 < 0 then g0 else Max.max g0 192)) 64
         traps (.bufhold n b o) 0x05 fa ∧ traps (.buffree n b o) 0x05 fa))

/-- lda and sta move four accumulator rows from row (s[r] + i) mod 64, a multiple of 4, in cluster order; bufhold and buffree set
and clear the in-use bits of s[n] buffers at issue + 1, and of none have no effect; scacc scales the partials of one group whose count it names into a
row at issue + 12; lda and scacc correct the single-bit errors they meet (08 R181, R188, R195, R198, R199). -/
def Obligations.AccumulatorsAndBuffers : Prop :=
  (∀ (s : State) (v : BitVec 6) (k : BitVec 4) (r i : BitVec 6),
       let st := (s.core s.cur.core).st
       let row := accRowOf s r i
       v.toNat < s.grant s.cur.ctx → row % 4 = 0 →
       (poisonedRow st.accPoison k.toNat row 4 = none →
         ∃ (u : State) (data : BitVec 8192), Mended s u s.cur.core
           ∧ exec (.lda v k r i) s = .next (u.schedule 4 0 (.vector v.toNat (BitVec.allOnes 1024) data))
           ∧ ∀ j < 4, data.toNat / 2 ^ (2048 * j) % 2 ^ 2048 = (accRow st (k.toNat * 64 + row + j)).toNat)
       ∧ ∃ rows, exec (.sta v k r i) s = .next (s.schedule 1 0 (.rows (k.toNat * 64 + row) rows)) ∧ rows.length = 4
           ∧ ∀ j < 4, (rows.getD j 0).toNat = (s.readV v.toNat).toNat / 2 ^ (2048 * j) % 2 ^ 2048)
  ∧ (∀ (s : State) (n b : BitVec 6) (o : BitVec 10) (d bank : BitVec 4) (r : BitVec 6) (g : BitVec 2) (e : BitVec 5)
       (c : BitVec 4),
       let g0 : Int := ((s.readS b).toNat / 2048 : Nat) + lendImm o.toNat 10 s.cur.lend
       let cnt := (s.readS n).toNat
       let st := (s.core s.cur.core).st
       (cnt = 0 → exec (.bufhold n b o) s = .next s ∧ exec (.buffree n b o) s = .next s)
       ∧ (0 < cnt → 0 ≤ g0 → g0 + cnt ≤ 192 →
         exec (.bufhold n b o) s = .next (s.schedule 1 0 (.inUse g0.toNat cnt true (s.cur.ctx % 8)))
         ∧ exec (.buffree n b o) s = .next (s.schedule 1 0 (.inUse g0.toNat cnt false (s.cur.ctx % 8))))
       ∧ (e.toNat < s.grant s.cur.ctx → st.counts.get 0 (bank.toNat * 4 + g.toNat) = c.toNat + 1 →
         poisonedRow st.accPoison bank.toNat (16 * g.toNat) (c.toNat + 1) = none → (∀ k, badSector st.vpoison k = false) →
         ∃ u, Mended s u s.cur.core ∧ exec (.scacc d r bank g e c) s = .next (u.schedule 12 0 (.scaled (d.toNat * 64 + r.toNat)
           ((List.range 64).map (scaccTerm st bank.toNat g.toNat (c.toNat + 1) (s.readV e.toNat)))))))

/-- The array: a plane row from the W-store, the exchange of the planes, beats at issue + 68 and 70, drains at issue + 12
and clearing at issue + 1, each with the valid rows, columns and elements of ctl.selv; what they read has its single-bit
errors corrected (08 R181, 09 R203 to R211). -/
def Obligations.ArrayBeats : Prop :=
  ∀ (s : State) (q a off : BitVec 6) (bank f : BitVec 4) (r : BitVec 6) (g : BitVec 2) (n half : BitVec 1) (p : BitVec 3)
    (mode : Rounding),
    let st := (s.core s.cur.core).st
    let at_ (unit : Nat) := (s.readS a).toNat + unit * off.toNat
    let nv := s.selN
    exec .mxflip s = .next (s.schedule 2 0 .flip)
    ∧ (at_ 128 % 16 = 0 → at_ 128 + 128 ≤ wstoreSize →
      ∃ u, Mended s u s.cur.core ∧ exec (.mxpushWstore q a off) s = .next (u.schedule 1 0
        (.shadow q.toNat (bytesToBits 1024 (st.wstore.read (at_ 128) 128)) (pushPoison st.wpoison (at_ 128)))))
    ∧ (∀ fm w depth, beatFmt f.toNat = some (fm, w, depth) →
      let kv := Min.min s.selK depth
      r.toNat < s.selM → 0 < kv → at_ 128 % 16 = 0 → at_ 128 + w * kv ≤ xstoreSize →
      (∀ i, badSector st.activePoison i = false) → firstPoison st.xpoison (at_ 128) (w * kv) = none →
      ∃ u, Mended s u s.cur.core ∧ exec (.mxacc bank r a f off) s = .next (u.schedule 68 0 (.beat (bank.toNat * 64 + r.toNat)
        ((List.range nv).map fun col => beatColumn
          ((List.range kv).map fun k => fm.value (st.xstore.readNat (at_ 128 + w * k) w))
          ((List.range kv).map fun k => fm.value (planeElem st w k col))))))
    ∧ (let kv := s.selK
      let nb := (kv + 31) / 32
      16 * g.toNat < s.selM → 0 < kv → at_ 512 % 16 = 0 → at_ 512 + kv ≤ xstoreSize →
      (∀ i, badSector st.activePoison i = false) → firstPoison st.xpoison (at_ 512) kv = none →
      ∃ u, Mended s u s.cur.core ∧ exec (.mxbp bank g n a p half off) s = .next (u.schedule 70 0 (.plane bank.toNat g.toNat nb
        ((List.range nb).map fun j => (List.range nv).map fun col =>
          planeTerm st (at_ 512) kv half.toNat j col p.toNat (n == 1)))))
    ∧ (f.toNat ≤ 4 → s.overrideMode = some mode → r.toNat < s.selM → 0 < nv → at_ 64 % 16 = 0 →
      at_ 64 + drainWidth f.toNat * nv ≤ xstoreSize → (∀ i, badSector st.accPoison i = false) →
      ∃ u, Mended s u s.cur.core ∧ exec (.mxdrain bank r a f off) s = .next (u.schedule 12 0 (.xstore [(at_ 64, (List.range nv).flatMap fun col =>
        bytesLE (drainWidth f.toNat) (drainWord f.toNat mode (accWord (accRow st (bank.toNat * 64 + r.toNat)) col)))])))
    ∧ (r.toNat + (off.toNat + 1) ≤ 64 →
      exec (.mxzero bank r off) s = .next (s.schedule 1 0 (.zeroRows bank.toNat r.toNat (off.toNat + 1))))

/-- Heddle streams: mxhed opens a stream of rows read at its fork, a push takes the next row that has arrived into the
shadow planes of its cores, waits for a row that has not, and traps 0x09 on a closed stream, with address 0, which is the
model's choice (log entry 66); mxunpin closes the stream (09 R213 to R216, R227). -/
def Obligations.HeddleStreams : Prop :=
  ∀ (s : State) (h : BitVec 2) (kp : BitVec 1) (q a c : BitVec 6) (m : BitVec 4),
    let n := s.cur.core
    let row := s.takeRow n h.toNat
    exec (.mxunpin h) s = .next (s.setStream n h.toNat resetStream)
    ∧ ((s.stream n h.toNat).opened = true → (s.stream n h.toNat).arrived ≤ (s.stream n h.toNat).pos →
      exec (.mxpushStream q h) s = .next (s.blockFor (rowWait h.toNat))
      ∧ (m ≠ 0 → exec (.mxgang q h m) s = .next (s.blockFor (rowWait h.toNat))))
    ∧ ((s.stream n h.toNat).opened = false →
      exec (.mxpushStream q h) s = .next (s.trapHere 0x09 0 (2 ^ 31 + (s.pinnedLines n).length))
      ∧ (m ≠ 0 → exec (.mxgang q h m) s = .next (s.trapHere 0x09 0 (2 ^ 31 + (s.pinnedLines n).length))))
    ∧ ((s.stream n h.toNat).opened = true → (s.stream n h.toNat).pos < (s.stream n h.toNat).arrived →
      exec (.mxpushStream q h) s = .next (row.2.scheduleOn n 1 (.shadow q.toNat row.1.1 row.1.2))
      ∧ (m ≠ 0 → exec (.mxgang q h m) s = .next ((quadCores n m.toNat).foldl
          (fun (t : State) k => t.scheduleOn k 1 (.shadow q.toNat row.1.1 row.1.2)) row.2)))
    ∧ (let base := (s.readS a).toNat
      let cnt := (s.readS c).toNat % 512
      let st0 := sextN ((s.readS c).toNat / 2 ^ 32) 32
      let stride : Int := if st0 = 0 then 128 else st0
      let s0 := s.setStream n h.toNat resetStream
      ∀ ls s1, s.homeAhead ((List.range cnt).map fun (i : Nat) => (wideAddr ((base : Int) + (i : Int) * stride), 128, 0)) = false →
        (∀ i < cnt, s.shooting (State.partOf s s.cur.ctx) (wideAddr ((base : Int) + (i : Int) * stride)) 128 = false) →
        0 < cnt → base % 128 = 0 → stride % 128 = 0 → inWindow base = false →
        streamLines ((List.range cnt).map fun (i : Nat) => wideAddr ((base : Int) + (i : Int) * stride)) s0 = .ok (ls, s1) →
        (s0.pinnedLines n).length + (distinct ls).length ≤ 256 →
        exec (.mxhed h kp a c) s = .next (((s1.touchLines ((distinct ls).filter fun l => !(looseLines s1 ls).contains l)
            false).keepWalks (10000 + n) h.toNat).setStream n h.toNat
          { opened := true, base := base, count := cnt, stride := stride, keep := kp == 1, pos := 0, arrived := 0
            asked := List.replicate (if kp = 1 then 16 else Min.min 16 cnt) s.pkg.now
            rows := ls.map (streamRow s0 (s0.ownWrites s.cur.ctx)), lines := ls, loose := looseLines s1 ls
            cold := (distinct ls).filter fun l => !s1.inL2 l, owner := s.cur.ctx }))

/-! ### Global memory (08, 12, 16) -/

/-- Global loads enter flight with the value of the issuing context's view at issue: its own writes first, else its
snapshot; the versions it returns are among what the context has read (08 R189 to R191, 12 R266, R269). -/
def Obligations.GlobalLoads : Prop :=
  ∀ (s s1 : State) (z k : BitVec 3) (d v b i : BitVec 6) (o : BitVec 10) (ps : List Piece),
    let w := sizeBytes z.toNat
    let x := s1.cur.ctx
    let lanes (q : MemOp) := ∀ p ∈ ps, ∀ e < p.n, elem 1 q.value (p.off + e) = (s1.loadByte x (p.pa + e)).toNat
    let learnt := s1.learnReads x (ps.flatMap fun p => (List.range p.n).map (p.pa + ·))
    (z ≠ 7 → s.addrOf b w o % w = 0 → s.reaches .read false [(s.addrOf b w o, w, 0)] ps s1 →
      ∃ t p, ps = [p] ∧ exec (.ldg z d b o) s = .next t ∧ OpAdded learnt t (fun q => q.home = none ∧ q.dest = d.toNat
        ∧ q.pa = p.pa ∧ q.pieces = ps ∧ q.size = z.toNat ∧ q.value = (extend z.toNat (ofBytesLE ((List.range w).map fun e =>
            s1.loadByte x (p.pa + e)))).setWidth 8192))
    ∧ (v.toNat < s.grant s.cur.ctx → s.addrOf b 128 o % 128 = 0 →
      s.reaches .read false ((List.range 8).map fun c => (s.addrOf b 128 o + 128 * c, 128, 128 * c)) ps s1 →
      ∃ t, exec (.vldg v b o) s = .next t ∧ OpAdded learnt t (fun q => q.home = none ∧ q.dest = vReg v.toNat
        ∧ q.pieces = ps ∧ q.size = 7 ∧ q.mask = BitVec.allOnes 1024 ∧ lanes q))
    ∧ (s.grants [v.toNat, i.toNat] → z = 2 ∨ z = 3 → (s.readS b).toNat % w = 0 →
      s.reaches .read true ((actives w (s.readK k.toNat)).map fun e =>
        (wideAddr ((s.readS b).toNat + w * sextN (elem w (s.readV i.toNat) e) (8 * w)), w, w * e)) ps s1 →
      ∃ t, exec (.vgath z v b i k) s = .next t ∧ OpAdded learnt t (fun q => q.home = none ∧ q.dest = vReg v.toNat
        ∧ q.pieces = ps ∧ q.size = 7 ∧ q.mask = elemMask w (ps.map fun p => p.off / w) ∧ lanes q))

/-- Global stores put their bytes in the context's store buffer, or its held buffer, in element order, so that the higher
element of two at one address stays; a bundle whose stores find too few entries free waits, with cause 12, for the private
versions that make room (08 R189 to R193, 12 R268, 17 R329, 23 R393). -/
def Obligations.GlobalStores : Prop :=
  ∀ (s s1 : State) (z k : BitVec 3) (d v b i : BitVec 6) (o : BitVec 10) (ps : List Piece),
    let w := sizeBytes z.toNat
    let bytes (p : Piece) := wordBytes (s1.readS d) p.n
    let lane (p : Piece) := laneBytes (s1.readV v.toNat) p
    (z.toNat < 4 → s.addrOf b w o % w = 0 → s.reaches .write false [(s.addrOf b w o, w, 0)] ps s1 → s1.storeRoom ps bytes →
      exec (.stg z d b o) s = .next (s1.stores ps bytes))
    ∧ (v.toNat < s.grant s.cur.ctx → s.addrOf b 128 o % 128 = 0 →
      s.reaches .write false ((List.range 8).map fun c => (s.addrOf b 128 o + 128 * c, 128, 128 * c)) ps s1 →
      s1.storeRoom ps lane → exec (.vstg v b o) s = .next (s1.stores ps lane))
    ∧ (s.grants [v.toNat, i.toNat] → z = 2 ∨ z = 3 → (s.readS b).toNat % w = 0 →
      s.reaches .write true ((actives w (s.readK k.toNat)).map fun e =>
        (wideAddr ((s.readS b).toNat + w * sextN (elem w (s.readV i.toNat) e) (8 * w)), w, w * e)) ps s1 →
      s1.storeRoom ps lane → exec (.vscat z v b i k) s = .next (s1.stores ps lane))
    ∧ (z.toNat < 4 → s.addrOf b w o % w = 0 → s.reaches .write false [(s.addrOf b w o, w, 0)] ps s1 →
      (s1.ctx s1.cur.ctx).mem.held = none →
      s1.spillWait s1.cur.ctx (ps.flatMap fun p => linesOf .buffer p.va p.pa (bytes p)) = true →
      exec (.stg z d b o) s = .next (s1.block 12))

/-- ldacq, the atomics and chunk enter flight as operations on their home; strel posts the publication of all the context has
not published, its own bytes last, at once or when it may (log entry 8). Of every global access of the M slots, loads and
stores too: a misaligned address traps 0x04, one in the window region 0x05, a failed translation 0x06 and a failed
protection 0x07, with the lowest address that fails, and for a write with 1 as information; an atomic of a page that may
not be read traps 0x07 (08 R184, R189 to R191, 12 R280, R281, 16 R323). -/
def Obligations.HomeOperations : Prop :=
  (∀ (s s1 : State) (sc : BitVec 3) (d b v : BitVec 6) (o : BitVec 10) (p : Piece),
       sc.toNat < 6 →
       let a := (s.readS b).toNat
       let enters (op : HomeOp) (q : MemOp) := q.home = some op ∧ q.scope = sc.toNat ∧ q.dest = d.toNat ∧ q.va = p.va
         ∧ q.pa = p.pa
       let atomic (i : Instr) (op : HomeOp) (w : Nat) := a % w = 0 → s.isHeld s.cur.ctx = false →
         s.reaches .write false [(a, w, 0)] [p] s1 → readable s1 p.va = true →
         ∃ t, exec i s = .next t
           ∧ OpAdded s1 t (fun q => enters op q ∧ q.operand = s1.readS v ∧ q.compare = s1.readS d)
       (s.addrOf b 8 o % 8 = 0 → s.reaches .read false [(s.addrOf b 8 o, 8, 0)] [p] s1 →
         ∃ t, exec (.ldacq sc d b o) s = .next t ∧ OpAdded s1 t (enters .acquire))
       ∧ (s.addrOf b 8 o % 8 = 0 → s.isHeld s.cur.ctx = false →
         s.reaches .write false [(s.addrOf b 8 o, 8, 0)] [p] s1 →
         s1.bufferShort s1.cur.ctx (linesOf .buffer p.va p.pa (wordBytes (s1.readS d) 8)) = false →
         (let u := (linesOf .buffer p.va p.pa (wordBytes (s1.readS d) 8)).foldl (fun (t : State) l => t.enterLine s1.cur.ctx l) s1
          let lines := (u.ctx s1.cur.ctx).mem.unpub
          let e := u.modMem s1.cur.ctx fun m => { m with unpub := [] }
          exec (.strel sc d b o) s = .next (if e.mustHold s1.cur.ctx lines then e.modMem s1.cur.ctx fun m => { m with
              pubs := m.pubs ++ [⟨sc.toNat, lines, some p.pa, true, false, .nothing, m.nextId⟩] }
            else e.publishLines s1.cur.ctx sc.toNat lines true (some p.pa))))
       ∧ (s.addrOf b 8 o % 8 = 0 → s.isHeld s.cur.ctx = false →
         s.reaches .write false [(s.addrOf b 8 o, 8, 0)] [p] s1 →
         exec (.strel sc d b o) s = .next (postPublication s1 s1.cur.ctx sc.toNat
           (linesOf .buffer p.va p.pa (wordBytes (s1.readS d) 8)) p.pa))
       ∧ atomic (.aadd d b v sc) .add 8 ∧ atomic (.amin d b v sc) .min 8 ∧ atomic (.amax d b v sc) .max 8
       ∧ atomic (.axchg d b v sc) .xchg 8 ∧ atomic (.acas d b v sc) .cas 8 ∧ atomic (.afadd d b v sc) .fadd 4
       ∧ atomic (.chunk d b v sc) .chunk 32)
  ∧ (∀ (s s1 : State) (z k sc : BitVec 3) (d v b i : BitVec 6) (o : BitVec 10) (p : Piece),
       let w := sizeBytes z.toNat
       let part := State.partOf s s.cur.ctx
       let window (r : Nat × Nat × Nat) := inWindow r.1 = true ∨ inWindow (r.1 + r.2.1 - 1) = true
       let checks (ins : Instr) (kind : Access) (each : Bool) (reqs : List (Nat × Nat × Nat)) := s.homeAhead reqs = false →
         (∀ pre r rest, each = false → reqs = pre ++ r :: rest → (∀ q ∈ pre, ¬window q) → window r →
           exec ins s = .next (s.trapHere 0x05 (Max.max r.1 windowBase) 0))
         ∧ ∀ code va, (each = true ∨ ∀ q ∈ reqs, ¬window q) → (∀ q ∈ reqs, s.shooting part q.1 q.2.1 = false) →
           placeAll kind each reqs s = .error (code, va) →
           ∃ fa, exec ins s = .next ((if code = 0x06 then s.logWalk part va else s).trapHere code fa
               (if kind = .write ∧ code ≠ 0x05 then 1 else 0))
             ∧ (fa = va % 2 ^ 64 ∨ ∃ r ∈ reqs, ∃ b, s.pieceFails kind each r.1 r.2.1 = some b ∧ fa = b % 2 ^ 64)
             ∧ fa ≤ va % 2 ^ 64 ∧ ∀ r ∈ reqs, ∀ b, s.pieceFails kind each r.1 r.2.1 = some b → fa ≤ b % 2 ^ 64
       let one (ins : Instr) (kind : Access) (a n : Nat) := (a % n ≠ 0 → exec ins s = .next (s.trapHere 0x04 a 0))
         ∧ (a % n = 0 → checks ins kind false [(a, n, 0)])
       let rows (ins : Instr) (kind : Access) := v.toNat < s.grant s.cur.ctx →
         (s.addrOf b 128 o % 128 ≠ 0 → exec ins s = .next (s.trapHere 0x04 (s.addrOf b 128 o) 0))
         ∧ (s.addrOf b 128 o % 128 = 0 →
           checks ins kind false ((List.range 8).map fun c => (s.addrOf b 128 o + 128 * c, 128, 128 * c)))
       let elems (ins : Instr) (kind : Access) := s.grants [v.toNat, i.toNat] → z = 2 ∨ z = 3 →
         ((s.readS b).toNat % w ≠ 0 → exec ins s = .next (s.trapHere 0x04 (s.readS b).toNat 0))
         ∧ ((s.readS b).toNat % w = 0 → checks ins kind true ((actives w (s.readK k.toNat)).map fun e =>
           (wideAddr ((s.readS b).toNat + w * sextN (elem w (s.readV i.toNat) e) (8 * w)), w, w * e)))
       let atomic (ins : Instr) (n : Nat) := sc.toNat < 6 → s.isHeld s.cur.ctx = false →
         one ins .write (s.readS b).toNat n
         ∧ ((s.readS b).toNat % n = 0 → s.reaches .write false [((s.readS b).toNat, n, 0)] [p] s1 → readable s1 p.va = false →
           exec ins s = .next (s1.trapHere 0x07 p.va 1))
       (z ≠ 7 → one (.ldg z d b o) .read (s.addrOf b w o) w) ∧ (z.toNat < 4 → one (.stg z d b o) .write (s.addrOf b w o) w)
       ∧ rows (.vldg v b o) .read ∧ rows (.vstg v b o) .write ∧ elems (.vgath z v b i k) .read ∧ elems (.vscat z v b i k) .write
       ∧ (sc.toNat < 6 → one (.ldacq sc d b o) .read (s.addrOf b 8 o) 8
         ∧ (s.isHeld s.cur.ctx = false → one (.strel sc d b o) .write (s.addrOf b 8 o) 8))
       ∧ atomic (.aadd d b v sc) 8 ∧ atomic (.amin d b v sc) 8 ∧ atomic (.amax d b v sc) 8 ∧ atomic (.axchg d b v sc) 8
       ∧ atomic (.acas d b v sc) 8 ∧ atomic (.afadd d b v sc) 4 ∧ atomic (.chunk d b v sc) 32)

/-! ### Slot C: control, registers, tags and barriers (02, 04, 10, 12, 14) -/

/-- Transfers: ret is jmpi through s62 without a link, its bits [23:0] reserved; the bundle that follows is PC + offset, or the one at the byte address of a register, a multiple of 64; the link,
the next bundle's byte address, lands in s62, or s[d], at issue + 1. rep, yield and trap: the count of the next bundle, the
cycles without the issue unit, and the software trap with its operand as extra information (02 R46, 04 R96, R99 to R103,
14 R290). -/
def Obligations.Transfers : Prop :=
  (∀ (s : State) (o : BitVec 24) (a d : BitVec 6),
       let goes (t : State) (target : BitVec 58) : State := { t with cur := { t.cur with target := some target } }
       let there := s.cur.pc + (BitVec.ofInt 64 (lendImm o.toNat 24 s.cur.lend)).setWidth 58
       let link := bundleAddr (s.cur.pc + 1)
       exec (.br o) s = .next (goes s there)
       ∧ exec (.call o) s = .next (goes (s.writeS 62 1 link) there)
       ∧ ((s.readS a).toNat % 64 = 0 →
         exec (.jmpi a d) s = .next (goes (s.writeS d 1 link) (BitVec.ofNat 58 ((s.readS a).toNat / 64))))
       ∧ ((s.readS a).toNat % 64 ≠ 0 → exec (.jmpi a d) s = .next (s.trapHere 0x04 (s.readS a).toNat 0))
       ∧ ((s.readS 62).toNat % 64 ≠ 0 → exec .ret s = .next (s.trapHere 0x04 (s.readS 62).toNat 0))
       ∧ ((s.readS 62).toNat % 64 = 0 →
         exec .ret s = .next (goes s (BitVec.ofNat 58 ((s.readS 62).toNat / 64))))
       ∧ exec .ret s = exec (.jmpi 62 0) s ∧ ∀ w < 2 ^ 24, decodeSlot .control (0x04 * 2 ^ 24 + w) = .op .ret)
  ∧ (∀ (s : State) (a : BitVec 6) (i : BitVec 16) (j : BitVec 18),
       let n := if a = 0 then s.cur.lend.toNat * 2 ^ 16 + i.toNat else (s.readS a).toNat % 2 ^ 24
       let k := if a = 0 then s.cur.lend.toNat * 2 ^ 18 + j.toNat else (s.readS a).toNat % 2 ^ 26
       exec (.rep a i) s = .next { s with cur := { s.cur with repNext := some n } }
       ∧ exec (.yield a j) s = .next { s with cur := { s.cur with sleep := some k } }
       ∧ exec (.trap i) s = .next (s.raise ⟨0x14, s.cur.slot, 0, BitVec.ofNat 64 i.toNat, .precise⟩))

/-- Returns: rett of a light trap clears ctl.lret[0] and goes to its address; the forms with a handle resume, skip or end
the stopped context whose place the handle names, and do nothing where it is not stopped (14 R291, R294). -/
def Obligations.Returns : Prop :=
  ∀ (s : State) (a : BitVec 6),
    let l := s.ctl s.cur.ctx 0x03E
    let h := (s.readS a).toNat
    let x := 8 * (96 * (h / 2 ^ 10 % 8) + h / 2 ^ 3 % 128) + h % 8
    let tree := s.ctl x 0x012
    (l.getLsbD 0 = true → exec .rett s = .next (jump (s.setCtl s.cur.ctx 0x03E (l &&& ~~~1#64))
        (BitVec.ofNat 58 (l.toNat / 64))))
    ∧ (a ≠ 0 → h / 2 ^ 13 % 2 ^ 11 = (s.ctl s.cur.ctx 0x000).toNat / 2 ^ 13 % 2 ^ 11 → h / 2 ^ 3 % 128 < 96 →
      ((s.ctx x).iss.phase ≠ .stopped →
        exec (.rettResume a) s = .next s ∧ exec (.rettSkip a) s = .next s ∧ exec (.rettEnd a) s = .next s)
      ∧ ((s.ctx x).iss.phase = .stopped → (s.ctx x).iss.saving = none →
        ¬(tree.getLsbD 13 = true ∧ 4 < bits tree 12 10) →
          exec (.rettResume a) s = .next (resumeStop s x false) ∧ exec (.rettSkip a) s = .next (resumeStop s x true)
          ∧ exec (.rettEnd a) s = .next (s.endTask x true)))

/-- rdctl reads any assigned register at issue + 2: clocks and counters as they stand at issue (when the debug reading of
ctl.icyc passes the issue cycle: log entry 35), ctl.ab with the tags it
shows ready joined, ctl.repc in a light trap's handler with the count that the trap found, while nothing else is written to it (log entry 68), the
rest as kept. wrctl writes the bits a register has: ctl.rm, modes 6 and 7 apart, and the plain ones
at once, ctl.fpf and ctl.symhys with the next cycle (log entry 75), ctl.repc with the next bundle (log entry 40), ctl.stray in the core, the
armed bit of ctl.drift only downwards, ctl.lpend with information 0; it traps 0x07 at a read-only register (its address and information of
0 are the model's, log entry 66); both trap 0x02 at an unassigned number (04 R104 to R106, 07 R157, R158, 14 R288, 19 R349,
23 R396). -/
def Obligations.ControlRegisters : Prop :=
  ∀ (s : State) (d a : BitVec 6) (n : BitVec 12),
    let x := s.cur.ctx
    let c := s.cur.core
    let A := s.readS a
    let num := n.toNat
    let readOnly := [0x000, 0x001, 0x002, 0x003, 0x008, 0x009, 0x00A, 0x00B, 0x00C, 0x024, 0x038, 0x039, 0x03A, 0x03B, 0x03C]
    let kept : List (Nat × BitVec 64) := [(0x011, 1), (0x012, 0x3FFF), (0x018, 7), (0x020, 0x7FFF0), (0x021, 0xFFFFFF),
      (0x022, 0xFFFF000F), (0x023, 0xFFFFFFFFFF), (0x028, 0xFFFFFFFF), (0x029, 0xFFFF), (0x031, 1),
      (0x03D, 0xFFFFFFFFFFFFFFC0), (0x03E, 0xFFFFFFFFFFFFFFC1)]
    let special := [0x010, 0x019, 0x025, 0x030, 0x032, 0x03F]
    let reads (v : BitVec 64) := exec (.rdctl d n) s = .next (s.writeS d 2 v)
    let writes (t : State) := exec (.wrctl a n) s = .next t
    c = coreOf x →
    (num = 0x008 ∨ num = 0x00B → reads (BitVec.ofNat 64 (s.cyc c)))
    ∧ (num = 0x009 → reads (BitVec.ofNat 64 (s.icyc x))) ∧ (num = 0x00A → reads (BitVec.ofNat 64 (s.ctx x).iss.dtime))
    ∧ (num = 0x00C → reads s.ptime) ∧ (num = 0x025 → reads ((s.core c).stray.setWidth 64))
    ∧ (num = 0x024 → exec (.rdctl d n) s = .next ((s.joinTags x (s.arrivals x)).writeS d 2 (s.arrivals x)))
    ∧ (num = 0x010 → reads (match (s.ctx x).trap.owed with
        | some q => if s.ctl x 0x010 = 0 then BitVec.ofNat 64 q.1 else s.ctl x 0x010
        | none => s.ctl x 0x010))
    ∧ (num ∈ [0x000, 0x001, 0x002, 0x003, 0x019, 0x030, 0x032, 0x038, 0x039, 0x03A, 0x03B, 0x03C, 0x03F]
        ++ kept.map (·.1) → reads (s.ctl x num))
    ∧ (∀ p ∈ kept, num = p.1 → (num = 0x018 → A.toNat % 8 < 6) → writes (s.setCtl x num (A &&& p.2)))
    ∧ (num = 0x018 → 6 ≤ A.toNat % 8 → writes (s.trapHere 0x02 0 s.cur.word))
    ∧ (num = 0x010 → writes (if s.cur.live = true then { s with cur := { s.cur with repSet := some (A.toNat % 2 ^ 24) } }
        else s.setCtl x 0x010 (A &&& 0xFFFFFF)))
    ∧ (num = 0x025 → writes (s.modCore c fun k => { k with stray := A.setWidth 32 }))
    ∧ (num = 0x030 → writes (s.schedule 1 0 (.ctl 0x030 (A &&& 0xFFFF))))
    ∧ (num = 0x032 → writes (s.setCtl x 0x032 (A &&& 0x1FFFFFFFF &&& (s.ctl x 0x032 ||| 0xFFFFFFFF))))
    ∧ (num = 0x03F → ∃ u, writes (u.setCtl x 0x03F (A &&& 3))
        ∧ u = s.modTrap x fun t => { t with lightInfo := if A.getLsbD 0 then 0 else t.lightInfo
                                            riskInfo := if A.getLsbD 1 then 0 else t.riskInfo })
    ∧ (num = 0x019 → ∃ ls, (∀ l, l ∈ ls ↔ l ∈ (s.core c).landings ∨ l = ⟨s.cyc c + 1, (s.core c).iss.seq, x % 8, 0,
          .ctl 0x019 (A &&& 0x1F)⟩) ∧ writes (s.modCore c fun k => { k with landings := ls }))
    ∧ (num ∈ readOnly → writes (s.trapHere 0x07 0 0))
    ∧ (num ∉ readOnly ++ kept.map (·.1) ++ special → writes (s.trapHere 0x02 0 s.cur.word)
        ∧ exec (.rdctl d n) s = .next (s.trapHere 0x02 0 s.cur.word))

/-- fence orders later accesses after earlier ones and changes nothing else; phase publishes what the context has not
published, a release at its scope, and opens a snapshot after it; trigger publishes at .pkg and then fires. A publication
that must wait (the rule, for the counter of a trigger too: log entry 8) stands last among those of the context, which goes on when it is made. phase traps
0x02 at a reserved scope, trigger 0x11 in held mode (12 R266, R271, R272, R278, R279, 16 R317, 17 R329). -/
def Obligations.Publications : Prop :=
  ∀ (s : State) (sc : BitVec 3),
    let x := s.cur.ctx
    let m := (s.ctx x).mem
    let taken := s.modMem x fun m => { m with unpub := [] }
    let waits (scope : Nat) (rel : Bool) (after : After) := taken.modMem x fun k => { k with
      pubs := m.pubs ++ [⟨scope, m.unpub, none, rel, true, after, m.nextId⟩] }
    exec .fence s = .next (s.modMem x fun m => { m with fences := m.fences + 1 })
    ∧ (sc.toNat < 6 → (s.ctx x).iss.phase ≠ .stopped →
      exec (.phase sc) s = .next (if taken.mustPost x m.unpub .snap then waits sc.toNat true .snap
        else (taken.publishLines x sc.toNat m.unpub true none).snapshot x))
    ∧ (6 ≤ sc.toNat → exec (.phase sc) s = .next (s.trapHere 0x02 0 s.cur.word))
    ∧ (s.isHeld x = false → exec .trigger s = .next (if taken.mustPost x m.unpub .trigger then waits 3 false .trigger
        else (taken.publishLines x 3 m.unpub false none).fireTrigger x))
    ∧ (s.isHeld x = true → exec .trigger s = .next (s.trapHere 0x11 0 0))

/-- Tags: waits that are met, once no event posted and no atomic of an earlier bundle of the context is still to be made (log
entry 8), join what they saw ready, open a snapshot and name the lowest tag; ffrdy never waits; tagclr clears
tags with nothing pending; tagst reads one tag; cancel asks every operation of its tag. Barriers in an X-store of the quad:
barinit arms and keeps the phase, bararr adds to the arrived sum and the count, barwait at a barrier that is met inverts the
phase and disarms it, whether it has waited or not, joins what the barrier counted and opens a snapshot; one whose phase has left the one it read first
completes, another waits; their reads correct single-bit errors. Barriers in global memory: the same as a publication at .sys
of its words on the release sequences that it reads, at once, or posted behind what the context has still to make (log entry 8) (08 R181, 10 R235, R241 to R247,
12 R265, R271). -/
def Obligations.TagsAndBarriers : Prop :=
  (∀ (s : State) (d m t : BitVec 6),
       let x := s.cur.ctx
       let seen := s.arrivals x &&& s.readS m
       let g := (s.ctx x).tags.get resetTag t.toNat
       (s.outOfTurn = false → s.readS m = 0 ∨ seen ≠ 0 → exec (.waitany d m) s =
         .next (((s.joinTags x seen).snapshot x).writeS d 1 (lowestBit seen)))
       ∧ (s.outOfTurn = false → seen = s.readS m → exec (.waitall m) s = .next ((s.joinTags x seen).snapshot x))
       ∧ (s.outOfTurn = true → (s.readS m = 0 ∨ seen ≠ 0 → exec (.waitany d m) s = .next (s.blockFor orderWait))
           ∧ (seen = s.readS m → exec (.waitall m) s = .next (s.blockFor orderWait)))
       ∧ (s.outOfTurn = false ↔ s.postedBefore x = [] ∧ s.homeOut = false)
       ∧ exec (.ffrdy d m) s = .next ((s.joinTags x seen).writeS d 2 (lowestBit seen))
       ∧ exec (.tagst d t) s = .next ((if g.ready then s.joinTag x t.toNat else s).writeS d 2 (tagWord g))
       ∧ (∃ u, exec (.tagclr m) s = .next u ∧ u = { s with ctxs := u.ctxs } ∧ (∀ y ≠ x, u.ctx y = s.ctx y)
           ∧ u.ctx x = { s.ctx x with tags := (u.ctx x).tags } ∧ ∀ k < 64, (u.ctx x).tags.get resetTag k =
           if (s.readS m).getLsbD k ∧ ((s.ctx x).tags.get resetTag k).pend = 0 then resetTag
           else (s.ctx x).tags.get resetTag k)
       ∧ exec (.cancel t) s = .next (s.modCore s.cur.core fun c => { c with engines := c.engines.map fun e =>
           { e with cancel := e.cancel || (e.ctx == x && e.tag == t.toNat) } }))
  ∧ (∀ (s : State) (b e n : BitVec 6) (c o : Nat),
       let x := s.cur.ctx
       let h := Home.store c o
       let v := s.barrierAt h
       let first := (((s.ctx x).iss.wait).bind (·.phase)).getD v.phase
       (s.readS b).toNat % 16 = 0 → placeOf s.cur.core (s.readS b).toNat 16 = .xstore c o →
       firstPoison (s.core c).st.xpoison o 16 = none →
       ∃ u, Mended s u c ∧ (s.isHeld x = false →
         exec (.barinit b e) s = .next ((u.forgetArrivals c o).setBarrier x h
           ⟨2 ^ 31 + (if v.phase then 2 ^ 30 else 0), (s.readS e).toNat % 2 ^ 32, 0⟩)
         ∧ (v.armed = true → exec (.bararr b n) s = .next (u.setBarrier x h
             { v with arrived := Min.min (v.arrived + (s.readS n).toNat % 2 ^ 32) 0xFFFFFFFF
                      w0 := barrierWord v.armed v.phase (Min.min (v.count + 1) (2 ^ 30 - 1)) }))
         ∧ (v.armed = false → ∃ u', Mended s u' c ∧ exec (.bararr b n) s = .next (u'.stray c x (s.readS b).toNat)))
       ∧ (v.phase = first → v.armed = true → v.expected ≤ v.arrived →
         (s.outOfTurn = false → exec (.barwait b) s = .next
           (((u.setBarrier x h { v with w0 := barrierWord false (!v.phase) v.count }).learn x ((u.core c).joins.get [] o)).snapshot x))
         ∧ (s.outOfTurn = true → exec (.barwait b) s = .next (u.blockFor { orderWait with phase := some v.phase })))
       ∧ (v.phase = first → v.armed = false ∨ v.arrived < v.expected →
         exec (.barwait b) s = .next (u.blockFor ⟨4, 0x0B, s.readS b, some v.phase⟩))
       ∧ (v.phase ≠ first → s.outOfTurn = false →
         exec (.barwait b) s = .next ((u.learn x ((u.core c).joins.get [] o)).snapshot x)))
  ∧ (∀ (s t : State) (b e n : BitVec 6) (q : Piece),
       let x := t.cur.ctx
       let a := (t.readS b).toNat
       let h := Home.memory q.pa
       let v := t.barrierAt h
       let first := (((t.ctx x).iss.wait).bind (·.phase)).getD v.phase
       let put (w : Barrier) : State := t.homeUpdate x 5 ((List.range 12).map fun i =>
         (q.pa + i, (bytesLE 4 w.w0 ++ bytesLE 4 w.expected ++ bytesLE 4 w.arrived).getD i 0))
       let later (after : After) : State := t.modMem x fun m => { m with
         pubs := m.pubs ++ [⟨5, [], none, false, false, after, m.nextId⟩] }
       let waits := t.behindOthers x || t.linesOff x [q.pa / 128]
       (s.readS b).toNat % 16 = 0 → placeOf s.cur.core (s.readS b).toNat 16 = .global → s.fenced s.cur.ctx = false →
       s.reaches .write false [((s.readS b).toNat, 16, 0)] [q] t → readable t (s.readS b).toNat = true →
       (s.isHeld s.cur.ctx = false →
         exec (.barinit b e) s = .next (if waits then later (.arm a q.pa ((t.readS e).toNat % 2 ^ 32))
           else put ⟨2 ^ 31 + (if v.phase then 2 ^ 30 else 0), (t.readS e).toNat % 2 ^ 32, 0⟩)
         ∧ exec (.bararr b n) s = .next (if waits then later (.arrive a q.pa ((t.readS n).toNat % 2 ^ 32))
           else if v.armed = true then put
             { v with arrived := Min.min (v.arrived + (t.readS n).toNat % 2 ^ 32) 0xFFFFFFFF
                      w0 := barrierWord v.armed v.phase (Min.min (v.count + 1) (2 ^ 30 - 1)) }
           else t.stray (coreOf x) x a))
       ∧ (x = s.cur.ctx → t.outOfTurn = false →
         (v.phase = first → v.armed = true → v.expected ≤ v.arrived →
           exec (.barwait b) s = .next (if t.linesOff s.cur.ctx [q.pa / 128] then t.blockFor (flipWait a v.phase)
             else ((put { v with w0 := barrierWord false (!v.phase) v.count }).snapshot x)))
         ∧ (v.phase ≠ first → exec (.barwait b) s = .next (t.snapshot x))
         ∧ (v.phase = first → v.armed = false ∨ v.arrived < v.expected →
           exec (.barwait b) s = .next (t.blockFor ⟨4, 0x0B, t.readS b, some v.phase⟩)))
       ∧ (t.outOfTurn = true → exec (.barwait b) s =
           .next (t.blockFor { orderWait with phase := ((t.ctx s.cur.ctx).iss.wait).bind (·.phase) })))

/-! ### Slot C: engines, rings and the card sequencer (09, 10, 21) -/

/-- Copies, chains, multicasts, load-blocks and collectives bind their tag and fork an engine operation with the data read
under the view at issue, a load-block of a bundle once the slots have run (log entry 19); a copy of no bytes completes with a sample of 0 (00 R8, 10 R232, R237, R240, R250, R254, 12 R274, 19 R344,
21 R373). -/
def Obligations.Forks : Prop :=
  ∀ (s s1 s2 : State) (d a n q t : BitVec 6) (data : List (BitVec 8)) (bad : List Nat),
    let x := s.cur.ctx
    let len := (s.readS n).toNat % 2 ^ 32
    let src := (s.readS a).toNat
    let dst := (s.readS d).toNat
    (s.mustWait x t.toNat true = false →
      (s.forkHeld = false → exec (.copych a t) s = .next (s.fork x t.toNat (.chain src) [] [] 0 0 false))
      ∧ (touchesGap s dst len = false → touchesGap s src len = false →
        (len = 0 → exec (.copy d a n t) s = .next
          (((s.bindTag x t.toNat).completeTag x t.toNat 0 0).giveSample x 4 0))
        ∧ (0 < len → s.homeAhead [(src, len, 0)] = false → s.readIssuer x src len = .ok (data, bad, s1) →
          exec (.copy d a n t) s = .next (s1.fork x t.toNat (.copy dst src len) data bad 0 0 false)))
      ∧ (∀ desc, s.isHeld x = false → s.forkHeld = false → src % 64 = 0 → inWindow src = false →
        s.readIssuer x src 64 = .ok (desc, [], s1) → (collDesc desc).valid s.pkg.number = true →
        s1.readIssuer x (collDesc desc).src ((collDesc desc).bytes s.pkg.number) = .ok (data, bad, s2) →
        exec (.coll a t) s = .next (s2.fork x t.toNat (.coll src) (desc ++ data) (bad.map (· + 64)) 0 0 false)))
    ∧ (let mask := (s.ctl x 0x022).toNat % 16
      let boff := 16 * ((s.ctl x 0x022).toNat / 2 ^ 16 % 2 ^ 16)
      src % 32 = 0 → len % 32 = 0 → src + len ≤ xstoreSize → boff ≤ 0x5FFF0 → 0 < len → mask ≠ 0 →
      s.mustWait x t.toNat true = false →
      exec (.copymc a n q t) s = .next (s.fork x t.toNat (.multicast src len mask boff (s.readS q) []) [] [] 0 0 false))
    ∧ (let c := (s.readS n).toNat
      0 < c → c ≤ 64 → src % 128 = 0 → inWindow src = false → inWindow (src + 128 * c - 1) = false →
      s.mustWait x t.toNat false = false →
      (s.cur.live = true → exec (.ldblk n a t) s = .next { s with cur := { s.cur with
        forks := s.cur.forks ++ [s.forkOp x t.toNat (.block src c) [] [] 0 0 false []] } })
      ∧ (s.cur.live = false →
        exec (.ldblk n a t) s = .next ((s.releaseBlock x t.toNat).fork x t.toNat (.block src c) [] [] 0 0 false)))

/-- Shuttle rings: subscr binds a handle to the ring its descriptor describes; slotwait names the head slot, slotpop and
slotdone move the head past it, once no publication and no atomic of an earlier bundle of the context is still to be made
(log entry 8), unsub frees a drained
ring and returns its worst status (08 R181, 10 R256 to R259). -/
def Obligations.ShuttleRings : Prop :=
  ∀ (s : State) (a p d h : BitVec 6) (r r0 : Ring),
    let x := s.cur.ctx
    let n := s.cur.core
    let da := (s.readS a).toNat
    let ra := (s.readS p).toNat
    let joined := (s.joinKey x (slotKey h.toNat (r.head % r.count))).snapshot x
    let at_ := r.base + r.head % r.count * r.ssize
    let st := (joined.core n).st
    h.toNat ≤ 15 →
    (da % 16 = 0 → ra % 64 = 0 → da + 16 ≤ xstoreSize → firstPoison (s.core n).st.xpoison da 16 = none →
      ringOf s x da ra = some r0 → r0.base + r0.count * r0.ssize ≤ (if r0.wstore then wstoreSize else xstoreSize) →
      inWindow ra = false → (s.ring n h.toNat).owner = none → s.forkHeld = false →
      ∃ u, Mended s u n ∧ exec (.subscr a p h) s = .next (u.setRing n h.toNat r0))
    ∧ (r = s.ring n h.toNat → r.owner = some x →
      (s.outOfTurn = false → Ring.atFailure r = none → Ring.usable r = true → Ring.ended r = false →
        exec (.slotwait d h) s = .next (joined.writeS d 1 (slotWord r))
        ∧ (r.output = false → exec (.slotpop h) s = .next (joined.setRing n h.toNat { r with
            head := r.head + 1, freed := r.freed.put (r.head % r.count) s.pkg.now
            poisoned := r.poisoned.filter (· ≠ r.head % r.count) }))
        ∧ (r.output = true → ∃ u, Mended joined u n ∧ exec (.slotdone h) s = .next (u.setRing n h.toNat { r with
            head := r.head + 1
            queued := r.queued ++ [((if r.wstore then st.wstore else st.xstore).read at_ r.ssize,
              badOffsets (if r.wstore then st.wpoison else st.xpoison) at_ r.ssize)] })))
      ∧ (Ring.drained r = true →
        exec (.unsub d h) s = .next ((s.freeRing n h.toNat).writeS d 1 (BitVec.ofNat 64 r.worst))))

/-- The card sequencer: seqld reads a deck as an engine, seqgo starts it at a card with the counters of a record, gang
starts it on every member of a quad's mask, seqwait ends when no deck of the context loads or runs (09 R223 to R226). -/
def Obligations.Decks : Prop :=
  ∀ (s s1 : State) (a n st m t : BitVec 6) (data : List (BitVec 8)) (bad : List Nat),
    let x := s.cur.ctx
    let c := s.cur.core
    let addr := (s.readS a).toNat
    let cards := (s.core c).seq.cards
    let cores := quadCores c ((s.readS m).toNat % 16)
    (addr % 64 = 0 → touchesGap s addr (64 * (n.toNat + 1)) = false → seqBusy s c = false →
      s.mustWait x t.toNat false = false → s.homeAhead [(addr, 64 * (n.toNat + 1), 0)] = false →
      s.readIssuer x addr (64 * (n.toNat + 1)) = .ok (data, bad, s1) →
      exec (.seqld a n t) s = .next ((s1.modCore c fun k =>
          { k with seq := { k.seq with loading := some k.nextId, loader := x, usable := false } }).fork x t.toNat
        (.deck addr (n.toNat + 1)) data bad (if bad = [] then 0 else 3) 0 false))
    ∧ (s.deckBusy x = false → s.outOfTurn = false → exec .seqwait s =
      .next (((List.range 64).foldl (fun (u : State) k => u.joinKey x (cardKey k)) s).snapshot x))
    ∧ (addr % 32 = 0 → addr + 32 ≤ xstoreSize → firstPoison (s.core c).st.xpoison addr 32 = none →
      (s.core c).seq.usable = true → st.toNat < cards.length →
      (seqBusy s c = false → exec (.seqgo a st) s = .next (startDeck s c x addr st.toNat 0 c 0 cards))
      ∧ (2 ≤ cores.length → c ∈ cores → (∀ k ∈ cores, (gangMember s k).isSome ∧ seqBusy s k = false
          ∧ firstPoison (s.core k).st.xpoison addr 32 = none) →
        exec (.gang a m st) s = .next (cores.foldl (fun (u : State) k => startDeck u k ((gangMember s k).getD x) addr st.toNat
          ((s.readS m).toNat % 16) c (16 * ((s.ctl x 0x022).toNat / 2 ^ 16 % 2 ^ 16)) cards) s)))

/-! ### Slot C: tasks, wefts, held mode and symbols (16, 17, 19, 21) -/

/-- spawn of a packet that passes its checks fills a free slot of its partition and, where it waits for nothing, queues its
task; the handle of the slot is on its way. That both happen at the issue, and not when the engine has read the packet, is log
entry 11's choice (16 R305, R309, R310, R314). -/
def Obligations.Spawn : Prop :=
  ∀ (s s1 s2 : State) (d a : BitVec 6) (head packet : List (BitVec 8)) (bad : List Nat) (i : Nat),
    let x := s.cur.ctx
    let va := (s.readS a).toNat
    let len := 32 * ((head.headD 0).toNat % 8 + 1)
    let b (j : Nat) := (packet.getD j 0).toNat
    let s3 := s2.takeReads.2.learn x s2.takeReads.1
    let p := State.partOf s3 s3.cur.ctx
    let g := s3.slotGen p i
    let filled := s3.fillSlot p i packet (packetDeps packet)
    let flies (u : State) := ∃ t, exec (.spawn d a) s = .next t ∧ OpAdded u t (fun o => o.dest = d.toNat ∧ o.size = 8
      ∧ o.home = none ∧ o.value = BitVec.ofNat 8192 (handleOf i g))
    s.isHeld x = false → va % 32 = 0 → touchesGap s va 32 = false → s.homeAhead [(va, 256, 0)] = false →
    s.readIssuer x va 1 = .ok (head, bad, s1) → touchesGap s1 va len = false →
    s1.readIssuer x va len = .ok (packet, [], s2) →
    b 0 / 8 % 16 = 0 → b 1 / 32 ≠ 7 → payloadOff (b 1 / 32) ≤ packet.length →
    packetTmpl packet < (s3.part p).ent.tmplCount → s3.freeSlot p = some i →
    (packetDeps packet ≠ 0 → flies filled)
    ∧ ∀ u, packetDeps packet = 0 → filled.queueTask p (dieOf s3.cur.core) ⟨i, g⟩ = (.queued, u) → flies u

/-- taskend leaves held mode first, as a squash or as the failure of its pair, and waits for its engine operations, spawns,
decks and rings; then it publishes all at the template's scope, at once or when it and the words it decrements may (log
entry 8), and ends: each member lowers the members still running, the last releases the successors and frees the slot, a task in held mode parks its buffer, the winner of a decision publishes
its held writes instead, and the context becomes free; a slot that has failed stays for its owner (16 R309, R316, 17 R332,
R334, R335). -/
def Obligations.TaskEnd : Prop :=
  ∀ (s : State),
    let x := s.cur.ctx
    let ends (s0 : State) :=
      let f := (s0.ringsOf x).foldl (fun (u : State) h => u.freeRing (coreOf x) h) s0
      let u := (f.joinAll x).closeUnits x
      let m := (u.ctx x).mem
      let taken := u.modMem x fun m => { m with unpub := [] }
      let done := taken.publishLines x (f.taskScope x) m.unpub false none
      (s0.unfinished x = true → exec .taskend s = .next (s0.block 4))
      ∧ (s0.unfinished x = false → taken.mustPost x m.unpub .ending = true →
        exec .taskend s = .next (taken.modMem x fun k => { k with
          pubs := m.pubs ++ [⟨f.taskScope x, m.unpub, none, false, true, .ending, m.nextId⟩] }))
      ∧ (s0.unfinished x = false → taken.mustPost x m.unpub .ending = false →
        ((done.ctx x).task = none → exec .taskend s = .next (done.freeContext x))
        ∧ ∀ t, (done.ctx x).task = some t →
          let last (v : State) : State :=
            let live := v.slotLive t.part t.slot - 1
            let w := v.slotPut t.part t.slot 3 1 live
            if live = 0 ∧ w.slotState t.part t.slot ≠ 4
            then (w.closeSlot (w.agent x) t.part t.slot (w.taskScope x)).freeContext x else w.freeContext x
          ((done.ctx x).mem.held = none → exec .taskend s = .next (last done))
          ∧ ∀ h, (done.ctx x).mem.held = some h →
            (done.slotState t.part t.slot = 4 → exec .taskend s = .next (last done))
            ∧ (done.slotState t.part t.slot ≠ 4 →
              (h.decided ≠ some true → exec .taskend s = .next (done.parkTask x t h))
              ∧ (h.decided = some true →
                let lines := withHeldLines h (done.ctx x).mem.unpub
                let v := ((done.joinHeld x).leaveHeld x).modMem x fun m => { m with unpub := [] }
                exec .taskend s = .next (if v.mustPost x lines .ending then v.modMem x fun k => { k with
                    pubs := k.pubs ++ [⟨v.taskScope x, lines, none, false, true, .ending, k.nextId⟩] }
                  else last (v.publishLines x (v.taskScope x) lines false none)))))
    ((s.ctx x).mem.held = none → ends s)
    ∧ ∀ h, (s.ctx x).mem.held = some h →
      (h.gov = .held → ends (s.squashHeld x))
      ∧ (h.gov ≠ .held → s.checkPair x = none ∨ (s.ctx x).task = none → ends s)
      ∧ ∀ t q, h.gov ≠ .held → (s.ctx x).task = some t → s.checkPair x = some q →
        ends ((s.leaveHeld x).failPair t.part (dieOf (coreOf x)) q ((s.ctl x 0x029).toNat % 2 ^ 16))

/-- decide is posted: it never waits for its effect, which comes at once, or after what its context has posted and once version
pressure holds for no line that it publishes (log entry 8): an undecided object is updated once, at .pkg, the loser is
squashed and then the winner released; a decided object is read and left alone (12 R265, R271, 17 R333, R334). -/
def Obligations.Decide : Prop :=
  ∀ (s s1 : State) (b c : BitVec 6) (q : Piece),
    let a := (s.readS b).toNat
    let x := s1.cur.ctx
    let p := State.partOf s1 x
    let w := (s1.readS c).toNat % 2
    let handle (i : Nat) := s1.mem.readNat (q.pa + 4 * i) 4
    let s2 := (s1.readHome x (bytesFrom q.pa 16) none).homeUpdate x 3
      [(q.pa + 8, (1 : BitVec 8)), (q.pa + 9, BitVec.ofNat 8 w)]
    let waits := s1.behindOthers x || s1.linesOff x ((s1.decideLines x w a q.pa).map (·.1))
    s.isHeld s.cur.ctx = false → a % 16 = 0 → s.fenced s.cur.ctx = false →
    s.reaches .write false [(a, 16, 0)] [q] s1 → readable s1 a = true → s1.poison.get (q.pa / 32) = 0 →
    exec (.decide b c) s = .next (
      if waits then s1.modMem x fun m => { m with
        pubs := m.pubs ++ [⟨5, [], none, false, false, .decide w a q.pa, m.nextId⟩] }
      else if s1.mem.get (q.pa + 8) = 1 then s1.readHome x (bytesFrom q.pa 16) none
      else decided (decided s2 p (handle (1 - w)) (loseTask p)) p (handle w) (winTask p))

/-- Stages: pkadv adds and pkset sets, never below the present stage, where it traps 0x10, and never above 0xFFFE, and
publish at the weft's scope with the stage last, a release; waitl passes when the left neighbour has come far enough, an
acquire, and opens a snapshot, once nothing that its context has posted is still to be made (log entry 8; 17 R326 to
R328). -/
def Obligations.Stages : Prop :=
  ∀ (s s1 : State) (a : BitVec 6) (i : BitVec 16) (p : Nat) (q : Piece),
    let x := s1.cur.ctx
    let v := if a = 0 then i.toNat else (s1.readS a).toNat % 2 ^ 16
    let va := stageTable s + 2 * p
    let now := stageEntry s1 q.pa
    let put (new : Nat) := postPublication s1 x (pickScope s1)
      (linesOf .buffer va q.pa (wordBytes (BitVec.ofNat 64 new) 2)) q.pa
    let enters (k : Access) := s.fenced s.cur.ctx = false ∧ s.reaches k false [(va, 2, 0)] [q] s1
      ∧ s1.poisonedByte (s1.ownWrites x) q.pa = false
    (pickIndex s = some p → s.isHeld s.cur.ctx = false → enters .write →
      exec (.pkadv a i) s = .next (put (Min.min (now + v) 0xFFFE))
      ∧ (now ≤ v → exec (.pkset a i) s = .next (put (Min.min v 0xFFFE)))
      ∧ (v < now → exec (.pkset a i) s = .next (s1.trapHere 0x10 0 (now + v * 2 ^ 16))))
    ∧ (pickIndex s = some (p + 1) → enters .read → s1.outOfTurn = false → v ≤ s1.mem.readNat q.pa 2 →
      exec (.waitl a i) s = .next ((s1.readHome x (bytesFrom q.pa 2) (some (pickScope s1))).snapshot x))
    ∧ (pickIndex s = some 0 → s.outOfTurn = false → exec (.waitl a i) s = .next (s.snapshot s.cur.ctx))
    ∧ (pickIndex s = none → exec (.pkadv a i) s = .next (s.trapHere 0x07 0 0)
        ∧ exec (.pkset a i) s = .next (s.trapHere 0x07 0 0) ∧ exec (.waitl a i) s = .next (s.trapHere 0x07 0 0))

/-- Held mode: held enters it while a buffer of the die is free, and waits otherwise; commit, when the engines and the pulls of
the mode are done, publishes the held writes with the unpublished ones and leaves it, squash drops them, and outside held
mode commit and squash do nothing; under another governor they trap 0x07. guard in the check of an open pair, once the engines of its members are done: where |r| is
within the tolerance the surrogate's parked writes and the held writes of the check's members (log entry 72) are published at
the surrogate's scope and the result is 1, else the pair fails, the exact task is queued and the result is 0; one that finds the pair's
buffers with another member's guard waits for it; outside an open pair it traps 0x07. Publications
are made at once or when they may (log entry 8) (17 R329 to R331, R335 to R337). -/
def Obligations.HeldModeAndGuard : Prop :=
  (∀ (s : State) (sc : BitVec 3) (h : HeldMode),
       let x := s.cur.ctx
       let j := s.joinHeld x
       let m := (j.ctx x).mem
       let lines := withHeldLines h m.unpub
       let taken := j.modMem x fun m => { m with unpub := [], held := some { h with lines := [] } }
       ((s.ctx x).mem.held = none →
         (s.heldUse (dieOf s.cur.core) < 24 →
           exec .held s = .next (s.modMem x fun m => { m with held := some ⟨.held, [], none⟩ }))
         ∧ (24 ≤ s.heldUse (dieOf s.cur.core) → exec .held s = .next (s.block 11))
         ∧ (sc.toNat < 6 → exec (.commit sc) s = .next s) ∧ exec .squash s = .next s)
       ∧ ((s.ctx x).mem.held = some h → exec .held s = .next s
         ∧ (h.gov = .held →
           (s.heldEngines x = [] → exec .squash s = .next (s.leaveHeld x))
           ∧ (sc.toNat < 6 → s.heldBusy x = false → exec (.commit sc) s = .next
             (if taken.mustPost x lines .commit then taken.modMem x fun k => { k with
                pubs := m.pubs ++ [⟨sc.toNat, lines, none, false, true, .commit, m.nextId⟩] }
              else (taken.publishLines x sc.toNat lines false none).leaveHeld x)))
         ∧ (h.gov ≠ .held → exec .squash s = .next (s.trapHere 0x07 0 0)
           ∧ (sc.toNat < 6 → exec (.commit sc) s = .next (s.trapHere 0x07 0 0)))))
  ∧ (∀ (s : State) (d a : BitVec 6),
       let x := s.cur.ctx
       let r := (s.readS a).toNat % 2 ^ 32
       let tol := (s.ctl x 0x028).toNat % 2 ^ 32
       let j := s.joinHeld x
       (s.checkPair x = none → exec (.guard d a) s = .next (s.trapHere 0x07 0 0))
       ∧ (∀ (q : Pair) (t : Task), s.checkPair x = some q → (s.ctx x).task = some t → (s.ctx x).mem.held = none →
         ((∃ y ∈ s.membersOf t.part t.slot, s.guardWaits y = true) → exec (.guard d a) s = .next (s.block 10))
         ∧ ((∀ y ∈ s.membersOf t.part t.slot, s.guardWaits y = false) → exec (.guard d a) s = .next (((s.unpark t.part q.surrogate).dropPair t.part q).writeS d 1 0)))
       ∧ ∀ (q : Pair) (t : Task) (h : HeldMode), s.checkPair x = some q → (s.ctx x).task = some t →
         (s.ctx x).mem.held = some h →
         let busy := (∃ y ∈ s.membersOf t.part t.slot, s.heldBusy y = true) ∨ s.heldBusy x = true
         let others := takeMembers s x t
         let lines := withHeldLines h (withHeldLines { h with lines := others.1 }
           (((s.part t.part).parked.filter (·.slot = q.surrogate)).flatMap (·.lines)))
         let taken := (others.2.joinHeld x).modMem x fun m => { m with held := some { h with lines := [] } }
         (busy → exec (.guard d a) s = .next (s.block 4))
         ∧ (¬busy → guardPasses r tol = true → exec (.guard d a) s = .next
           (if taken.mustPost x lines (.guard d.toNat) then taken.modMem x fun k => { k with
              pubs := k.pubs ++ [⟨q.scope, lines, none, false, true, .guard d.toNat, k.nextId⟩] }
            else (taken.publishLines x q.scope lines false none).passGuard x d.toNat))
         ∧ (¬busy → guardPasses r tol = false →
           exec (.guard d a) s = .next (((j.leaveHeld x).failPair t.part (dieOf s.cur.core) q
             ((s.ctl x 0x029).toNat % 2 ^ 16)).writeS d 1 0)))

/-- Symbols: symdecl reads 16 records and declares those of its mask, symrd and symgen read the state before the cut of their
bundle at issue + 2; deadline ends an open step as stepend does, discarding its slack, and opens a new one, tracked while the
die's table has room, and where its deadline has passed and it is tracked the light trap 0x16 is pending at once, but while the
watchdog has expired or an update runs there is none; stepend closes the step with the time left to its deadline, or gives 0 without one
(19 R343, R354 to R356, 21 R363, R364, R367, R370). -/
def Obligations.SymbolsAndSteps : Prop :=
  ∀ (s s1 : State) (a d : BitVec 6) (m c : BitVec 16) (k : BitVec 4) (w : BitVec 2) (block : List (BitVec 8))
    (ys : List (Nat × Symbol)),
    let x := s.cur.ctx
    let va := (s.readS a).toNat
    let mhz := (s.die (dieOf s.cur.core)).mhz
    let y := symbol s k.toNat
    let key := s.stepKey x
    let found := s.findStep key.1 key.2.1 key.2.2
    let v := match found with | some (_, q) => s.endStep key q | none => s
    let tracked := decide (((v.die (dieOf s.cur.core)).steps.filter (·.tracked)).length < 1024)
    let opened (risk : Bool) : State := v.modDie (dieOf s.cur.core) fun w => { w with steps := w.steps ++
      [{ part := key.1, slot := key.2.1, member := key.2.2, cls := c.toNat, deadline := s.readS a, startTime := v.ptime
         startCyc := v.cyc s.cur.core, icyc0 := v.icyc x, weights := 0, tracked := tracked, risk := risk }] }
    (m = 0 → exec (.symdecl a m) s = .next s)
    ∧ (m ≠ 0 → va % 16 = 0 → touchesGap s va 256 = false → s.homeAhead [(va, 256, 0)] = false →
      s.readIssuer x va 256 = .ok (block, [], s1) →
      readRecords mhz block ((List.range 16).filter fun j => m.getLsbD j) = some ys →
      ∃ t, exec (.symdecl a m) s = .next (declareNext t ys)
        ∧ OpAdded (s1.takeReads.2.learn x s1.takeReads.1) t (fun o => o.size = 9 ∧ o.home = none ∧ o.va = va))
    ∧ exec (.symrd d k w) s = .next (s.writeS d 2 (if y.src = 0 then 0 else symWord mhz y w.toNat))
    ∧ exec (.symgen d) s = .next (s.writeS d 2 (symbolsNow s).2)
    ∧ (s.cur.symsAt = none → symbolsNow s = ((s.ctx x).syms, (s.ctx x).symgen))
    ∧ (v.ptime.toNat < (s.readS a).toNat ∨ tracked = false ∨ v.governing = false →
      exec (.deadline a c) s = .next (opened false))
    ∧ ((s.readS a).toNat ≤ v.ptime.toNat → tracked = true → v.governing = true →
      ∃ t, exec (.deadline a c) s = .next t ∧ t = (opened true).pendLight x 1 0 ∧ (t.ctl x 0x03F).getLsbD 1 = true)
    ∧ (found = none → exec (.stepend d) s = .next (s.writeS d 1 0))
    ∧ ∀ die q, found = some (die, q) →
      exec (.stepend d) s = .next ((s.writeS d 1 (q.deadline - s.ptime)).endStep key q)

/-! ### Events of contexts and their accesses (02, 04, 08, 10, 12, 16) -/

/-- BUNDLE_ISSUE: a core that has not chosen in this cycle lands what is due, wakes, settles and delivers for its contexts,
and gives the unit to the selector's choice where none holds it or one of higher priority is ready. The context that has it
issues when its bundle is fetched, its stall is over, nothing it waits for before the bundle or its fetch is left, no operand is in
flight, its leaf names a tree leaf, no resource is short, nothing breaks or holds it and no slot has to wait; a stall or a
hold of the core ends the cycle with its cause. Tree bundles: every test that the shape uses reads its scalar register, the
shape and the tests select the leaf, whose next bundle is the one after this or lies at the signed offset that B0 or B1 holds
for it, and a slot commits where its path mask names the leaf; a reserved relation in a used test stops the bundle with trap
0x02 at slot 15 before any slot commits (02 R31, R32, R35, R36, R40, R41,
R49, R53, 04 R88 to R91, R94 to R96, 23 R393, R401). -/
def Obligations.BundleIssue : Prop :=
  (∀ (s u : State) (n c : Nat),
       let s0 := (s.landDue n).modCore n fun k => { k with iss := { k.iss with tried := some (s.cyc n) } }
       let xs := s0.contextsOf n
       let s1 := xs.foldl (fun (v : State) x => ((reopen ((v.wake x).enterHeld x) x).settleWinner x).deliver x) s0
       let s2 := xs.foldl (fun (v : State) x => v.rewait x) s1
       let x := 8 * n + c
       let ends (t : State) := exec (.bundleIssue n) s = .next { t.noteCauses n with cur := resetIssue }
       let above (y z : Nat) := s2.taskPriority y < s2.taskPriority z
       let has := ((s2.core n).iss.running = some c ∧ (∀ y, s2.pick n = some y → ¬above x y) ∧ u = s2)
         ∨ ((s2.core n).iss.running = none ∧ s2.pick n = some x ∧ u = s2.takeUnit n x)
         ∨ ∃ d, (s2.core n).iss.running = some d ∧ s2.pick n = some x ∧ above (8 * n + d) x
           ∧ u = ((s2.releaseUnit (8 * n + d)).modIss (8 * n + d) fun i => { i with phase := .eligible }).takeUnit n x
       ((s.die (dieOf n)).gated = true ∨ (s.core n).iss.tried = some (s.cyc n) → exec (.bundleIssue n) s = .next s)
       ∧ ((s.die (dieOf n)).gated = false → (s.core n).iss.tried ≠ some (s.cyc n) →
         ((s2.core n).iss.running = none → s2.pick n = none → ends s2)
         ∧ (c < 8 → has →
           (∀ t, u.attempt x = .issued t → ends t)
           ∧ (∀ k, u.attempt x = .stall k → ends (u.modIss x fun i => { i with cause := k }))
           ∧ (∀ k, u.attempt x = .hold k → ends (u.noteHold n x k))
           ∧ ∀ ws f leaf,
             let v := if (u.ctx x).mem.view.isNone then u.snapshot x else u
             let b := decodeBundle ws
             let g := f.startIssue x b
             let dt := g.draftOf x b
             let on := committing b leaf 0
             let plan : Plan :=
               { bundle := b, leaf := leaf, on := on, annulled := annulledOf b leaf, latch := [], full := true, dt := dt
                 next := g.leafNext x b leaf, rep := none, repSet := none, jumped := decide (leaf ≠ 0) }
             let h := g.modTrap x fun k => { k with rerun := none }
             (v.ctx x).iss.ending = false → (v.ctx x).trap.rerun = none → v.fetchWords x = .ok (ws, f) →
             (v.ctx x).iss.pred + 1 + f.stallOf x b ≤ u.cyc n → v.gate x = none → v.fetchHold x = none →
             g.pendingReg x ((usedTests b).map fun q => sReg q.reg.toNat) = none →
             g.treeLeaf x b = some leaf → g.interlock x b on true = none → g.illegalMask x b dt = 0 →
             ((g.ctl x 0x011).getLsbD 0 = true → g.inHandler x = false → g.shortfall x b on dt = none) → h.breakpoint x on = none →
             (h.runSlots b [] on).cur.retry = none → h.holdCause n b.ew b on = none →
             ends (h.issue x plan (decide (b.kind = .marker) && (g.ctx x).iss.fresh)))))
  ∧ (∀ (s : State) (x i leaf : Nat) (ws : List Nat),
       let b := decodeBundle ws
       let f (lo n : Nat) : Nat := headerOf ws / 2 ^ lo % 2 ^ n
       let shape := f 55 3
       let reg (k : Nat) : BitVec 64 := s.regS x (f (92 - 10 * k) 6)
       let rel (k : Nat) : Nat := f (88 - 10 * k) 4
       let t (k : Nat) : Prop := (rel k = 0 ∧ reg k = 0) ∨ (rel k = 1 ∧ reg k ≠ 0) ∨ (rel k = 2 ∧ (reg k).toInt < 0)
         ∨ (rel k = 3 ∧ 0 ≤ (reg k).toInt) ∨ (rel k = 4 ∧ 0 < (reg k).toInt) ∨ (rel k = 5 ∧ (reg k).toInt ≤ 0)
         ∨ (rel k = 6 ∧ (reg k).getLsbD 0 = true) ∨ (rel k = 7 ∧ (reg k).getLsbD 0 = false) ∨ rel k = 8
       let tests : Nat := if shape = 0 then 1 else if shape = 1 then 2 else if shape = 2 ∨ shape = 4 ∨ shape = 5 then 3 else 4
       let pick (k : Nat) (yes no : Nat) : Nat := if t k then yes else no
       let word : Nat := wordOf ws (if leaf ≤ 2 then 14 else 15)
       let off : Nat := word / 2 ^ (16 * ((leaf - 1) % 2)) % 2 ^ 16
       f 124 4 = 1 →
       ((∀ k < tests, rel k ≤ 8) → s.treeLeaf x b = some (
         if shape = 0 then pick 0 1 0
         else if shape = 1 then pick 0 1 (pick 1 2 0)
         else if shape = 2 then pick 0 1 (pick 1 2 (pick 2 3 0))
         else if shape = 3 then pick 0 1 (pick 1 2 (pick 2 3 (pick 3 4 0)))
         else if shape = 4 then pick 0 (pick 1 1 2) (pick 2 3 0)
         else if shape = 5 then pick 0 (pick 1 1 (pick 2 2 3)) 0
         else if shape = 6 then pick 0 (pick 1 1 2) (pick 2 3 (pick 3 4 0))
         else pick 0 (pick 1 1 (pick 2 2 3)) (pick 3 4 0)))
       ∧ ((∃ k < tests, 9 ≤ rel k) → s.treeLeaf x b = none
         ∧ ∀ u : State, (u.ctx x).mem.view ≠ none → (u.ctx x).iss.ending = false → (u.ctx x).trap.rerun = none → u.fetchWords x = .ok (ws, s) →
           (u.ctx x).iss.pred + 1 + s.stallOf x b ≤ u.cyc (coreOf x) → u.gate x = none → u.fetchHold x = none →
           let g := s.startIssue x b
           g.pendingReg x ((usedTests b).map fun q => sReg q.reg.toNat) = none → g.interlock x b [] true = none →
           g.illegalMask x b (g.draftOf x b) = 0 →
           u.attempt x = .moved (g.bundleStop x b ⟨0x02, 15, 0, 0, .bundle⟩ 0 0 none none []))
       ∧ (leaf = 0 → s.leafNext x b leaf = (s.ctx x).pc + 1)
       ∧ (1 ≤ leaf → leaf ≤ 4 → s.leafNext x b leaf =
         (s.ctx x).pc + BitVec.ofInt 58 (if off < 2 ^ 15 then (off : Int) else (off : Int) - 2 ^ 16))
       ∧ (i < 10 → leaf ≤ 4 → (i ∈ committing b leaf 0 ↔
         decodeSlot (slotClass i) (wordOf ws (4 + i)) ≠ .nop ∧ f (50 - 5 * i + leaf) 1 = 1)))

/-- Events of one context: due results land in order, a yield wakes, a wait past the ctl.bto it read stops with trap 0x17 or
0x0B, for a barrier in an X-store or in global memory, a publication, with the words that what follows it decrements, the
posted update of a barrier in global memory, or a posted decide, proceeds when what it waits for is done, and after that of a
taskend the task ends when its context is served next (log entry 8), a snapshot
that held one back too long is renewed with a record, after the bundle its context issues in this cycle and after what it has
posted; the cycles are counted from those that the model notes, of the publishing context's core (log entry 66) (02 R38, 04
R103, 10 R242, R246, 12 R265, R266, R271, 17 R334). -/
def Obligations.ContextEvents : Prop :=
  ∀ (s : State) (x n k va : Nat) (p : Pending) (ps : List Pending) (w : WaitFor) (o : Nat),
    let s0 := s.landDue (coreOf x)
    let pc := (s0.ctx x).pc
    let stops (code : Nat) (fa info : BitVec 64) := s0.takeTrap x ⟨code, 9, fa, info, .boundary⟩ (bundleAddr pc)
      (bundleAddr pc) 0 { noStop with pc := pc }
    exec (.fixedLatencyWriteback n) s = .next (s.landDue n)
    ∧ ((s.ctx x).iss.phase = .waiting → (s.ctx x).iss.sleepUntil = some k → k ≤ s.cyc (coreOf x) →
      exec (.yieldWake x) s = .next (s.modIss x fun i => { i with
        phase := .eligible, sleepUntil := none
        behind := (s.ready (coreOf x)).filter fun y => s.taskPriority y = s.taskPriority x }))
    ∧ ((timedOut s0 x 0x17).isSome = true → exec (.waitTimeout x) s = .next (stops 0x17 0 0))
    ∧ (timedOut s0 x 0x0B = some w → placeOf (coreOf x) w.addr.toNat 16 = .xstore n o →
      exec (.barrierTimeout x) s =
        .next (stops 0x0B w.addr (BitVec.ofNat 64 (s0.barrierAt (.store n o)).arrived)))
    ∧ (timedOut s0 x 0x0B = some w → placeOf (coreOf x) w.addr.toNat 16 = .global →
      s0.hwPhys (State.partOf s0 x) w.addr.toNat .read = some o →
      exec (.barrierTimeout x) s = .next (stops 0x0B w.addr (BitVec.ofNat 64 (s0.barrierAt (.memory o)).arrived)))
    ∧ ((s.ctx x).mem.pubs = p :: ps → s.homesDone x p = true →
      let t := s.modMem x fun m => { m with pubs := ps }
      let off (lines : List Nat) := s.linesOff x lines = true
      let lines := p.lines.map (·.line) ++ (s.followLines x p.after).map (·.1)
      let made := t.publishLines x p.scope p.lines p.release p.word
      ((∀ v pa q, p.after ≠ .arm v pa q ∧ p.after ≠ .arrive v pa q ∧ p.after ≠ .decide v pa q) → p.after ≠ .ending →
        exec (.publication x) s = .next (if off lines then s else made.afterPublication x p.after))
      ∧ (p.after = .ending →
        exec (.publication x) s = .next (if off lines then s else made.modIss x fun i => { i with ending := true }))
      ∧ (∀ w v pa, p.after = .decide w v pa → exec (.publication x) s = .next (
          if off ((s.decideLines x w v pa).map (·.1)) then s else decideAt t x w pa))
      ∧ (∀ v pa q, p.after = .arm v pa q → exec (.publication x) s = .next (if off [pa / 128] then s
          else t.setBarrier x (.memory pa) ⟨barrierWord true (t.barrierAt (.memory pa)).phase 0, q, 0⟩))
      ∧ ∀ v pa q, p.after = .arrive v pa q → exec (.publication x) s = .next (if off [pa / 128] then s
          else if (t.barrierAt (.memory pa)).armed = true
          then t.setBarrier x (.memory pa) ((t.barrierAt (.memory pa)).arrive q true)
          else t.stray (coreOf x) x v))
    ∧ (s.forcedLine x = some va → exec (.forcedSnapshotBoundary x) s = .next (
        let d := (s.dropSnapshot x).modTrap x fun t => { t with redo := some none }
        if s.aboutToIssue x then s
        else (if caughtUp d x then (d.modTrap x fun t => { t with redo := none }).snapshot x else d).sampleRecord
          (State.partOf s x) 4 x va (va / 2 ^ 32)))
    ∧ (s.forcedLine x = none →
      exec (.forcedSnapshotBoundary x) s = .next (s.modMem x fun m => { m with holding := s.holdingNow x }))
    ∧ ∀ e, s.forcedLine x = some e → ∃ y, y ≠ x ∧ s.holdsBack x y = some e
        ∧ ((s.ctl x 0x023).toNat % 2 ^ 40) ≠ 0
        ∧ ∃ from_, (y, from_) ∈ s.holdingNow x ∧ (s.ctl x 0x023).toNat % 2 ^ 40 < s.holdCyc x y - from_

/-- A load returns its value to its register once its lines have been served, the records of a symdecl are read and an atomic is
performed at its home as their lines are, a spawn's handle lands; an access that met poison leaves its register and defers trap 0x08 (02 R40, 08 R182, 12 R279 to R281,
16 R314, 19 R354, 22 R378, R382). -/
def Obligations.AccessEvents : Prop :=
  ∀ (s s1 : State) (n k id : Nat) (o : MemOp) (op : HomeOp),
    let x := 8 * n + k
    let s0 := s.landDue n
    let src := s0.opSource o
    let r := s1.touchLines (opLines o) false
    let h := s1.prepareHome x o op
    (s0.findOp x id = some o → s0.outLongEnough x o = true → s0.memoryTurn x id (opLines o) = (true, s1) →
      (o.home = none → o.size ≠ 8 → o.size ≠ 9 → s0.inOrder x o = true →
        (r.badByte o = none → exec (.globalLoadReturn n k id) s = .next (r.landOp x o o.value src))
        ∧ ∀ va, r.badByte o = some va → exec (.globalLoadReturn n k id) s = .next (r.failOp x o va src))
      ∧ (o.home = some op → s0.mayPerform x o = true →
        (h.homeBad x o op = none → exec (.atomicPerformed n k id) s = .next ((h.performHome x o op).2.landOp x o
          (BitVec.ofNat 8192 (h.performHome x o op).1) src))
        ∧ ∀ va, h.homeBad x o op = some va → exec (.atomicPerformed n k id) s = .next (h.failOp x o va src)))
    ∧ (s0.findOp x id = some o → s0.outLongEnough x o = true → o.home = none → o.size = 9 → s0.inOrder x o = true →
      s0.memoryTurn x id (s0.globalLines x o.va 256) = (true, s1) →
      exec (.globalLoadReturn n k id) s = .next ((s1.touchLines (s0.globalLines x o.va 256) false).dropOp x id))
    ∧ ((s0.ctx x).mem.ops.find? (fun o => o.size = 8) = some o → s0.outLongEnough x o = true →
      s0.memoryTurn x o.id (s0.globalLines x o.va o.operand.toNat) = (true, s1) →
      exec (.spawnComplete x) s = .next ((s1.touchLines (s0.globalLines x o.va o.operand.toNat) false).landOp x o o.value 0))
    ∧ ∀ (t : State) (v : BitVec 8192) (src' : Nat), ((t.ctx x).iss.phase ≠ .waiting ∨ (t.ctx x).iss.wait = none) → o.dest < 64 →
      (t.landOp x o v 0).regS x o.dest = (if o.dest = 0 then 0 else v.setWidth 64)
      ∧ (∀ r, r ≠ o.dest → (t.landOp x o v 0).regS x r = t.regS x r)
      ∧ (∀ q, q ∈ ((t.landOp x o v 0).ctx x).mem.ops ↔ q ∈ (t.ctx x).mem.ops ∧ q.id ≠ o.id)
      ∧ ∀ va r, (t.failOp x o va src').regS x r = t.regS x r

/-! ### Events of engines, rings and decks (09, 10, 11, 21) -/

/-- The ends of engine operations: a copy lands its bytes and completes its tag, a chain moves a record, a cancel is
acknowledged, a multicast lands its next piece in one of its receivers, and is over when every receiver has all of them, a
load-block fills, a deck loads, a heddle row arrives, a collective combines the parts of its group in the order of their
arrival, gathers them, broadcasts the root's or only meets, fails where a part is cancelled or differs (with the
descriptor's address: log entry 50), and lands a result in a local store at a second event, its sectors before it as they
come; the count of a landing rises with its last arrival (log entry 59); each once the memory has served its lines and no shoot-down holds its lookups (09 R216, R223, 10 R237 to R241,
R250 to R254, 11 R260, 21 R373, R375, 22 R378, R388). -/
def Obligations.EngineEvents : Prop :=
  ∀ (s s1 : State) (n id q h t : Nat) (e : EngineOp) (ts : List Nat),
    let s0 := s.landDue n
    (s0.engine n id = some e →
      (∀ dst src len u, e.kind = .copy dst src len → s0.opShot n e dst len = false → e.status ≠ 1 →
        s0.engineTurn n id (s0.engineLines e) = (true, s1) →
        let k := s1.free
        let s2 : State := { s1 with free := k + 1 }
        s2.moveOp n e dst (s2.copyBytes e.ctx k dst src e.data) e.poison = .landed u →
        exec (.copyComplete n id) s = .next (((u.chargeMove e.ctx len [(src, len), (dst, len)]).finish n e
          (if e.poison = [] then 0 else 3) 0).sampleSince e.ctx 4 e.issued))
      ∧ (∀ p r view s2, e.kind = .chain p → s0.chainRecord e p = some (r, view, s2) → s0.opShot n e p 32 = false →
        s0.opShot n e r.src r.len = false → s0.opShot n e r.dst r.len = false →
        (r.flags % 2 = 0 →
          exec (.chainRecord n id) s = .next ((s2.finish n e e.status e.fa).sampleSince e.ctx 4 e.issued))
        ∧ ∀ data bad e1 s3 s4 u, r.flags % 2 = 1 → s2.recordData e r view = .ok (data, bad, e1, s3) →
          s3.engineTurn n id (s3.globalLines e1.ctx p 32 ++ s3.globalLines e1.ctx r.src r.len) = (true, s4) →
          let k := s4.free
          let s5 : State := { s4 with free := k + 1 }
          s5.moveOp n e1 r.dst (s5.copyBytes e1.ctx k r.dst r.src data) bad = .landed u →
          exec (.chainRecord n id) s = .next ((u.chargeMove e1.ctx r.len [(r.src, r.len), (r.dst, r.len)]).afterRecord n
            (u.seeLanding e1 r.dst r.len) p r (if bad = [] then 0 else 3)))
      ∧ (e.cancel = true → exec (.cancelAcknowledge n id) s = .next (s0.acknowledge n e))
      ∧ (∀ base lines pages s2 s3, e.kind = .block base lines → s0.opShot n e base (128 * lines) = false →
        s0.translateRange n (State.partOf s0 e.ctx) base (128 * lines) .read = .ok (pages, s2) →
        let pas := (List.range lines).map fun i => physOf pages (base + 128 * i) / 128
        let slice := s2.homeSlice (pas.headD 0)
        s2.blockRoom slice pas = true → (∀ l ∈ pas, ∀ b ∈ s2.blocks, l ∉ b.pas) →
        s2.memoryTurn (8000 + n) id pas = (true, s3) → (∀ l ∈ pas, ∀ k < 4, s3.poison.get (4 * l + k) = 0) →
        exec (.loadBlockFill n id e.tag) s = .next (((s3.homeBlock ⟨slice, e.ctx, e.tag, base, lines, pas⟩).chargeMove e.ctx
          (128 * lines) [(base, 128 * lines)]).finish n e 0 0))
      ∧ (∀ (va : Nat) (peers : List PeerPart) (parts : List State.Part), e.kind = .coll va → e.status ≠ 1 →
        let c := collDesc e.data
        let own := s0.pkg.number
        let dests : List (Nat × Nat) := if c.op = 0 then [] else if c.op = 4
          then ((List.range 64).filter fun g => c.group / 2 ^ g % 2 = 1).map fun g => (c.dst + g * c.count, c.count)
          else if c.op = 5 then [(c.dst, c.count)] else [(c.dst, 4 * c.count)]
        let word (i : Nat) (p : State.Part) := ofBytesLE ((p.data.drop (4 * i)).take 4)
        let comb (a b : Nat) := if c.op = 1 then fmtF32.roundRn (exactAdd .rn (fmtF32.value a) (fmtF32.value b)).1
          else if c.op = 2 then floatPick fmtF32 true a b else (a + b) % 2 ^ 32
        let writes : List (Nat × List (BitVec 8)) := if c.op = 0 then []
          else if c.op = 4 then parts.map fun p =>
            (c.dst + p.pkg * c.count, (p.data ++ List.replicate (c.count - p.data.length) 0).take c.count)
          else if c.op = 5 then (parts.filter (·.pkg = c.root)).map fun p => (c.dst, p.data.take c.count)
          else [(c.dst, (List.range c.count).flatMap fun i =>
            bytesLE 4 ((parts.map (word i)).tail.foldl comb ((parts.map (word i)).headD 0)))]
        let skew := ((parts.map (·.arrival)).foldl Max.max 0 - e.issued) / 1000
        let pieces := (writes.map fun w => (w.1, w.2, collPoison c own e.poison w.1)) ++ [(va + 40, bytesLE 8 skew, [])]
        let landed (r : Nat × List (Nat × List (BitVec 8) × List Nat)) (u : State) : State :=
          ((u.chargeMove e.ctx (e.data.length - 64 + (dests.map (·.2)).foldl (· + ·) 0)
            ((c.src, e.data.length - 64) :: dests)).finish n e (if e.poison = [] then 0 else 3) 0).reportSkew e.ctx c.key r.1
        let lands (v : State) (r : Nat × List (Nat × List (BitVec 8) × List Nat)) := ∀ u,
          movePieces n e ((List.range r.2.length).zip r.2) v = .landed u → exec (.collComplete n id peers) s = .next (landed r u)
        let clear (v : State) := ∀ r ∈ (va, 64) :: dests, v.opShot n e r.1 r.2 = false
        (∀ r, e.result = some r → clear s0 → lands s0 r) ∧ (e.result = none →
        let spoilt (q : PeerPart) := q.cancelled = true ∨ q.op ≠ c.op ∨ q.count ≠ c.count ∨ q.group ≠ c.group
        (peers.map (·.pkg)).Nodup →
        (∀ g, g ∈ peers.map (·.pkg) ↔ g < 64 ∧ g ≠ own ∧ c.group / 2 ^ g % 2 = 1) →
        parts.Perm (⟨own, e.issued, e.data.drop 64⟩ :: peers.map fun q => ⟨q.pkg, q.arrival, q.data⟩) →
        parts.Pairwise (fun a b => a.arrival < b.arrival ∨ (a.arrival = b.arrival ∧ a.pkg < b.pkg)) →
        s0.engineTurn n id (s0.engineLines e) = (true, s1) → clear s1 →
        ((∃ q ∈ peers, spoilt q) → exec (.collComplete n id peers) s =
          .next ((dests.foldl (fun (v : State) r => v.spoilRange n e.ctx e.tag r.1 r.2 e.held) s1).finish n e 1
            (BitVec.ofNat 64 va)))
        ∧ ((∀ q ∈ peers, ¬spoilt q) →
          (landsLocal n pieces = true → exec (.collComplete n id peers) s =
            .next (s1.setEngine n { e with result := some (skew, pieces), sectors := [] }))
          ∧ (landsLocal n pieces = false → lands s1 (skew, pieces))))))
    ∧ (s.engine n id = some e → ∀ addr k, e.kind = .deck addr k → e.status = 0 →
      s.engineTurn n id (s.engineLines e) = (true, s1) →
      exec (.deckLoadComplete n id) s = .next (((s1.modCore n fun c => { c with seq := { c.seq with
        cards := (List.range k).map fun i => bytesToBits 512 ((e.data.drop (64 * i)).take 64)
        usable := true, loading := none } }).chargeMove e.ctx (64 * k) [(addr, 64 * k)]).finish n e 0 e.fa))
    ∧ (let v := s.stream n h
      let l := v.lines.getD (v.arrived % v.count) 0
      v.opened = true → v.asked = t :: ts →
      s.memoryTurn (10000 + n) h [l] (if l ∈ v.cold ∧ l ∉ v.loose then [l] else []) = (true, s1) →
      let u := (if l ∈ v.loose then s1 else s1.touchL2 l false).setStream n h { v with
        arrived := v.arrived + 1, asked := ts, cold := v.cold.filter (· ≠ l) }
      let w := (List.range 8).foldl (fun (a : State) c => a.interlockEnds (8 * n + c) (rowKey h) 0x4000 2) u
      let z := w.chargeBytes (s.streamPart n v) n 128
        (if (l ∈ v.cold ∧ l ∉ v.loose) ∨ s.channelLines [l] ≠ [] then some (128 * l) else none)
      exec (.heddleRowArrival n h) s = .next (if v.owner < 6144 then z.sampleSince v.owner 2 t else z))
    ∧ (let rc := n / 4 * 4 + q
      let m := s0.landDue rc
      ∀ base len mask boff at_ landed, m.engine n id = some e → e.kind = .multicast base len mask boff at_ landed → q < 4 →
        let l := landed.get noLanding q
        mask / 2 ^ q % 2 = 1 → l.done < len → at_.toNat ≤ m.cyc n → l.last ≠ some (m.cyc n) →
        let st := (m.core n).st
        let data := if e.data = [] then st.xstore.read base len else e.data
        let bad := if e.data = [] then badOffsets st.xpoison base len else e.poison
        let m' := if e.data = [] then m.mend n .xstore (sectorsOf base len) else m
        let piece := m'.landPiece n rc e.ctx base len boff data bad l
        let r := if Landed.over l base len = false ∧ Landed.over piece.1 base len = true ∧ piece.1.armed = some true then piece.2.countLanding e.ctx rc boff else piece.2
        let u := if piece.1.armed = some true then r.noteJoin rc boff e.knows else r
        let landed' := landed.put q piece.1
        let st' := (worse (e.status, 0) (if piece.1.refused ≠ [] then 4 else if bad ≠ [] then 3 else 0, 0)).1
        let e' : EngineOp := { e with
          kind := .multicast base len mask boff at_ landed', data := data, poison := bad, status := st' }
        let whole := ∀ k < 4, mask / 2 ^ k % 2 = 0 ∨ len ≤ (landed'.get noLanding k).done
        piece.1.done = l.done + Min.min 128 (len - l.done)
        ∧ (whole → exec (.multicastPieceLanding n id q) s = .next ((u.chargeMove e.ctx len []).finish n e' st' 0))
        ∧ (¬whole → exec (.multicastPieceLanding n id q) s = .next (u.setEngine n e')))

/-- Rings and decks: a free input slot is filled and a done output slot pulled, tile by tile, once no shoot-down holds their
lookups and the memory has served their lines; a card's steps run on every member of a gang in one cycle that is free on all of
them, a fault of one stops the deck on all, the copy requests of the members follow, and their visit ends with the counters
and transitions of each, the deck when it has ended on all (08 R197, 09 R220 to R222, R225, R228, 10 R257, R258, 22 R379,
R388). -/
def Obligations.RingAndDeckEvents : Prop :=
  ∀ (s s1 s2 : State) (n h x : Nat) (bs : List (BitVec 8)) (bad : List Nat) (q : List (BitVec 8) × List Nat)
    (qs : List (List (BitVec 8) × List Nat)) (ls : List LineWrite),
    let s0 := s.landDue n
    let r := s0.ring n h
    let j := r.moved % r.count
    let rows := tileRows r r.moved
    (r.owner = some x → r.failed = none →
      (r.read = false → s0.shooting (State.partOf s0 x) r.recAddr 64 = false →
        (r.output = false → exec (.shuttleFill n h) s = .next (s0.readRing n h x))
        ∧ (r.output = true → exec (.shuttlePull n h) s = .next (s0.readRing n h x)))
      ∧ (r.read = true → r.output = false → r.moved < r.tiles → r.moved - r.head < r.count → s0.rowsShot x h r = false →
        s0.startFill n h x = .ok (bs, bad, s1) →
        s1.memoryTurn (9000 + n) h (rows.flatMap fun va => s1.globalLines x va r.rowb) = (true, s2) →
        let v := s2.ring n h
        let k := v.moved % v.count
        let b := v.base + k * v.ssize
        exec (.shuttleFill n h) s = .next ((((s2.landSectors v.wstore n b bs bad (fillLeft v b bs.length)).setRing n h { v with
          moved := v.moved + 1, filling := none, sectors := []
          poisoned := if bad = [] then v.poisoned else v.poisoned ++ [k] }).chargeMove x bs.length
            ((tileRows v v.moved).map fun va => (va, v.rowb))).sampleSince x 5 (v.freed.get 0 k)))
      ∧ (r.read = true → r.output = true → r.moved < r.tiles → s0.rowsShot x h r = false → r.queued = q :: qs → q.2 = [] →
        r.held = false → rowLines x r q.1 [] rows 0 s0 = .ok (ls, s1) →
        s1.memoryTurn (9000 + n) h (distinct (ls.map (·.line))) = (true, s2) →
        exec (.shuttlePull n h) s = .next (((s2.landLines x (slotKey h j) false ls).setRing n h { r with
          moved := r.moved + 1, queued := qs, freed := r.freed.put j s0.pkg.now
          worst := (worse (r.worst, 0) (0, 0)).1 }).chargeMove x (r.rows * r.rowb) (rows.map fun va => (va, r.rowb)))))
    ∧ (let g := (s.gangCores n).foldl (fun (u : State) m => u.landDue m) (s.landDue n)
      let ms := g.liveCores n
      let steps := ms.filterMap fun m => if g.stepOwed m then
        (match g.stepOf m with | .step i => some (m, i) | _ => none) else none
      let free := (∀ p ∈ steps, g.stepFree p.1 p.2 = true ∧ g.rowReady p.1 p.2 = true)
        ∧ ∀ p qs, steps = p :: qs → ∀ m ∈ g.gangCores n, (∀ q ∈ steps, q.1 ≠ m) → g.stepFree m p.2 = true
      g.deckReady n = true → (∃ m ∈ ms, g.stepOwed m = true) →
      (free → ∀ u fs, emitAll (ms.filter g.stepOwed) g = (fs, u) →
        (fs = [] → exec (.cardStep n) s = .next u)
        ∧ (fs ≠ [] → exec (.cardStep n) s = .next ((if (g.seqOf n).gang = 0 then u
            else (g.gangCores n).foldl (fun (v : State) m => v.freeSteps m (g.core m).iss.seq) u).stopDeck n fs)))
      ∧ (¬free → exec (.cardStep n) s = .next g))
    ∧ (let ms := s0.liveCores n
      let need := ms.filter s0.copyOwed
      let busy := (∃ m ∈ need, s0.copyFree m = false) ∨ ∃ m ∈ s0.gangCores n, (s0.usedNow m).copy = true
      s0.deckReady n = true → (∀ m ∈ ms, s0.stepOwed m = false) → need ≠ [] →
      (busy → exec (.cardCopyRequest n) s = .next (s0.queueCopies need))
      ∧ (¬busy → s0.visitFaults ms = [] →
        exec (.cardCopyRequest n) s = .next ((need.foldl (fun (u : State) m => u.requestCopy m) s0).endVisit n))
      ∧ (¬busy → s0.visitFaults ms ≠ [] → exec (.cardCopyRequest n) s = .next (s0.stopDeck n (s0.visitFaults ms))))
    ∧ (let v := (s.landDue n).arriveDue n
      let ms := v.liveCores n
      let u := ms.foldl (fun (w : State) m => w.advance m (v.nextOf m)) v
      v.deckReady n = true → (∀ m ∈ ms, v.stepOwed m = false ∧ v.copyOwed m = false) →
      (v.visitFaults ms = [] → exec (.cardVisit n) s = .next (
        if (u.gangCores n).all fun m => (u.seqOf m).fin then u.finishDeck n else u))
      ∧ (v.visitFaults ms ≠ [] → exec (.cardVisit n) s = .next (v.stopDeck n (v.visitFaults ms))))

/-! ### Events of tasks and stream front ends (14, 16) -/

/-- A die places the head of the highest level that fits, or an aged one first, and counts the pass, in the turn at the memory of
what it reads for it (the states of slots apart: log entry 75); deferred tasks, then
ring records, refill a die with room; a context is saved and resumed; a dump stops a partition's contexts and keeps their
image (14 R295, R299, R300, 16 R311, R313). -/
def Obligations.TaskEvents : Prop :=
  ∀ (s : State) (d p x r n : Nat) (q : Queued) (qs : List Queued) (ranges : List (Nat × Nat)),
    let e := (s.part p).ent
    let served (unit : Nat) (rs : List (Nat × Nat)) (i : Instr) (effect : State → State → Prop) := ∀ v t0 t,
      s.hwReads unit p p rs = (true, v) → effect s t0 → t0 ≠ s → effect v t → exec i s = .next t
    (s.serves p d = true → (s.part p).handlers = [] → (s.die d).placedCyc ≠ some (s.die d).cyc →
      served (14000 + d) (s.headReads p d) (.dispatch d p) fun w t =>
        let cand := w.candidates p d
        let aged := cand.filter fun c => (w.part p).pass.get 0 (16 * d + c.1) = 256
        ∃ l q k cs, (if aged = [] then cand else aged).getLast? = some (l, q, some (k, cs))
          ∧ t = (((w.setLevel p d l ((w.level p d l).drop 1)).place p k cs).passOthers p d l).modDie d fun v => { v with
              placedCyc := some (w.die d).cyc })
    ∧ (e.state = 2 → s.roomFrom p 0 = some d →
      ((s.part p).deferred = q :: qs → exec (.ringRefill p) s = .next ((s.modPart p fun u => { u with
          deferred := qs, ent := { u.ent with deferred := ((qs.head?).map fun m => m.slot + 1).getD 0 } }).enqueue p d q))
      ∧ ((s.part p).deferred = [] → s.ringEmpty p = false → s.pkg.hostRefill = false →
        served 14015 [(e.ringBase + e.ringHead, 4)] (.ringRefill p) fun w t =>
          let f := (w.part p).ent
          ∃ h, w.hwNat p (f.ringBase + f.ringHead) 4 = some h ∧ w.stale p h = false ∧ w.slotState p (h % 2 ^ 20) = 2
            ∧ t = (w.modPart p fun u => { u with ent := { u.ent with
                ringHead := (f.ringHead + 8) % f.ringSize } }).enqueue p d ⟨h % 2 ^ 20, h / 2 ^ 24⟩))
    ∧ (let s0 := s.landDue (coreOf x)
      (s0.ctx x).iss.phase ≠ .free →
      ((s0.ctx x).iss.saving = none → exec (.contextSave x) s = .next (s0.beginSave x true))
      ∧ ∀ alone, (s0.ctx x).iss.saving = some alone →
        let s1 := s0.beginSave x alone
        exec (.contextSave x) s = .next (if s1.saveReady x = true then s1.endSaves x else s1))
    ∧ (∀ rec, s.recs.saves[r]? = some rec →
      let s0 := s.landDue n
      (rec.alone = true → s0.serves rec.part (dieOf rec.core) = true → s0.canTake rec.core rec = true →
        s0.placeOnCore rec.core rec = some x →
        exec (.resumption r n) s = .next (({ s0 with recs := { s0.recs with saves := s0.recs.saves.erase rec } } :
          State).resumeAt rec x))
      ∧ (rec.alone = false → exec (.resumption r n) s = .next (s0.resumeCore rec n)))
    ∧ (let xs := s.contextsIn p
      let u := xs.foldl (fun (v : State) y =>
        let v := v.landDue (coreOf y)
        if (v.ctx y).iss.phase = .stopped then v else v.stopForDump y) s
      let cores := (u.cores.map (·.1)).filter fun k => (u.part p).ent.quads.getLsbD (quadOf k)
      let w := cores.foldl (fun (v : State) k => v.fillBobbin k) u
      ∃ image, exec (.dump p ranges) s = .next { w with recs := { w.recs with dumps := w.recs.dumps ++ [image] } }
        ∧ image.part = p
        ∧ image.contexts = xs.map (fun y => w.recordOf y true 0) ++ w.recs.saves.filter (fun v => v.part = p)
        ∧ image.cores = cores.map (fun k => w.coreRecord p k 0) ++ w.recs.coreSaves.filter (fun v => v.part = p)
        ∧ image.published = ranges.map fun v => (v.1, (w.hwRead p v.1 v.2).getD []))

/-- The first packet of a front end that runs takes effect by its kind, in the turn at the memory of all that the front end then
reads: a LAUNCH starts, with a weft's stage entries at 0, then produces a task at a time, a pick of its weft on the weft's die
(log entry 27) no further ahead than the shed, or a surrogate with its check, or ends after its last; WAITSEM passes when its
condition holds; SIGSEM, with its fence flag after what FENCE waits for, sets or adds and PATCH writes, at .sys, once version
pressure lets them; REPLAY starts a graph, or finds it running and leaves its copy pending, or waits; FENCE passes when the tasks
before it have ended; a packet of any of these kinds with a reserved field set (which those are, and that those of a replay
count too: log entry 51), and at the reading of the tail a packet of a reserved kind, a TASK packet or one that cannot be read,
halts the stream; a tail is read; a replay completes, and the pending one of its graph starts (16 R318 to R321, 17 R325, R335). -/
def Obligations.StreamEvents : Prop :=
  ∀ (s : State) (f : Nat),
    let p (w : State) : Nat := (w.front f).part
    let served (rs : List (Nat × Nat)) (i : Instr) (effect : State → State → Prop) := ∀ v t0 t,
      s.hwReads (13000 + f) (p s) (p s) rs = (true, v) → effect s t0 → t0 ≠ s → effect v t → exec i s = .next t
    let head (w : State) (k : Nat) (src : Source) (bs : List (BitVec 8)) : Prop := (w.part (p w)).ent.state = 2
      ∧ (∃ rest, w.sources f = (src, .ok bs) :: rest) ∧ packetKind bs = k ∧ kindAllowed src k = true
    let goes (i : Instr) (k : Nat) (effect : Source → List (BitVec 8) → State → State → Prop) :=
      served (s.frontReads f) i fun w t => ∃ src bs, head w k src bs ∧ reservedSet bs = false ∧ effect src bs w t
    let runs (i : Instr) (k : Nat) (effect : Source → List (BitVec 8) → State → State → Prop) :=
      goes i k fun src bs w t => ∃ u, effect src bs w u ∧ t = u.consume f src bs.length
    let waits (i : Instr) (k : Nat) (until_ : Source → List (BitVec 8) → Prop) := ∀ src bs, s.sources f = [(src, .ok bs)] →
      head s k src bs → reservedSet bs = false → ¬until_ src bs → exec i s = .next s
    s.frontRuns f = true → (s.part (p s)).ent.state = 2 →
    (∀ q ∈ [(1, Instr.launchPacket f), (2, .waitsemPacket f), (3, .sigsemPacket f), (4, .patchPacket f), (5, .replayPacket f),
        (6, .fencePacket f)], served (s.frontReads f) q.2 fun w t => ∃ src bs, head w q.1 src bs ∧ reservedSet bs = true
          ∧ t = w.haltFront f 0x02)
    ∧ (let starts (src : Source) (bs : List (BitVec 8)) (w : State) (n : Nat) (l : Launch) : Prop := w.launchOf f src = none
        ∧ ∃ tm rec, pf bs 2 2 < (w.part (p w)).ent.tmplCount ∧ w.template (p w) (pf bs 2 2) = some tm
        ∧ w.frontRead (p w) ((w.part (p w)).ent.tmplBase + 32 * pf bs 2 2) 32 = .ok rec
        ∧ n = tileCount (pf bs 12 8) ∧ (n ≠ 0 → ∀ i < 3, count21 (pf bs 4 8) i + count21 (pf bs 12 8) i ≤ 2 ^ 21)
        ∧ l = { tmpl := pf bs 2 2, origin := pf bs 4 8, extent := pf bs 12 8, next := 0
                prio := if pf bs 1 1 / 16 % 2 = 1 then tm.prio else pf bs 1 1 % 16, hflag := decide (pf bs 0 1 / 128 = 1)
                kind := tm.kind
                fields := if pf bs 1 1 / 64 % 2 = 1 then (bs.drop 20).take 12 ++ tm.fields.drop 12 else tm.fields
                payload := launchPayload bs (w.paramBlock f src), weft := none }
        ∧ (l.kind = 1 ∨ l.kind = 2 → l.hflag = false) ∧ (l.kind = 1 → n ≤ 1048576)
        ∧ (l.kind = 2 → w.plainTemplate (p w) (pairFields l.fields).1 = true ∧ w.plainTemplate (p w) (pairFields l.fields).2.1 = true)
      runs (.launchPacket f) 1 (fun src bs w u => ∃ l, starts src bs w 0 l ∧ u = w)
      ∧ goes (.launchPacket f) 1 (fun src bs w t => ∃ n l, starts src bs w n l ∧ 0 < n ∧ l.kind ≠ 1 ∧ t = w.setLaunch f src l)
      ∧ goes (.launchPacket f) 1 fun src bs w t => ∃ n l id u, starts src bs w n l ∧ 0 < n ∧ l.kind = 1
        ∧ w.startWeft (p w) n l.fields = .ok (id, u) ∧ t = u.setLaunch f src { l with weft := some id })
    ∧ (let next (src : Source) (w : State) (l : Launch) : Prop := w.launchOf f src = some l ∧ l.next < tileCount l.extent
      let packet (l : Launch) := taskPacket l.prio l.tmpl (tileCoord l.origin l.extent l.next) l.hflag 0 l.payload
      runs (.launchPacket f) 1 (fun src _ w u => (∃ l, w.launchOf f src = some l ∧ tileCount l.extent ≤ l.next) ∧ u = w)
      ∧ goes (.launchPacket f) 1 (fun src _ w t => ∃ l i u, next src w l ∧ l.weft = none ∧ l.kind ≠ 2
        ∧ w.freeSlot (p w) = some i ∧ w.produce f i (packet l) = .done u
        ∧ t = (u.addTasks f src [⟨i, w.slotGen (p w) i⟩]).setLaunch f src { l with next := l.next + 1 })
      ∧ goes (.launchPacket f) 1 (fun src _ w t => ∃ l i id wf u, next src w l ∧ l.weft = some id
        ∧ (w.part (p w)).wefts.find? (fun v => v.id = id) = some wf ∧ wf.stopped = false ∧ w.freeSlot (p w) = some i
        ∧ (l.next < wf.shed ∨ l.next - wf.shed ∈ wf.ended)
        ∧ (l.next = 0 ∧ w.produce f i (packet l) = .done u
          ∨ l.next ≠ 0 ∧ ∃ d, w.weftDie (p w) wf = some d ∧ w.shareRoom (p w) d = true ∧ w.ringEmpty (p w) = true
            ∧ u = (w.fillSlot (p w) i (packet l) 0).enqueue (p w) d ⟨i, w.slotGen (p w) i⟩)
        ∧ t = ((u.setWeft (p w) { wf with live := wf.live ++ [(l.next, i)] }).addTasks f src
            [⟨i, w.slotGen (p w) i⟩]).setLaunch f src { l with next := l.next + 1 })
      ∧ goes (.launchPacket f) 1 fun src _ w t => ∃ l i j rest tm u, next src w l ∧ l.weft = none ∧ l.kind = 2
        ∧ (List.range (w.slotCount (p w))).filter (fun k => w.slotState (p w) k = 0) = i :: j :: rest
        ∧ w.template (p w) l.tmpl = some tm
        ∧ (let q := pairFields l.fields
          let c := tileCoord l.origin l.extent l.next
          let pair : Pair := { surrogate := i, check := j, scope := tm.scope, exact := q.2.1, tol := BitVec.ofNat 32 q.2.2 }
          ((w.fillSlot (p w) j (taskPacket l.prio q.1 c true 1 l.payload) 1).modPart (p w) fun r => { r with
            pairs := r.pairs ++ [pair] }).produce f i (taskPacket l.prio l.tmpl c true 0 l.payload) = .done u)
        ∧ t = (u.addTasks f src [⟨i, w.slotGen (p w) i⟩, ⟨j, w.slotGen (p w) j⟩]).setLaunch f src { l with next := l.next + 1 })
    ∧ runs (.waitsemPacket f) 2 (fun _ bs w u => pf bs 1 1 % 4 < 2 ∧ pf bs 8 8 % 8 = 0
      ∧ (∃ old, w.frontRead (p w) (pf bs 8 8) 8 = .ok old
        ∧ if pf bs 1 1 % 4 = 0 then pf bs 16 8 ≤ ofBytesLE old else ofBytesLE old = pf bs 16 8) ∧ u = w.joinView f)
    ∧ (let flag (bs : List (BitVec 8)) : Prop := pf bs 1 1 / 4 % 2 = 1
      runs (.sigsemPacket f) 3 (fun src bs w u => pf bs 1 1 % 4 < 2 ∧ pf bs 8 8 % 8 = 0 ∧ (flag bs → w.fencePasses f src = true)
        ∧ w.packetOff (p w) bs = false ∧ ∃ old, w.frontRead (p w) (pf bs 8 8) 8 = .ok old
        ∧ (State.releaseView (if pf bs 1 1 / 4 % 2 = 1 then w.joinView f else w) f).frontWrite (p w) (pf bs 8 8) (bytesLE 8
          (if pf bs 1 1 % 4 = 0 then pf bs 16 8 else (ofBytesLE old + pf bs 16 8) % 2 ^ 64)) = .ok u)
      ∧ waits (.sigsemPacket f) 3 (fun src bs => 2 ≤ pf bs 1 1 % 4 ∨ pf bs 8 8 % 8 ≠ 0
        ∨ ((flag bs → s.fencePasses f src = true) ∧ s.packetOff (p s) bs = false)))
    ∧ runs (.patchPacket f) 4 (fun _ bs w u => 0 < pf bs 16 4 ∧ pf bs 16 4 ≤ 224 ∧ 32 + pf bs 16 4 ≤ bs.length
      ∧ w.packetOff (p w) bs = false ∧ w.frontWrite (p w) (pf bs 8 8) ((bs.drop 32).take (pf bs 16 4)) = .ok u)
    ∧ (let graph (bs : List (BitVec 8)) (w : State) (h : List Nat) : Prop := pf bs 8 8 % 64 = 0 ∧ pf bs 20 4 ≤ 224
        ∧ 32 + pf bs 20 4 ≤ bs.length ∧ w.graphHeader (p w) (pf bs 8 8) = .ok h ∧ pf bs 16 4 + pf bs 20 4 ≤ h.getD 2 0
        ∧ w.packetOff (p w) bs = false
      let patched (bs : List (BitVec 8)) (w : State) (a : Nat) := w.frontWrite (p w) (a + pf bs 16 4) ((bs.drop 32).take (pf bs 20 4))
      let started (bs : List (BitVec 8)) (w u : State) (st : Nat) (pending : Bool) (b : Nat) : State :=
        (u.hwWrite (p w) (pf bs 8 8 + 32) (bytesLE 8 (gstateWord true pending (st / 4 % 2) (st / 2 ^ 32)))).modFront f fun v =>
          { v with replays := v.replays ++ [⟨pf bs 8 8, p w, 0, b, [], none, pending⟩] }
      runs (.replayPacket f) 5 (fun _ bs w u => ∃ h u1, graph bs w h ∧ h.getD 5 0 % 2 = 0
        ∧ patched bs w (blockAddr h (h.getD 5 0 / 4 % 2)) = .ok u1
        ∧ u = started bs w u1 (h.getD 5 0) false (h.getD 5 0 / 4 % 2))
      ∧ runs (.replayPacket f) 5 (fun _ bs w u => ∃ h block u1 u2, graph bs w h ∧ h.getD 5 0 % 2 = 1 ∧ h.getD 5 0 / 2 % 2 = 0
        ∧ w.frontRead (p w) (blockAddr h (h.getD 5 0 / 4 % 2)) (h.getD 2 0) = .ok block
        ∧ w.frontWrite (p w) (blockAddr h (1 - h.getD 5 0 / 4 % 2)) block = .ok u1
        ∧ u1.frontWrite (p w) (blockAddr h (1 - h.getD 5 0 / 4 % 2) + pf bs 16 4) ((bs.drop 32).take (pf bs 20 4)) = .ok u2
        ∧ u = started bs w u2 (h.getD 5 0) true (1 - h.getD 5 0 / 4 % 2))
      ∧ waits (.replayPacket f) 5 fun _ bs => ¬∃ h, graph bs s h ∧ h.getD 5 0 % 4 = 3)
    ∧ (runs (.fencePacket f) 6 (fun src _ w u => src = .stream ∧ w.fencePasses f src = true
        ∧ u = (w.modFront f fun v => { v with tasks := [] }).joinView f)
      ∧ runs (.fencePacket f) 6 (fun src _ w u => ∃ i, src = .replay i ∧ w.fencePasses f src = true
        ∧ u = (w.setReplay f i { w.replayAt f i with tasks := [] }).joinView f)
      ∧ waits (.fencePacket f) 6 fun src _ => s.fencePasses f src = true)
    ∧ (let saw (w : State) (tail : List (BitVec 8)) (t : State) : Prop :=
        w.frontRead (p w) ((w.front f).block + 16) 8 = .ok tail
        ∧ t = (w.setFront f { w.front f with tail := ofBytesLE tail }).putStatus f (if (w.front f).head < ofBytesLE tail then 0 else 2)
      let good (q : Source × Except Nat (List (BitVec 8))) : Prop := ∃ b, q.2 = .ok b ∧ kindAllowed q.1 (packetKind b) = true
      let reads := served ((s.tailSeen f).frontReads f) (.streamTailRead f)
      reads (fun w t => (∃ tail, saw w tail t) ∧ ∀ q ∈ t.sources f, good q)
      ∧ reads (fun w t => ∃ tail u pre q rest, saw w tail u ∧ u.sources f = pre ++ q :: rest ∧ (∀ k ∈ pre, good k)
        ∧ ((∃ b, q.2 = .ok b ∧ kindAllowed q.1 (packetKind b) = false ∧ t = u.haltFront f 0x02)
          ∨ ∃ c, q.2 = .error c ∧ t = u.haltFront f c)))
    ∧ ∀ i, s.completeReplay f = some i → served (s.frontReads f) (.replayComplete f) fun w t =>
      let r := w.replayAt f i
      ∃ h, w.graphHeader r.part r.graph = .ok h
        ∧ (let st := h.getD 5 0
          let ended (pend : Bool) (cur : Nat) : State := (w.hwWrite r.part (r.graph + 32)
            (bytesLE 8 (gstateWord pend false cur (st / 2 ^ 32 + 1)))).modFront f fun v => { v with
              replays := v.replays.eraseIdx i }
          (st / 2 % 2 = 0 ∧ t = ended false (st / 4 % 2))
          ∨ (st / 2 % 2 = 1 ∧ t = (ended true (1 - st / 4 % 2)).startPending r.part r.graph))

/-! ### Events of the memory system and of masters (22, 24) -/

/-- A walk reads its entries at their homes and caches them, first the leaf it may serve with acc, and dirty on a write,
set: of 2,048 entries the newest are kept (log entry 16); a shoot-down drops the entries of its range, holds lookups of it
and ends with an edit record; an edit writes an entry and is logged; a master's request within its aperture is served, a write once version pressure holds for none of its lines (log entry 8), one
outside completes with an error, any master reads the error log and the control window, which log entry 30 places at 2^52;
what a frozen master had outstanding completes with errors; the owner releases a frozen master and writes the control
window (22 R386 to R389, 24 R402 to R408). -/
def Obligations.TranslationAndMasters : Prop :=
  ∀ (s : State) (d p va len c m n off size val : Nat) (wr : Bool) (l : Leaf) (h : ShootDown) (bs : List (BitVec 8)),
    let e : BitVec 64 := l.entry ||| 0x20 ||| (if wr then 0x40 else 0)
    let es := s.walkPath d p va
    let w := s.readPath es
    let u := if e = l.entry then w else w.sysWrite l.addr (bitsToBytes 8 e)
    let key := p * 2 ^ 40 + va / 2 ^ l.size
    (s.shooting p va 1 = false → s.dieWalk d p va = some l → s.entryAllows p va (if wr then .write else .read) l = true →
      exec (.translationWalk d p va wr) s = .next ((u.modDie d fun v =>
        let kept := (keepPath s.mem p va es v.walks).filter fun w => ¬(w.1 = key ∧ w.2.1 = l.size)
        { v with walks := ((key, l.size, e) :: kept).take 2048 }).forgetWalks))
    ∧ (let t := s.dropEntries p va len
      let h0 : ShootDown :=
        ⟨p, va, len, c, 0, s.accessesIn p va len, s.enginesIn p⟩
      exec (.shootDown p va len c) s = .next { t with shoots := t.shoots ++ [h0] })
    ∧ (s.shoots[n]? = some h → s.shotDone h = true → exec (.shootDownComplete n) s =
        .next (({ s with shoots := s.shoots.eraseIdx n } : State).editRecord h.part 1 h.core h.va h.len h.stalled))
    ∧ (va % 8 = 0 → s.inTmem p va 8 = true → exec (.translationMemoryEdit c p va val) s =
        .next ((s.sysWrite va (bytesLE 8 val)).editLogged p 0 c va 8))
    ∧ ((s.master m).frozen = false → (s.master m).requests = [] → va < 2 ^ 52 → s.checkpointed va = false →
      s.readsLog va len none = false → s.inAperture m va len = true →
      (∀ t, s.memoryTurn (11000 + m) 0 (physLines va len) = (true, t) →
        (s.mayReach m va len false = true → t.mayReach m va len false = true → firstPoison t.poison va len = none →
          exec (.hostOrPeerRequest m va len none) s = .next ((t.touchLines (physLines va len) false).modMaster m fun q =>
            { q with answers := q.answers ++ [t.mem.read va len] }))
        ∧ (s.mayReach m va len true = true → s.linesOff 8000 (physLines va len) = false → t.mayReach m va len true = true → t.tmemOf va len = none →
          exec (.hostOrPeerRequest m va len (some bs)) s = .next (t.sysWrite va (bs.take len))))
      ∧ (s.mayReach m va len true = true → s.linesOff 8000 (physLines va len) = true →
        exec (.hostOrPeerRequest m va len (some bs)) s = .next (s.modMaster m fun q =>
          { q with requests := q.requests ++ [⟨va, len, some bs, false⟩] }))
      ∧ (s.mayReach m va len false = false → exec (.hostOrPeerRequest m va len none) s = .next (s.freeze m true)))
    ∧ ((s.master m).frozen = false → (s.master m).requests = [] → va < 2 ^ 52 → s.checkpointed va = false →
      s.readsLog va len none = false → 1 ≤ m → m ≤ 32 →
      (va < (s.master m).base ∨ (s.master m).base + (s.master m).size < va + len) →
      exec (.hostOrPeerRequest m va len none) s = .next (s.modMaster m fun q => { q with errors := q.errors + 1 }))
    ∧ ((s.master m).frozen = false → (s.master m).requests = [] → va < 2 ^ 52 → s.checkpointed va = false →
      s.pkg.logBase ≤ va → va + len ≤ s.pkg.logBase + s.pkg.logSize / 32 * 32 →
      exec (.hostOrPeerRequest m va len none) s = .next (s.modMaster m fun q =>
        { q with answers := q.answers ++ [(List.range len).map fun i => s.logByte (va - s.pkg.logBase + i)] }))
    ∧ (let f := (s.freeze m wr).master m
      f.frozen = true ∧ f.requests = [] ∧ f.errors = (s.master m).errors + (s.master m).requests.length + 1)
    ∧ ((s.master m).frozen = false → (s.master m).requests = [] →
        exec (.hostOrPeerRequest m (2 ^ 52 + off) len none) s =
        .next (s.modMaster m fun q => { q with answers := q.answers ++ [s.readWindow off len] }))
    ∧ (s.pkg.owner = some m → (s.master n).frozen = true → exec (.masterRelease m n) s =
        .next ((s.modMaster n fun q => { q with frozen := false }).proceed n))
    ∧ ((s.master m).frozen = false →
      (s.pkg.owner = some m → exec (.controlWindowWrite m off size val) s = .next (s.writeWindow m off (bytesLE size val)))
      ∧ (s.pkg.owner ≠ some m → exec (.controlWindowWrite m off size val) s = .next (s.freeze m false)))

/-- Channels: an interval adds one owed refresh, a bank refreshes when nothing waits for it, nine owed block the channel, a
temperature sets the next rate and the cap; a scrub reads its next line (log entry 71), poisons and logs what it cannot
correct, and is charged to the house account; the bobbin generator pushes one word a cycle, or pauses 4,096 cycles after a
health failure; the codes and sources of the records of a temperature and of a health failure are log entry 45's (07 R159,
21 R375, 22 R378 to R390). -/
def Obligations.MemoryEvents : Prop :=
  ∀ (s : State) (ch temp line d n t : Nat) (k : BitVec 2),
    let c := s.channel ch
    let code := tempCode c.temp temp
    let q := s.core n
    (c.interval + refreshTime c.rate ≤ s.pkg.now → exec (.refreshInterval ch) s = .next ((s.setChannel ch { c with
        owed := Min.min (c.owed + 1) 9, rate := c.newRate, interval := c.interval + refreshTime c.rate }).drainBacks ch))
    ∧ (s.mayRefreshBank ch = true → exec (.perBankRefresh ch) s = .next (s.setChannel ch { c with
        busy := (c.next, s.pkg.now + perBankTime) :: s.refreshing ch, next := (c.next + 1) % 32, owed := c.owed - 1 }))
    ∧ (c.owed = 9 → c.blocked ≤ s.pkg.now → exec (.allBankRefresh ch) s = .next (s.setChannel ch { c with
        blocked := s.pkg.now + allBankTime, owed := 0, abr := Min.min (c.abr + 1) (2 ^ 32 - 1) }))
    ∧ (c.tempAt / 100000000 < s.pkg.now / 100000000 → ∃ u, exec (.temperatureRead ch temp) s = .next u
        ∧ u = (if code = 4 ∧ c.temp ≠ 4 then State.log else fun v _ _ _ _ => v) (s.setChannel ch { c with
          temp := code, newRate := Min.min code 2, cap := code - 1, tempAt := s.pkg.now }) ch 0 0 0)
    ∧ (c.cap ≠ 3 → c.scrub / 2000000 < s.pkg.now / 2000000 → line = s.patrolLine ch →
      let bad : State := { s with poison := s.poison.set (4 * line + k.toNat) 1 }
      exec (.patrolScrub ch line (.uncorrectable k)) s =
        .next (((bad.log ch 0x08 0 (128 * line + 32 * k.toNat)).charge 32 (8 + ch / 32) 0 128).setChannel ch { c with
          scrub := s.pkg.now, scrubPos := (c.scrubPos + 1) % 2 ^ 24 }))
    ∧ ((s.die d).gated = false → (s.die d).sliceScrub / 4096 < (s.die d).cyc / 4096 → s.sliceLine d = some line →
      let bad : State := { s with poison := s.poison.set (4 * line + k.toNat) 1 }
      exec (.sliceScrub d line (.uncorrectable k)) s =
        .next (((bad.log d 0x08 0 (128 * line + 32 * k.toNat)).charge 32 d 0 128).modDie d fun v => { v with
          scrubPos := (v.scrubPos + 1) % (48 * 8192)
          sliceScrub := if (v.scrubPos + 1) % 48 = 0 then v.cyc else v.sliceScrub }))
    ∧ ((s.die (dieOf n)).gated = false → q.bobbinCyc < s.cyc n → q.bobbinPause = none → q.bobbin.length < 64 →
      exec (.bobbinPush n) s = .next (s.modCore n fun v => { v with
        bobbin := v.bobbin ++ [Config.bobbinWord n v.drawn], drawn := v.drawn + 1, bobbinCyc := v.bobbinCyc + 1 }))
    ∧ exec (.bobbinHealthFailure n) s = .next (((s.fillBobbin n).modCore n fun v =>
        { v with bobbinPause := some (s.cyc n + 4096) }).log n 0 0 0)
    ∧ (q.bobbinPause = some t → t ≤ s.cyc n → exec (.bobbinPauseEnd n) s = .next ((s.fillBobbin n).modCore n fun v =>
        { v with bobbinPause := none }))

/-! ### Events of clocks, supplies and power (21) -/

/-- The governor's epoch divides the energy measured of each die, of each stack and of the rest of the package, and chooses profiles and entries; a clock changes
within its caps; in host-assisted mode the host chooses entry, profile and slew; a step at risk raises light trap 0x16 once
(21 R359, R361, R362, R366 to R369, R375). -/
def Obligations.ClockEvents : Prop :=
  ∀ (s : State) (d i k x t : Nat) (e : EpochChoice) (compute memory : List Nat) (q : StepEntry),
    (let s1 := (s.divideEnergy (compute ++ memory)).noteSafe
      let s2 : State := { s1 with pkg := { s1.pkg with epoch := s1.pkg.epoch + 1, epochAt := s1.pkg.now } }
      (s.pkg.epoch + 1) * 100000000 ≤ s.pkg.now → compute.length = 8 → memory.length = 13 →
      exec (.governorEpoch compute memory) s = .next (s2.grantAll.govern))
    ∧ (s.governing = true → s.mayClock d i = true → capped s d i = true →
      (s.pkg.hostGovernor = false → exec (.clockChange d i) s = .next (s.setClock d i))
      ∧ (s.pkg.hostGovernor = true → e.entry = i → 64 ≤ e.profile → e.profile ≤ 16320 → e.slew ≤ 16320 →
        exec (.hostEntryChoice d e) s = .next ((s.setClock d i).setProfiles d e.profile fun _ => e.slew)))
    ∧ ((s.entryAt d i).fmhz ≤ (s.die d).mhz ∨ s.withinCaps [] d i = true → capped s d i = true)
    ∧ ((s.die d).pauseEnd = some t → t ≤ (s.die d).cyc →
      exec (.clockSwitchPauseEnd d) s = .next (s.modDie d fun v => { v with pauseEnd := none }))
    ∧ ((s.die d).steps[k]? = some q → s.stepCtx q = some x → s.atRisk d q = true → exec (.deadlineRisk d k) s =
      .next ((s.modDie d fun v => { v with steps := v.steps.set k { q with risk := true } }).pendLight x 1
        (BitVec.ofNat 64 (Min.min (q.deadline.toNat - s.ptime.toNat) (2 ^ 32 - 1)))))

/-- Supplies fall by 5 mV while there is margin and rise by 5 mV on an alarm, and no clock takes them out of 420 to 950 mV; a column's limit starts and ends its damping;
ballast fills an idle cycle; the watchdog, a trip and its recovery keep the hardware's own limits (21 R360, R361, R368,
R370). -/
def Obligations.PowerEvents : Prop :=
  ∀ (s : State) (d col n i : Nat),
    let v := s.die d
    let e := s.entryAt d v.entry
    let top := Min.min e.vmax 950
    (v.gated = false → s.governing = true → col < 12 →
      (v.trimAt.get 0 col + (if e.nt then 40000000 else 10000000) ≤ s.pkg.now →
        exec (.columnTrimTick d col) s = .next (s.setDie d { v with
          supply := v.supply.put col (Max.max (Max.max e.vmin 420) (s.supplyOf d col - 5))
          trimAt := v.trimAt.put col s.pkg.now }))
      ∧ (s.supplyOf d col < top → exec (.marginAlarm d col) s = .next (s.setDie d { v with
          supply := v.supply.put col (Min.min top (s.supplyOf d col + 5)) })))
    ∧ (∀ c < 12, 420 ≤ (s.setClock d i).supplyOf d c ∧ (s.setClock d i).supplyOf d c ≤ 950)
    ∧ exec (.currentLimit d col) s =
        .next (s.modDie d fun u => { u with limited := u.limited.put col true, disturbed := true })
    ∧ exec (.currentBelowLimit d col) s = .next (s.modDie d fun u => { u with limited := u.limited.put col false })
    ∧ (s.ballastWeight n ≠ 0 → exec (.ballastBundle n) s = .next ((s.modCore n fun c => { c with iss := { c.iss with
        ballastCyc := some (s.cyc n), weights := c.iss.weights ++ [(s.cyc n, s.ballastWeight n)] } }).chargeWeight 32 (dieOf n)
          (s.ballastWeight n)))
    ∧ exec .watchdogExpiry s = .next ({ s with pkg := { s.pkg with watchdog := true } } : State).holdLimits
    ∧ (let s1 := s.modDie d fun u => { u with tripped := true, disturbed := true }
      (s1.usableEntries d).head? = some i → v.gated = false → exec (.thermalTrip d) s = .next (s1.force d i))
    ∧ (let s1 := s.modDie d fun u => { u with tripped := false }
      v.tripped = true →
      (s1.governing = true → exec (.thermalRecovery d) s = .next s1.govern)
      ∧ (s1.governing = false → v.gated = false →
        exec (.thermalRecovery d) s = .next (s1.force d (s1.die d).lastSafe)))

/-- Dies: a die gates once nothing runs on it, ungates 20 µs after it is asked, at its lowest entry if it has tripped and at
its last safe one where the governor does not govern, with the profiles of that entry; a partition shrinks off a die, its
queues move and its contexts are saved with their cores, and it grows back once they are (log entry 4) (01 R14, R20,
21 R370 to R372). -/
def Obligations.DieEvents : Prop :=
  ∀ (s : State) (d p t : Nat),
    (s.mayGate d = true → ∃ u, exec (.dieGate d) s = .next u ∧ (u.die d).gated = true ∧ (u.die d).ungateAt = none
      ∧ (u.die d).drained = (s.die d).cyc ∧ (∀ x, u.ctx x = s.ctx x) ∧ u.mem = s.mem)
    ∧ ((s.die d).gated = true → (s.die d).ungateAt = none → exec (.dieUngate d) s =
      .next (s.modDie d fun v => { v with ungateAt := some (s.pkg.now + 20000000) }))
    ∧ (let s1 := (s.modDie d fun v => { v with gated := false, ungateAt := none }).rehash
      let profiled (u : State) := u.grantProfiles d (u.entryAt d (u.die d).entry)
      (s.die d).ungateAt = some t → t ≤ s.pkg.now →
      ((s1.die d).tripped = true → exec (.ungateComplete d) s = .next (profiled (s1.toLowest d)))
      ∧ ((s1.die d).tripped = false →
        (s1.governing = true → exec (.ungateComplete d) s = .next (profiled s1))
        ∧ (s1.governing = false → exec (.ungateComplete d) s = .next (profiled (s1.force d (s1.die d).lastSafe)))))
    ∧ (∀ req, mayShrink s req p = true → d ∈ s.partDies p → 2 ≤ (s.partDies p).length →
      exec (.shrink ⟨req, p⟩ d) s = .next
        (((s.modPart p fun q => { q with shrunk := d :: q.shrunk }).requeue p d).saveCores p fun e => decide (e = d)))
    ∧ (let away := d ∉ (s.part p).shrunk ∨ ∀ x ∈ s.contextsIn p, dieOf (coreOf x) ≠ d
      let s1 := s.modPart p fun q => { q with shrunk := q.shrunk.filter (· ≠ d) }
      (¬away → exec (.grow p d) s = .next s)
      ∧ (away → (s1.die d).gated = false → exec (.grow p d) s = .next s1)
      ∧ (away → (s1.die d).gated = true → (s1.die d).ungateAt = none → exec (.grow p d) s =
        .next (s1.modDie d fun v => { v with ungateAt := some (s.pkg.now + 20000000) })))

/-! ### Boot, owners, partitions, traces and firmware (23, 24) -/

/-- A package reset leaves every unit at its reset value, opens claims and extends the chain; a claim wins while claims are
open; the owner offers its ownership for a second; a target accepts; a lapse opens claims; the owner starts and stops a
partition, and one that may not start stays as it is with an error. That a package reset leaves the bytes of memory is log
entry 32's choice, the reset values that the spec does not give are log entry 1's, and the 64 bytes of an image's hash in
the chain log entry 74's; that a refused start adds an error to its master is log entry 44's reading (24 R403 to R409). -/
def Obligations.OwnerEvents : Prop :=
  ∀ (s : State) (images : List Nat) (m heir t p : Nat),
    let e := (s.part p).ent
    let written (v : BitVec 8) := e.ofImage (patchBytes e.image 0 [v])
    let kept (w : PartEntry) : Prop := w.quads = e.quads ∧ w.groups = e.groups ∧ w.fronts = e.fronts
    let stopped := (s.stopPart p).setEntry p (written 1)
    (∃ u, exec (.packageReset 0 images) s = .next u ∧ u.ctxs = [] ∧ (images = [] → u.dies = [])
      ∧ (∀ d, (u.die d).gated = false ∧ (u.die d).steps = [] ∧ (u.die d).walks = []) ∧ u.channels = [] ∧ u.parts = []
      ∧ u.fronts = [] ∧ u.masters = [] ∧ u.versions = [] ∧ u.mem = s.mem ∧ u.pkg.open_ = true ∧ u.pkg.owner = none
      ∧ u.pkg.firmware = images ∧ u.pkg.chain = images.foldl chainLink 0)
    ∧ (s.pkg.owner = none → s.pkg.open_ = true → exec (.ownershipClaim m true) s =
      .next { s with pkg := { s.pkg with
        owner := some m, ownerSince := s.pkg.now / 1000000000 + 1, open_ := false, target := none } })
    ∧ (s.pkg.owner = some m → exec (.ownerHandover m heir) s =
      .next { s with pkg := { s.pkg with target := some (heir, s.pkg.now + 1000000000000) } })
    ∧ (s.pkg.target = some (m, t) →
      (s.pkg.now ≤ t → exec (.handoverAcceptance m) s =
        .next { s with pkg := { s.pkg with owner := some m, ownerSince := 0, target := none } })
      ∧ (t < s.pkg.now → exec .handoverTimeout s = .next { s with pkg := { s.pkg with target := none } }))
    ∧ (s.pkg.owner = some m → exec .ownershipLapse s =
      .next { s with pkg := { s.pkg with owner := none, open_ := true, target := none } })
    ∧ (s.pkg.owner = some m → (s.master m).frozen = false → p < 32 →
      (kept (written 2) → e.state = 1 →
        (startable (written 2) = true →
          exec (.partitionStart m p) s = .next ((s.setEntry p (written 2)).startPart p))
        ∧ (startable (written 2) = false →
          exec (.partitionStart m p) s = .next (s.modMaster m fun q => { q with errors := q.errors + 1 })))
      ∧ (kept (written 1) → e.state = 2 → stopped.pkg.hostRefill = false →
        exec (.partitionStop m p) s = .next stopped))

/-- The owner starts and stops a die's trace unit, which stops after its trigger's count; an attestation signs the attested
state; a checkpoint stops a partition, one that the owner has started meanwhile anew, and ends when its contexts are saved; a
firmware update keeps the limits while it runs, in host-assisted mode of the image that the host has pushed. That a verified
image joins the list and leaves the chain is log entry 55's choice, and the tables it loads are log entry 3's (21 R370,
23 R391, 24 R410 to R412). -/
def Obligations.TraceAndFirmware : Prop :=
  ∀ (s : State) (m d word nonce p image : Nat) (valid : Bool),
    let w := (word ||| 0x80) % 2 ^ 28
    let stop := (s.die d).traceWord &&& ~~~0x80#64
    let pushed : Prop := s.pkg.hostUpdate = true → s.pkg.pushed = some image
    (s.pkg.owner = some m → (s.master m).frozen = false → d < 8 →
      (w % 128 < 96 → (∃ q ∈ s.parts, q.2.ent.quads.getLsbD (24 * d + w % 128 / 4) = true) →
        exec (.traceStart m d word) s = .next (s.modDie d fun v => { v with
          traceWord := BitVec.ofNat 64 w, traceLeft := none }))
      ∧ exec (.traceStop m d) s = .next (s.modDie d fun v => { v with
          traceWord := BitVec.ofNat 64 (stop.toNat % 2 ^ 28), traceLeft := none }))
    ∧ ((s.die d).traceLeft = some 0 → exec (.tracePostExpiry d) s = .next (s.modDie d fun v => { v with
        traceWord := v.traceWord &&& ~~~0x80, traceLeft := none }))
    ∧ exec (.attestation nonce) s = .next { s with recs := { s.recs with
        answers := s.recs.answers ++ [Config.signature nonce s.attested] } }
    ∧ (p ∉ s.pkg.checkpoints → s.pkg.hostCheckpoint = false → (s.part p).ent.state = 2 → exec (.checkpoint p) s =
        .next { s.stopPart p with pkg := { (s.stopPart p).pkg with
          checkpoints := (s.stopPart p).pkg.checkpoints ++ [p] } })
    ∧ (p ∈ s.pkg.checkpoints →
      ((s.part p).ent.state = 2 → exec (.checkpoint p) s = .next (s.stopPart p))
      ∧ ((s.part p).ent.state ≠ 2 → s.partBusy p = true → exec (.checkpoint p) s = .next s)
      ∧ ((s.part p).ent.state ≠ 2 → s.partBusy p = false → exec (.checkpoint p) s = .next (s.endCheckpoint p)))
    ∧ (s.pkg.hostUpdate = true → s.pkg.pushed ≠ some image → exec (.firmwareUpdate image valid) s = .next s)
    ∧ (pushed → s.pkg.updating = false → exec (.firmwareUpdate image valid) s =
        .next ({ s with pkg := { s.pkg with updating := true } } : State).holdLimits)
    ∧ (pushed → s.pkg.updating = true →
      (valid = true → exec (.firmwareUpdate image valid) s = .next (({ s with pkg := { s.pkg with
        updating := false, pushed := none, firmware := s.pkg.firmware ++ [image] } } : State).loadTables image))
      ∧ (valid = false → exec (.firmwareUpdate image valid) s =
        .next { s with pkg := { s.pkg with updating := false, pushed := none } }))
end

