-- ==== Sys2Proof/Laws/State.lean ====
section
/-! SUPPORT. What each update of the state leaves alone, and what a table gives back: true by computation, for `simp`. -/

namespace Sys2Proof

/-! ### Tables -/

@[simp] theorem Tab.get_put_same {α : Type} (d : α) (t : Tab α) (k : Nat) (a : α) : (t.put k a).get d k = a := by
  induction t with
  | nil => simp [Tab.put, Tab.get]
  | cons h t ih =>
    obtain ⟨j, b⟩ := h
    by_cases h1 : k < j
    · simp [Tab.put, Tab.get, h1]
    · by_cases h2 : j = k
      · simp [Tab.put, Tab.get, h2]
      · simp [Tab.put, Tab.get, h1, h2, ih]

theorem Tab.get_put_other {α : Type} (d : α) (t : Tab α) (k j : Nat) (a : α) (h : j ≠ k) :
    (t.put k a).get d j = t.get d j := by
  induction t with
  | nil => simp [Tab.put, Tab.get, Ne.symm h]
  | cons hd t ih =>
    obtain ⟨i, b⟩ := hd
    by_cases h1 : k < i
    · simp [Tab.put, Tab.get, h1, Ne.symm h]
    · by_cases h2 : i = k
      · subst h2; simp [Tab.put, Tab.get, Ne.symm h]
      · by_cases h3 : i = j
        · subst h3; simp [Tab.put, Tab.get, h1, h2]
        · simp [Tab.put, Tab.get, h1, h2, h3, ih]

namespace Machine.State

/-! ### Units -/

@[simp] theorem setCtx_pkg (s : State) (x : Nat) (c : Ctx) : (s.setCtx x c).pkg = s.pkg := rfl
@[simp] theorem setCtx_recs (s : State) (x : Nat) (c : Ctx) : (s.setCtx x c).recs = s.recs := rfl
@[simp] theorem setCtx_cores (s : State) (x : Nat) (c : Ctx) : (s.setCtx x c).cores = s.cores := rfl
@[simp] theorem setCtx_dies (s : State) (x : Nat) (c : Ctx) : (s.setCtx x c).dies = s.dies := rfl
@[simp] theorem setCtx_channels (s : State) (x : Nat) (c : Ctx) : (s.setCtx x c).channels = s.channels := rfl
@[simp] theorem setCtx_parts (s : State) (x : Nat) (c : Ctx) : (s.setCtx x c).parts = s.parts := rfl
@[simp] theorem setCtx_fronts (s : State) (x : Nat) (c : Ctx) : (s.setCtx x c).fronts = s.fronts := rfl
@[simp] theorem setCtx_masters (s : State) (x : Nat) (c : Ctx) : (s.setCtx x c).masters = s.masters := rfl
@[simp] theorem setCtx_mem (s : State) (x : Nat) (c : Ctx) : (s.setCtx x c).mem = s.mem := rfl
@[simp] theorem setCtx_poison (s : State) (x : Nat) (c : Ctx) : (s.setCtx x c).poison = s.poison := rfl
@[simp] theorem setCtx_versions (s : State) (x : Nat) (c : Ctx) : (s.setCtx x c).versions = s.versions := rfl
@[simp] theorem setCtx_blocks (s : State) (x : Nat) (c : Ctx) : (s.setCtx x c).blocks = s.blocks := rfl
@[simp] theorem setCtx_near (s : State) (x : Nat) (c : Ctx) : (s.setCtx x c).near = s.near := rfl
@[simp] theorem setCtx_l2 (s : State) (x : Nat) (c : Ctx) : (s.setCtx x c).l2 = s.l2 := rfl
@[simp] theorem setCtx_nearCache (s : State) (x : Nat) (c : Ctx) : (s.setCtx x c).nearCache = s.nearCache := rfl
@[simp] theorem setCtx_shoots (s : State) (x : Nat) (c : Ctx) : (s.setCtx x c).shoots = s.shoots := rfl
@[simp] theorem setCtx_cur (s : State) (x : Nat) (c : Ctx) : (s.setCtx x c).cur = s.cur := rfl
@[simp] theorem setCtx_agenda (s : State) (x : Nat) (c : Ctx) : (s.setCtx x c).agenda = s.agenda := rfl
@[simp] theorem setCtx_free (s : State) (x : Nat) (c : Ctx) : (s.setCtx x c).free = s.free := rfl

@[simp] theorem setCore_pkg (s : State) (n : Nat) (c : Core) : (s.setCore n c).pkg = s.pkg := rfl
@[simp] theorem setCore_recs (s : State) (n : Nat) (c : Core) : (s.setCore n c).recs = s.recs := rfl
@[simp] theorem setCore_ctxs (s : State) (n : Nat) (c : Core) : (s.setCore n c).ctxs = s.ctxs := rfl
@[simp] theorem setCore_dies (s : State) (n : Nat) (c : Core) : (s.setCore n c).dies = s.dies := rfl
@[simp] theorem setCore_channels (s : State) (n : Nat) (c : Core) : (s.setCore n c).channels = s.channels := rfl
@[simp] theorem setCore_parts (s : State) (n : Nat) (c : Core) : (s.setCore n c).parts = s.parts := rfl
@[simp] theorem setCore_fronts (s : State) (n : Nat) (c : Core) : (s.setCore n c).fronts = s.fronts := rfl
@[simp] theorem setCore_masters (s : State) (n : Nat) (c : Core) : (s.setCore n c).masters = s.masters := rfl
@[simp] theorem setCore_mem (s : State) (n : Nat) (c : Core) : (s.setCore n c).mem = s.mem := rfl
@[simp] theorem setCore_poison (s : State) (n : Nat) (c : Core) : (s.setCore n c).poison = s.poison := rfl
@[simp] theorem setCore_versions (s : State) (n : Nat) (c : Core) : (s.setCore n c).versions = s.versions := rfl
@[simp] theorem setCore_blocks (s : State) (n : Nat) (c : Core) : (s.setCore n c).blocks = s.blocks := rfl
@[simp] theorem setCore_near (s : State) (n : Nat) (c : Core) : (s.setCore n c).near = s.near := rfl
@[simp] theorem setCore_l2 (s : State) (n : Nat) (c : Core) : (s.setCore n c).l2 = s.l2 := rfl
@[simp] theorem setCore_nearCache (s : State) (n : Nat) (c : Core) : (s.setCore n c).nearCache = s.nearCache := rfl
@[simp] theorem setCore_shoots (s : State) (n : Nat) (c : Core) : (s.setCore n c).shoots = s.shoots := rfl
@[simp] theorem setCore_cur (s : State) (n : Nat) (c : Core) : (s.setCore n c).cur = s.cur := rfl
@[simp] theorem setCore_agenda (s : State) (n : Nat) (c : Core) : (s.setCore n c).agenda = s.agenda := rfl
@[simp] theorem setCore_free (s : State) (n : Nat) (c : Core) : (s.setCore n c).free = s.free := rfl

@[simp] theorem setDie_pkg (s : State) (d : Nat) (v : Die) : (s.setDie d v).pkg = s.pkg := rfl
@[simp] theorem setDie_recs (s : State) (d : Nat) (v : Die) : (s.setDie d v).recs = s.recs := rfl
@[simp] theorem setDie_ctxs (s : State) (d : Nat) (v : Die) : (s.setDie d v).ctxs = s.ctxs := rfl
@[simp] theorem setDie_cores (s : State) (d : Nat) (v : Die) : (s.setDie d v).cores = s.cores := rfl
@[simp] theorem setDie_channels (s : State) (d : Nat) (v : Die) : (s.setDie d v).channels = s.channels := rfl
@[simp] theorem setDie_parts (s : State) (d : Nat) (v : Die) : (s.setDie d v).parts = s.parts := rfl
@[simp] theorem setDie_fronts (s : State) (d : Nat) (v : Die) : (s.setDie d v).fronts = s.fronts := rfl
@[simp] theorem setDie_masters (s : State) (d : Nat) (v : Die) : (s.setDie d v).masters = s.masters := rfl
@[simp] theorem setDie_mem (s : State) (d : Nat) (v : Die) : (s.setDie d v).mem = s.mem := rfl
@[simp] theorem setDie_poison (s : State) (d : Nat) (v : Die) : (s.setDie d v).poison = s.poison := rfl
@[simp] theorem setDie_versions (s : State) (d : Nat) (v : Die) : (s.setDie d v).versions = s.versions := rfl
@[simp] theorem setDie_blocks (s : State) (d : Nat) (v : Die) : (s.setDie d v).blocks = s.blocks := rfl
@[simp] theorem setDie_near (s : State) (d : Nat) (v : Die) : (s.setDie d v).near = s.near := rfl
@[simp] theorem setDie_l2 (s : State) (d : Nat) (v : Die) : (s.setDie d v).l2 = s.l2 := rfl
@[simp] theorem setDie_nearCache (s : State) (d : Nat) (v : Die) : (s.setDie d v).nearCache = s.nearCache := rfl
@[simp] theorem setDie_shoots (s : State) (d : Nat) (v : Die) : (s.setDie d v).shoots = s.shoots := rfl
@[simp] theorem setDie_cur (s : State) (d : Nat) (v : Die) : (s.setDie d v).cur = s.cur := rfl
@[simp] theorem setDie_agenda (s : State) (d : Nat) (v : Die) : (s.setDie d v).agenda = s.agenda := rfl
@[simp] theorem setDie_free (s : State) (d : Nat) (v : Die) : (s.setDie d v).free = s.free := rfl

@[simp] theorem setPart_pkg (s : State) (p : Nat) (v : Partition) : (s.setPart p v).pkg = s.pkg := rfl
@[simp] theorem setPart_recs (s : State) (p : Nat) (v : Partition) : (s.setPart p v).recs = s.recs := rfl
@[simp] theorem setPart_ctxs (s : State) (p : Nat) (v : Partition) : (s.setPart p v).ctxs = s.ctxs := rfl
@[simp] theorem setPart_cores (s : State) (p : Nat) (v : Partition) : (s.setPart p v).cores = s.cores := rfl
@[simp] theorem setPart_dies (s : State) (p : Nat) (v : Partition) : (s.setPart p v).dies = s.dies := rfl
@[simp] theorem setPart_channels (s : State) (p : Nat) (v : Partition) : (s.setPart p v).channels = s.channels := rfl
@[simp] theorem setPart_fronts (s : State) (p : Nat) (v : Partition) : (s.setPart p v).fronts = s.fronts := rfl
@[simp] theorem setPart_masters (s : State) (p : Nat) (v : Partition) : (s.setPart p v).masters = s.masters := rfl
@[simp] theorem setPart_mem (s : State) (p : Nat) (v : Partition) : (s.setPart p v).mem = s.mem := rfl
@[simp] theorem setPart_poison (s : State) (p : Nat) (v : Partition) : (s.setPart p v).poison = s.poison := rfl
@[simp] theorem setPart_versions (s : State) (p : Nat) (v : Partition) : (s.setPart p v).versions = s.versions := rfl
@[simp] theorem setPart_blocks (s : State) (p : Nat) (v : Partition) : (s.setPart p v).blocks = s.blocks := rfl
@[simp] theorem setPart_near (s : State) (p : Nat) (v : Partition) : (s.setPart p v).near = s.near := rfl
@[simp] theorem setPart_l2 (s : State) (p : Nat) (v : Partition) : (s.setPart p v).l2 = s.l2 := rfl
@[simp] theorem setPart_nearCache (s : State) (p : Nat) (v : Partition) : (s.setPart p v).nearCache = s.nearCache := rfl
@[simp] theorem setPart_shoots (s : State) (p : Nat) (v : Partition) : (s.setPart p v).shoots = s.shoots := rfl
@[simp] theorem setPart_cur (s : State) (p : Nat) (v : Partition) : (s.setPart p v).cur = s.cur := rfl
@[simp] theorem setPart_agenda (s : State) (p : Nat) (v : Partition) : (s.setPart p v).agenda = s.agenda := rfl
@[simp] theorem setPart_free (s : State) (p : Nat) (v : Partition) : (s.setPart p v).free = s.free := rfl

@[simp] theorem setFront_pkg (s : State) (f : Nat) (v : Front) : (s.setFront f v).pkg = s.pkg := rfl
@[simp] theorem setFront_recs (s : State) (f : Nat) (v : Front) : (s.setFront f v).recs = s.recs := rfl
@[simp] theorem setFront_ctxs (s : State) (f : Nat) (v : Front) : (s.setFront f v).ctxs = s.ctxs := rfl
@[simp] theorem setFront_cores (s : State) (f : Nat) (v : Front) : (s.setFront f v).cores = s.cores := rfl
@[simp] theorem setFront_dies (s : State) (f : Nat) (v : Front) : (s.setFront f v).dies = s.dies := rfl
@[simp] theorem setFront_channels (s : State) (f : Nat) (v : Front) : (s.setFront f v).channels = s.channels := rfl
@[simp] theorem setFront_parts (s : State) (f : Nat) (v : Front) : (s.setFront f v).parts = s.parts := rfl
@[simp] theorem setFront_masters (s : State) (f : Nat) (v : Front) : (s.setFront f v).masters = s.masters := rfl
@[simp] theorem setFront_mem (s : State) (f : Nat) (v : Front) : (s.setFront f v).mem = s.mem := rfl
@[simp] theorem setFront_poison (s : State) (f : Nat) (v : Front) : (s.setFront f v).poison = s.poison := rfl
@[simp] theorem setFront_versions (s : State) (f : Nat) (v : Front) : (s.setFront f v).versions = s.versions := rfl
@[simp] theorem setFront_blocks (s : State) (f : Nat) (v : Front) : (s.setFront f v).blocks = s.blocks := rfl
@[simp] theorem setFront_near (s : State) (f : Nat) (v : Front) : (s.setFront f v).near = s.near := rfl
@[simp] theorem setFront_l2 (s : State) (f : Nat) (v : Front) : (s.setFront f v).l2 = s.l2 := rfl
@[simp] theorem setFront_nearCache (s : State) (f : Nat) (v : Front) : (s.setFront f v).nearCache = s.nearCache := rfl
@[simp] theorem setFront_shoots (s : State) (f : Nat) (v : Front) : (s.setFront f v).shoots = s.shoots := rfl
@[simp] theorem setFront_cur (s : State) (f : Nat) (v : Front) : (s.setFront f v).cur = s.cur := rfl
@[simp] theorem setFront_agenda (s : State) (f : Nat) (v : Front) : (s.setFront f v).agenda = s.agenda := rfl
@[simp] theorem setFront_free (s : State) (f : Nat) (v : Front) : (s.setFront f v).free = s.free := rfl

@[simp] theorem setChannel_pkg (s : State) (ch : Nat) (v : Channel) : (s.setChannel ch v).pkg = s.pkg := rfl
@[simp] theorem setChannel_recs (s : State) (ch : Nat) (v : Channel) : (s.setChannel ch v).recs = s.recs := rfl
@[simp] theorem setChannel_ctxs (s : State) (ch : Nat) (v : Channel) : (s.setChannel ch v).ctxs = s.ctxs := rfl
@[simp] theorem setChannel_cores (s : State) (ch : Nat) (v : Channel) : (s.setChannel ch v).cores = s.cores := rfl
@[simp] theorem setChannel_dies (s : State) (ch : Nat) (v : Channel) : (s.setChannel ch v).dies = s.dies := rfl
@[simp] theorem setChannel_parts (s : State) (ch : Nat) (v : Channel) : (s.setChannel ch v).parts = s.parts := rfl
@[simp] theorem setChannel_fronts (s : State) (ch : Nat) (v : Channel) : (s.setChannel ch v).fronts = s.fronts := rfl
@[simp] theorem setChannel_masters (s : State) (ch : Nat) (v : Channel) : (s.setChannel ch v).masters = s.masters := rfl
@[simp] theorem setChannel_mem (s : State) (ch : Nat) (v : Channel) : (s.setChannel ch v).mem = s.mem := rfl
@[simp] theorem setChannel_poison (s : State) (ch : Nat) (v : Channel) : (s.setChannel ch v).poison = s.poison := rfl
@[simp] theorem setChannel_versions (s : State) (ch : Nat) (v : Channel) : (s.setChannel ch v).versions = s.versions := rfl
@[simp] theorem setChannel_blocks (s : State) (ch : Nat) (v : Channel) : (s.setChannel ch v).blocks = s.blocks := rfl
@[simp] theorem setChannel_near (s : State) (ch : Nat) (v : Channel) : (s.setChannel ch v).near = s.near := rfl
@[simp] theorem setChannel_l2 (s : State) (ch : Nat) (v : Channel) : (s.setChannel ch v).l2 = s.l2 := rfl
@[simp] theorem setChannel_nearCache (s : State) (ch : Nat) (v : Channel) : (s.setChannel ch v).nearCache = s.nearCache := rfl
@[simp] theorem setChannel_shoots (s : State) (ch : Nat) (v : Channel) : (s.setChannel ch v).shoots = s.shoots := rfl
@[simp] theorem setChannel_cur (s : State) (ch : Nat) (v : Channel) : (s.setChannel ch v).cur = s.cur := rfl
@[simp] theorem setChannel_agenda (s : State) (ch : Nat) (v : Channel) : (s.setChannel ch v).agenda = s.agenda := rfl
@[simp] theorem setChannel_free (s : State) (ch : Nat) (v : Channel) : (s.setChannel ch v).free = s.free := rfl

@[simp] theorem setMaster_pkg (s : State) (m : Nat) (v : Master) : (s.setMaster m v).pkg = s.pkg := rfl
@[simp] theorem setMaster_recs (s : State) (m : Nat) (v : Master) : (s.setMaster m v).recs = s.recs := rfl
@[simp] theorem setMaster_ctxs (s : State) (m : Nat) (v : Master) : (s.setMaster m v).ctxs = s.ctxs := rfl
@[simp] theorem setMaster_cores (s : State) (m : Nat) (v : Master) : (s.setMaster m v).cores = s.cores := rfl
@[simp] theorem setMaster_dies (s : State) (m : Nat) (v : Master) : (s.setMaster m v).dies = s.dies := rfl
@[simp] theorem setMaster_channels (s : State) (m : Nat) (v : Master) : (s.setMaster m v).channels = s.channels := rfl
@[simp] theorem setMaster_parts (s : State) (m : Nat) (v : Master) : (s.setMaster m v).parts = s.parts := rfl
@[simp] theorem setMaster_fronts (s : State) (m : Nat) (v : Master) : (s.setMaster m v).fronts = s.fronts := rfl
@[simp] theorem setMaster_mem (s : State) (m : Nat) (v : Master) : (s.setMaster m v).mem = s.mem := rfl
@[simp] theorem setMaster_poison (s : State) (m : Nat) (v : Master) : (s.setMaster m v).poison = s.poison := rfl
@[simp] theorem setMaster_versions (s : State) (m : Nat) (v : Master) : (s.setMaster m v).versions = s.versions := rfl
@[simp] theorem setMaster_blocks (s : State) (m : Nat) (v : Master) : (s.setMaster m v).blocks = s.blocks := rfl
@[simp] theorem setMaster_near (s : State) (m : Nat) (v : Master) : (s.setMaster m v).near = s.near := rfl
@[simp] theorem setMaster_l2 (s : State) (m : Nat) (v : Master) : (s.setMaster m v).l2 = s.l2 := rfl
@[simp] theorem setMaster_nearCache (s : State) (m : Nat) (v : Master) : (s.setMaster m v).nearCache = s.nearCache := rfl
@[simp] theorem setMaster_shoots (s : State) (m : Nat) (v : Master) : (s.setMaster m v).shoots = s.shoots := rfl
@[simp] theorem setMaster_cur (s : State) (m : Nat) (v : Master) : (s.setMaster m v).cur = s.cur := rfl
@[simp] theorem setMaster_agenda (s : State) (m : Nat) (v : Master) : (s.setMaster m v).agenda = s.agenda := rfl
@[simp] theorem setMaster_free (s : State) (m : Nat) (v : Master) : (s.setMaster m v).free = s.free := rfl

@[simp] theorem modCtx_pkg (s : State) (x : Nat) (f : Ctx → Ctx) : (s.modCtx x f).pkg = s.pkg := rfl
@[simp] theorem modCtx_recs (s : State) (x : Nat) (f : Ctx → Ctx) : (s.modCtx x f).recs = s.recs := rfl
@[simp] theorem modCtx_cores (s : State) (x : Nat) (f : Ctx → Ctx) : (s.modCtx x f).cores = s.cores := rfl
@[simp] theorem modCtx_dies (s : State) (x : Nat) (f : Ctx → Ctx) : (s.modCtx x f).dies = s.dies := rfl
@[simp] theorem modCtx_channels (s : State) (x : Nat) (f : Ctx → Ctx) : (s.modCtx x f).channels = s.channels := rfl
@[simp] theorem modCtx_parts (s : State) (x : Nat) (f : Ctx → Ctx) : (s.modCtx x f).parts = s.parts := rfl
@[simp] theorem modCtx_fronts (s : State) (x : Nat) (f : Ctx → Ctx) : (s.modCtx x f).fronts = s.fronts := rfl
@[simp] theorem modCtx_masters (s : State) (x : Nat) (f : Ctx → Ctx) : (s.modCtx x f).masters = s.masters := rfl
@[simp] theorem modCtx_mem (s : State) (x : Nat) (f : Ctx → Ctx) : (s.modCtx x f).mem = s.mem := rfl
@[simp] theorem modCtx_poison (s : State) (x : Nat) (f : Ctx → Ctx) : (s.modCtx x f).poison = s.poison := rfl
@[simp] theorem modCtx_versions (s : State) (x : Nat) (f : Ctx → Ctx) : (s.modCtx x f).versions = s.versions := rfl
@[simp] theorem modCtx_blocks (s : State) (x : Nat) (f : Ctx → Ctx) : (s.modCtx x f).blocks = s.blocks := rfl
@[simp] theorem modCtx_near (s : State) (x : Nat) (f : Ctx → Ctx) : (s.modCtx x f).near = s.near := rfl
@[simp] theorem modCtx_l2 (s : State) (x : Nat) (f : Ctx → Ctx) : (s.modCtx x f).l2 = s.l2 := rfl
@[simp] theorem modCtx_nearCache (s : State) (x : Nat) (f : Ctx → Ctx) : (s.modCtx x f).nearCache = s.nearCache := rfl
@[simp] theorem modCtx_shoots (s : State) (x : Nat) (f : Ctx → Ctx) : (s.modCtx x f).shoots = s.shoots := rfl
@[simp] theorem modCtx_cur (s : State) (x : Nat) (f : Ctx → Ctx) : (s.modCtx x f).cur = s.cur := rfl
@[simp] theorem modCtx_agenda (s : State) (x : Nat) (f : Ctx → Ctx) : (s.modCtx x f).agenda = s.agenda := rfl
@[simp] theorem modCtx_free (s : State) (x : Nat) (f : Ctx → Ctx) : (s.modCtx x f).free = s.free := rfl

@[simp] theorem modCore_pkg (s : State) (n : Nat) (f : Core → Core) : (s.modCore n f).pkg = s.pkg := rfl
@[simp] theorem modCore_recs (s : State) (n : Nat) (f : Core → Core) : (s.modCore n f).recs = s.recs := rfl
@[simp] theorem modCore_ctxs (s : State) (n : Nat) (f : Core → Core) : (s.modCore n f).ctxs = s.ctxs := rfl
@[simp] theorem modCore_dies (s : State) (n : Nat) (f : Core → Core) : (s.modCore n f).dies = s.dies := rfl
@[simp] theorem modCore_channels (s : State) (n : Nat) (f : Core → Core) : (s.modCore n f).channels = s.channels := rfl
@[simp] theorem modCore_parts (s : State) (n : Nat) (f : Core → Core) : (s.modCore n f).parts = s.parts := rfl
@[simp] theorem modCore_fronts (s : State) (n : Nat) (f : Core → Core) : (s.modCore n f).fronts = s.fronts := rfl
@[simp] theorem modCore_masters (s : State) (n : Nat) (f : Core → Core) : (s.modCore n f).masters = s.masters := rfl
@[simp] theorem modCore_mem (s : State) (n : Nat) (f : Core → Core) : (s.modCore n f).mem = s.mem := rfl
@[simp] theorem modCore_poison (s : State) (n : Nat) (f : Core → Core) : (s.modCore n f).poison = s.poison := rfl
@[simp] theorem modCore_versions (s : State) (n : Nat) (f : Core → Core) : (s.modCore n f).versions = s.versions := rfl
@[simp] theorem modCore_blocks (s : State) (n : Nat) (f : Core → Core) : (s.modCore n f).blocks = s.blocks := rfl
@[simp] theorem modCore_near (s : State) (n : Nat) (f : Core → Core) : (s.modCore n f).near = s.near := rfl
@[simp] theorem modCore_l2 (s : State) (n : Nat) (f : Core → Core) : (s.modCore n f).l2 = s.l2 := rfl
@[simp] theorem modCore_nearCache (s : State) (n : Nat) (f : Core → Core) : (s.modCore n f).nearCache = s.nearCache := rfl
@[simp] theorem modCore_shoots (s : State) (n : Nat) (f : Core → Core) : (s.modCore n f).shoots = s.shoots := rfl
@[simp] theorem modCore_cur (s : State) (n : Nat) (f : Core → Core) : (s.modCore n f).cur = s.cur := rfl
@[simp] theorem modCore_agenda (s : State) (n : Nat) (f : Core → Core) : (s.modCore n f).agenda = s.agenda := rfl
@[simp] theorem modCore_free (s : State) (n : Nat) (f : Core → Core) : (s.modCore n f).free = s.free := rfl

@[simp] theorem modDie_pkg (s : State) (d : Nat) (f : Die → Die) : (s.modDie d f).pkg = s.pkg := rfl
@[simp] theorem modDie_recs (s : State) (d : Nat) (f : Die → Die) : (s.modDie d f).recs = s.recs := rfl
@[simp] theorem modDie_ctxs (s : State) (d : Nat) (f : Die → Die) : (s.modDie d f).ctxs = s.ctxs := rfl
@[simp] theorem modDie_cores (s : State) (d : Nat) (f : Die → Die) : (s.modDie d f).cores = s.cores := rfl
@[simp] theorem modDie_channels (s : State) (d : Nat) (f : Die → Die) : (s.modDie d f).channels = s.channels := rfl
@[simp] theorem modDie_parts (s : State) (d : Nat) (f : Die → Die) : (s.modDie d f).parts = s.parts := rfl
@[simp] theorem modDie_fronts (s : State) (d : Nat) (f : Die → Die) : (s.modDie d f).fronts = s.fronts := rfl
@[simp] theorem modDie_masters (s : State) (d : Nat) (f : Die → Die) : (s.modDie d f).masters = s.masters := rfl
@[simp] theorem modDie_mem (s : State) (d : Nat) (f : Die → Die) : (s.modDie d f).mem = s.mem := rfl
@[simp] theorem modDie_poison (s : State) (d : Nat) (f : Die → Die) : (s.modDie d f).poison = s.poison := rfl
@[simp] theorem modDie_versions (s : State) (d : Nat) (f : Die → Die) : (s.modDie d f).versions = s.versions := rfl
@[simp] theorem modDie_blocks (s : State) (d : Nat) (f : Die → Die) : (s.modDie d f).blocks = s.blocks := rfl
@[simp] theorem modDie_near (s : State) (d : Nat) (f : Die → Die) : (s.modDie d f).near = s.near := rfl
@[simp] theorem modDie_l2 (s : State) (d : Nat) (f : Die → Die) : (s.modDie d f).l2 = s.l2 := rfl
@[simp] theorem modDie_nearCache (s : State) (d : Nat) (f : Die → Die) : (s.modDie d f).nearCache = s.nearCache := rfl
@[simp] theorem modDie_shoots (s : State) (d : Nat) (f : Die → Die) : (s.modDie d f).shoots = s.shoots := rfl
@[simp] theorem modDie_cur (s : State) (d : Nat) (f : Die → Die) : (s.modDie d f).cur = s.cur := rfl
@[simp] theorem modDie_agenda (s : State) (d : Nat) (f : Die → Die) : (s.modDie d f).agenda = s.agenda := rfl
@[simp] theorem modDie_free (s : State) (d : Nat) (f : Die → Die) : (s.modDie d f).free = s.free := rfl

@[simp] theorem modPart_pkg (s : State) (p : Nat) (f : Partition → Partition) : (s.modPart p f).pkg = s.pkg := rfl
@[simp] theorem modPart_recs (s : State) (p : Nat) (f : Partition → Partition) : (s.modPart p f).recs = s.recs := rfl
@[simp] theorem modPart_ctxs (s : State) (p : Nat) (f : Partition → Partition) : (s.modPart p f).ctxs = s.ctxs := rfl
@[simp] theorem modPart_cores (s : State) (p : Nat) (f : Partition → Partition) : (s.modPart p f).cores = s.cores := rfl
@[simp] theorem modPart_dies (s : State) (p : Nat) (f : Partition → Partition) : (s.modPart p f).dies = s.dies := rfl
@[simp] theorem modPart_channels (s : State) (p : Nat) (f : Partition → Partition) : (s.modPart p f).channels = s.channels := rfl
@[simp] theorem modPart_fronts (s : State) (p : Nat) (f : Partition → Partition) : (s.modPart p f).fronts = s.fronts := rfl
@[simp] theorem modPart_masters (s : State) (p : Nat) (f : Partition → Partition) : (s.modPart p f).masters = s.masters := rfl
@[simp] theorem modPart_mem (s : State) (p : Nat) (f : Partition → Partition) : (s.modPart p f).mem = s.mem := rfl
@[simp] theorem modPart_poison (s : State) (p : Nat) (f : Partition → Partition) : (s.modPart p f).poison = s.poison := rfl
@[simp] theorem modPart_versions (s : State) (p : Nat) (f : Partition → Partition) : (s.modPart p f).versions = s.versions := rfl
@[simp] theorem modPart_blocks (s : State) (p : Nat) (f : Partition → Partition) : (s.modPart p f).blocks = s.blocks := rfl
@[simp] theorem modPart_near (s : State) (p : Nat) (f : Partition → Partition) : (s.modPart p f).near = s.near := rfl
@[simp] theorem modPart_l2 (s : State) (p : Nat) (f : Partition → Partition) : (s.modPart p f).l2 = s.l2 := rfl
@[simp] theorem modPart_nearCache (s : State) (p : Nat) (f : Partition → Partition) : (s.modPart p f).nearCache = s.nearCache := rfl
@[simp] theorem modPart_shoots (s : State) (p : Nat) (f : Partition → Partition) : (s.modPart p f).shoots = s.shoots := rfl
@[simp] theorem modPart_cur (s : State) (p : Nat) (f : Partition → Partition) : (s.modPart p f).cur = s.cur := rfl
@[simp] theorem modPart_agenda (s : State) (p : Nat) (f : Partition → Partition) : (s.modPart p f).agenda = s.agenda := rfl
@[simp] theorem modPart_free (s : State) (p : Nat) (f : Partition → Partition) : (s.modPart p f).free = s.free := rfl

@[simp] theorem modFront_pkg (s : State) (n : Nat) (f : Front → Front) : (s.modFront n f).pkg = s.pkg := rfl
@[simp] theorem modFront_recs (s : State) (n : Nat) (f : Front → Front) : (s.modFront n f).recs = s.recs := rfl
@[simp] theorem modFront_ctxs (s : State) (n : Nat) (f : Front → Front) : (s.modFront n f).ctxs = s.ctxs := rfl
@[simp] theorem modFront_cores (s : State) (n : Nat) (f : Front → Front) : (s.modFront n f).cores = s.cores := rfl
@[simp] theorem modFront_dies (s : State) (n : Nat) (f : Front → Front) : (s.modFront n f).dies = s.dies := rfl
@[simp] theorem modFront_channels (s : State) (n : Nat) (f : Front → Front) : (s.modFront n f).channels = s.channels := rfl
@[simp] theorem modFront_parts (s : State) (n : Nat) (f : Front → Front) : (s.modFront n f).parts = s.parts := rfl
@[simp] theorem modFront_masters (s : State) (n : Nat) (f : Front → Front) : (s.modFront n f).masters = s.masters := rfl
@[simp] theorem modFront_mem (s : State) (n : Nat) (f : Front → Front) : (s.modFront n f).mem = s.mem := rfl
@[simp] theorem modFront_poison (s : State) (n : Nat) (f : Front → Front) : (s.modFront n f).poison = s.poison := rfl
@[simp] theorem modFront_versions (s : State) (n : Nat) (f : Front → Front) : (s.modFront n f).versions = s.versions := rfl
@[simp] theorem modFront_blocks (s : State) (n : Nat) (f : Front → Front) : (s.modFront n f).blocks = s.blocks := rfl
@[simp] theorem modFront_near (s : State) (n : Nat) (f : Front → Front) : (s.modFront n f).near = s.near := rfl
@[simp] theorem modFront_l2 (s : State) (n : Nat) (f : Front → Front) : (s.modFront n f).l2 = s.l2 := rfl
@[simp] theorem modFront_nearCache (s : State) (n : Nat) (f : Front → Front) : (s.modFront n f).nearCache = s.nearCache := rfl
@[simp] theorem modFront_shoots (s : State) (n : Nat) (f : Front → Front) : (s.modFront n f).shoots = s.shoots := rfl
@[simp] theorem modFront_cur (s : State) (n : Nat) (f : Front → Front) : (s.modFront n f).cur = s.cur := rfl
@[simp] theorem modFront_agenda (s : State) (n : Nat) (f : Front → Front) : (s.modFront n f).agenda = s.agenda := rfl
@[simp] theorem modFront_free (s : State) (n : Nat) (f : Front → Front) : (s.modFront n f).free = s.free := rfl

@[simp] theorem modMaster_pkg (s : State) (m : Nat) (f : Master → Master) : (s.modMaster m f).pkg = s.pkg := rfl
@[simp] theorem modMaster_recs (s : State) (m : Nat) (f : Master → Master) : (s.modMaster m f).recs = s.recs := rfl
@[simp] theorem modMaster_ctxs (s : State) (m : Nat) (f : Master → Master) : (s.modMaster m f).ctxs = s.ctxs := rfl
@[simp] theorem modMaster_cores (s : State) (m : Nat) (f : Master → Master) : (s.modMaster m f).cores = s.cores := rfl
@[simp] theorem modMaster_dies (s : State) (m : Nat) (f : Master → Master) : (s.modMaster m f).dies = s.dies := rfl
@[simp] theorem modMaster_channels (s : State) (m : Nat) (f : Master → Master) : (s.modMaster m f).channels = s.channels := rfl
@[simp] theorem modMaster_parts (s : State) (m : Nat) (f : Master → Master) : (s.modMaster m f).parts = s.parts := rfl
@[simp] theorem modMaster_fronts (s : State) (m : Nat) (f : Master → Master) : (s.modMaster m f).fronts = s.fronts := rfl
@[simp] theorem modMaster_mem (s : State) (m : Nat) (f : Master → Master) : (s.modMaster m f).mem = s.mem := rfl
@[simp] theorem modMaster_poison (s : State) (m : Nat) (f : Master → Master) : (s.modMaster m f).poison = s.poison := rfl
@[simp] theorem modMaster_versions (s : State) (m : Nat) (f : Master → Master) : (s.modMaster m f).versions = s.versions := rfl
@[simp] theorem modMaster_blocks (s : State) (m : Nat) (f : Master → Master) : (s.modMaster m f).blocks = s.blocks := rfl
@[simp] theorem modMaster_near (s : State) (m : Nat) (f : Master → Master) : (s.modMaster m f).near = s.near := rfl
@[simp] theorem modMaster_l2 (s : State) (m : Nat) (f : Master → Master) : (s.modMaster m f).l2 = s.l2 := rfl
@[simp] theorem modMaster_nearCache (s : State) (m : Nat) (f : Master → Master) : (s.modMaster m f).nearCache = s.nearCache := rfl
@[simp] theorem modMaster_shoots (s : State) (m : Nat) (f : Master → Master) : (s.modMaster m f).shoots = s.shoots := rfl
@[simp] theorem modMaster_cur (s : State) (m : Nat) (f : Master → Master) : (s.modMaster m f).cur = s.cur := rfl
@[simp] theorem modMaster_agenda (s : State) (m : Nat) (f : Master → Master) : (s.modMaster m f).agenda = s.agenda := rfl
@[simp] theorem modMaster_free (s : State) (m : Nat) (f : Master → Master) : (s.modMaster m f).free = s.free := rfl

@[simp] theorem modStore_pkg (s : State) (n : Nat) (f : CoreStore → CoreStore) : (s.modStore n f).pkg = s.pkg := rfl
@[simp] theorem modStore_recs (s : State) (n : Nat) (f : CoreStore → CoreStore) : (s.modStore n f).recs = s.recs := rfl
@[simp] theorem modStore_ctxs (s : State) (n : Nat) (f : CoreStore → CoreStore) : (s.modStore n f).ctxs = s.ctxs := rfl
@[simp] theorem modStore_dies (s : State) (n : Nat) (f : CoreStore → CoreStore) : (s.modStore n f).dies = s.dies := rfl
@[simp] theorem modStore_channels (s : State) (n : Nat) (f : CoreStore → CoreStore) : (s.modStore n f).channels = s.channels := rfl
@[simp] theorem modStore_parts (s : State) (n : Nat) (f : CoreStore → CoreStore) : (s.modStore n f).parts = s.parts := rfl
@[simp] theorem modStore_fronts (s : State) (n : Nat) (f : CoreStore → CoreStore) : (s.modStore n f).fronts = s.fronts := rfl
@[simp] theorem modStore_masters (s : State) (n : Nat) (f : CoreStore → CoreStore) : (s.modStore n f).masters = s.masters := rfl
@[simp] theorem modStore_mem (s : State) (n : Nat) (f : CoreStore → CoreStore) : (s.modStore n f).mem = s.mem := rfl
@[simp] theorem modStore_poison (s : State) (n : Nat) (f : CoreStore → CoreStore) : (s.modStore n f).poison = s.poison := rfl
@[simp] theorem modStore_versions (s : State) (n : Nat) (f : CoreStore → CoreStore) : (s.modStore n f).versions = s.versions := rfl
@[simp] theorem modStore_blocks (s : State) (n : Nat) (f : CoreStore → CoreStore) : (s.modStore n f).blocks = s.blocks := rfl
@[simp] theorem modStore_near (s : State) (n : Nat) (f : CoreStore → CoreStore) : (s.modStore n f).near = s.near := rfl
@[simp] theorem modStore_l2 (s : State) (n : Nat) (f : CoreStore → CoreStore) : (s.modStore n f).l2 = s.l2 := rfl
@[simp] theorem modStore_nearCache (s : State) (n : Nat) (f : CoreStore → CoreStore) : (s.modStore n f).nearCache = s.nearCache := rfl
@[simp] theorem modStore_shoots (s : State) (n : Nat) (f : CoreStore → CoreStore) : (s.modStore n f).shoots = s.shoots := rfl
@[simp] theorem modStore_cur (s : State) (n : Nat) (f : CoreStore → CoreStore) : (s.modStore n f).cur = s.cur := rfl
@[simp] theorem modStore_agenda (s : State) (n : Nat) (f : CoreStore → CoreStore) : (s.modStore n f).agenda = s.agenda := rfl
@[simp] theorem modStore_free (s : State) (n : Nat) (f : CoreStore → CoreStore) : (s.modStore n f).free = s.free := rfl

@[simp] theorem modMem_pkg (s : State) (x : Nat) (f : CtxMem → CtxMem) : (s.modMem x f).pkg = s.pkg := rfl
@[simp] theorem modMem_recs (s : State) (x : Nat) (f : CtxMem → CtxMem) : (s.modMem x f).recs = s.recs := rfl
@[simp] theorem modMem_cores (s : State) (x : Nat) (f : CtxMem → CtxMem) : (s.modMem x f).cores = s.cores := rfl
@[simp] theorem modMem_dies (s : State) (x : Nat) (f : CtxMem → CtxMem) : (s.modMem x f).dies = s.dies := rfl
@[simp] theorem modMem_channels (s : State) (x : Nat) (f : CtxMem → CtxMem) : (s.modMem x f).channels = s.channels := rfl
@[simp] theorem modMem_parts (s : State) (x : Nat) (f : CtxMem → CtxMem) : (s.modMem x f).parts = s.parts := rfl
@[simp] theorem modMem_fronts (s : State) (x : Nat) (f : CtxMem → CtxMem) : (s.modMem x f).fronts = s.fronts := rfl
@[simp] theorem modMem_masters (s : State) (x : Nat) (f : CtxMem → CtxMem) : (s.modMem x f).masters = s.masters := rfl
@[simp] theorem modMem_mem (s : State) (x : Nat) (f : CtxMem → CtxMem) : (s.modMem x f).mem = s.mem := rfl
@[simp] theorem modMem_poison (s : State) (x : Nat) (f : CtxMem → CtxMem) : (s.modMem x f).poison = s.poison := rfl
@[simp] theorem modMem_versions (s : State) (x : Nat) (f : CtxMem → CtxMem) : (s.modMem x f).versions = s.versions := rfl
@[simp] theorem modMem_blocks (s : State) (x : Nat) (f : CtxMem → CtxMem) : (s.modMem x f).blocks = s.blocks := rfl
@[simp] theorem modMem_near (s : State) (x : Nat) (f : CtxMem → CtxMem) : (s.modMem x f).near = s.near := rfl
@[simp] theorem modMem_l2 (s : State) (x : Nat) (f : CtxMem → CtxMem) : (s.modMem x f).l2 = s.l2 := rfl
@[simp] theorem modMem_nearCache (s : State) (x : Nat) (f : CtxMem → CtxMem) : (s.modMem x f).nearCache = s.nearCache := rfl
@[simp] theorem modMem_shoots (s : State) (x : Nat) (f : CtxMem → CtxMem) : (s.modMem x f).shoots = s.shoots := rfl
@[simp] theorem modMem_cur (s : State) (x : Nat) (f : CtxMem → CtxMem) : (s.modMem x f).cur = s.cur := rfl
@[simp] theorem modMem_agenda (s : State) (x : Nat) (f : CtxMem → CtxMem) : (s.modMem x f).agenda = s.agenda := rfl
@[simp] theorem modMem_free (s : State) (x : Nat) (f : CtxMem → CtxMem) : (s.modMem x f).free = s.free := rfl

@[simp] theorem modIss_pkg (s : State) (x : Nat) (f : CtxIssue → CtxIssue) : (s.modIss x f).pkg = s.pkg := rfl
@[simp] theorem modIss_recs (s : State) (x : Nat) (f : CtxIssue → CtxIssue) : (s.modIss x f).recs = s.recs := rfl
@[simp] theorem modIss_cores (s : State) (x : Nat) (f : CtxIssue → CtxIssue) : (s.modIss x f).cores = s.cores := rfl
@[simp] theorem modIss_dies (s : State) (x : Nat) (f : CtxIssue → CtxIssue) : (s.modIss x f).dies = s.dies := rfl
@[simp] theorem modIss_channels (s : State) (x : Nat) (f : CtxIssue → CtxIssue) : (s.modIss x f).channels = s.channels := rfl
@[simp] theorem modIss_parts (s : State) (x : Nat) (f : CtxIssue → CtxIssue) : (s.modIss x f).parts = s.parts := rfl
@[simp] theorem modIss_fronts (s : State) (x : Nat) (f : CtxIssue → CtxIssue) : (s.modIss x f).fronts = s.fronts := rfl
@[simp] theorem modIss_masters (s : State) (x : Nat) (f : CtxIssue → CtxIssue) : (s.modIss x f).masters = s.masters := rfl
@[simp] theorem modIss_mem (s : State) (x : Nat) (f : CtxIssue → CtxIssue) : (s.modIss x f).mem = s.mem := rfl
@[simp] theorem modIss_poison (s : State) (x : Nat) (f : CtxIssue → CtxIssue) : (s.modIss x f).poison = s.poison := rfl
@[simp] theorem modIss_versions (s : State) (x : Nat) (f : CtxIssue → CtxIssue) : (s.modIss x f).versions = s.versions := rfl
@[simp] theorem modIss_blocks (s : State) (x : Nat) (f : CtxIssue → CtxIssue) : (s.modIss x f).blocks = s.blocks := rfl
@[simp] theorem modIss_near (s : State) (x : Nat) (f : CtxIssue → CtxIssue) : (s.modIss x f).near = s.near := rfl
@[simp] theorem modIss_l2 (s : State) (x : Nat) (f : CtxIssue → CtxIssue) : (s.modIss x f).l2 = s.l2 := rfl
@[simp] theorem modIss_nearCache (s : State) (x : Nat) (f : CtxIssue → CtxIssue) : (s.modIss x f).nearCache = s.nearCache := rfl
@[simp] theorem modIss_shoots (s : State) (x : Nat) (f : CtxIssue → CtxIssue) : (s.modIss x f).shoots = s.shoots := rfl
@[simp] theorem modIss_cur (s : State) (x : Nat) (f : CtxIssue → CtxIssue) : (s.modIss x f).cur = s.cur := rfl
@[simp] theorem modIss_agenda (s : State) (x : Nat) (f : CtxIssue → CtxIssue) : (s.modIss x f).agenda = s.agenda := rfl
@[simp] theorem modIss_free (s : State) (x : Nat) (f : CtxIssue → CtxIssue) : (s.modIss x f).free = s.free := rfl

@[simp] theorem modTrap_pkg (s : State) (x : Nat) (f : CtxTrap → CtxTrap) : (s.modTrap x f).pkg = s.pkg := rfl
@[simp] theorem modTrap_recs (s : State) (x : Nat) (f : CtxTrap → CtxTrap) : (s.modTrap x f).recs = s.recs := rfl
@[simp] theorem modTrap_cores (s : State) (x : Nat) (f : CtxTrap → CtxTrap) : (s.modTrap x f).cores = s.cores := rfl
@[simp] theorem modTrap_dies (s : State) (x : Nat) (f : CtxTrap → CtxTrap) : (s.modTrap x f).dies = s.dies := rfl
@[simp] theorem modTrap_channels (s : State) (x : Nat) (f : CtxTrap → CtxTrap) : (s.modTrap x f).channels = s.channels := rfl
@[simp] theorem modTrap_parts (s : State) (x : Nat) (f : CtxTrap → CtxTrap) : (s.modTrap x f).parts = s.parts := rfl
@[simp] theorem modTrap_fronts (s : State) (x : Nat) (f : CtxTrap → CtxTrap) : (s.modTrap x f).fronts = s.fronts := rfl
@[simp] theorem modTrap_masters (s : State) (x : Nat) (f : CtxTrap → CtxTrap) : (s.modTrap x f).masters = s.masters := rfl
@[simp] theorem modTrap_mem (s : State) (x : Nat) (f : CtxTrap → CtxTrap) : (s.modTrap x f).mem = s.mem := rfl
@[simp] theorem modTrap_poison (s : State) (x : Nat) (f : CtxTrap → CtxTrap) : (s.modTrap x f).poison = s.poison := rfl
@[simp] theorem modTrap_versions (s : State) (x : Nat) (f : CtxTrap → CtxTrap) : (s.modTrap x f).versions = s.versions := rfl
@[simp] theorem modTrap_blocks (s : State) (x : Nat) (f : CtxTrap → CtxTrap) : (s.modTrap x f).blocks = s.blocks := rfl
@[simp] theorem modTrap_near (s : State) (x : Nat) (f : CtxTrap → CtxTrap) : (s.modTrap x f).near = s.near := rfl
@[simp] theorem modTrap_l2 (s : State) (x : Nat) (f : CtxTrap → CtxTrap) : (s.modTrap x f).l2 = s.l2 := rfl
@[simp] theorem modTrap_nearCache (s : State) (x : Nat) (f : CtxTrap → CtxTrap) : (s.modTrap x f).nearCache = s.nearCache := rfl
@[simp] theorem modTrap_shoots (s : State) (x : Nat) (f : CtxTrap → CtxTrap) : (s.modTrap x f).shoots = s.shoots := rfl
@[simp] theorem modTrap_cur (s : State) (x : Nat) (f : CtxTrap → CtxTrap) : (s.modTrap x f).cur = s.cur := rfl
@[simp] theorem modTrap_agenda (s : State) (x : Nat) (f : CtxTrap → CtxTrap) : (s.modTrap x f).agenda = s.agenda := rfl
@[simp] theorem modTrap_free (s : State) (x : Nat) (f : CtxTrap → CtxTrap) : (s.modTrap x f).free = s.free := rfl

@[simp] theorem modCur_pkg (s : State) (f : Issue → Issue) : (s.modCur f).pkg = s.pkg := rfl
@[simp] theorem modCur_recs (s : State) (f : Issue → Issue) : (s.modCur f).recs = s.recs := rfl
@[simp] theorem modCur_ctxs (s : State) (f : Issue → Issue) : (s.modCur f).ctxs = s.ctxs := rfl
@[simp] theorem modCur_cores (s : State) (f : Issue → Issue) : (s.modCur f).cores = s.cores := rfl
@[simp] theorem modCur_dies (s : State) (f : Issue → Issue) : (s.modCur f).dies = s.dies := rfl
@[simp] theorem modCur_channels (s : State) (f : Issue → Issue) : (s.modCur f).channels = s.channels := rfl
@[simp] theorem modCur_parts (s : State) (f : Issue → Issue) : (s.modCur f).parts = s.parts := rfl
@[simp] theorem modCur_fronts (s : State) (f : Issue → Issue) : (s.modCur f).fronts = s.fronts := rfl
@[simp] theorem modCur_masters (s : State) (f : Issue → Issue) : (s.modCur f).masters = s.masters := rfl
@[simp] theorem modCur_mem (s : State) (f : Issue → Issue) : (s.modCur f).mem = s.mem := rfl
@[simp] theorem modCur_poison (s : State) (f : Issue → Issue) : (s.modCur f).poison = s.poison := rfl
@[simp] theorem modCur_versions (s : State) (f : Issue → Issue) : (s.modCur f).versions = s.versions := rfl
@[simp] theorem modCur_blocks (s : State) (f : Issue → Issue) : (s.modCur f).blocks = s.blocks := rfl
@[simp] theorem modCur_near (s : State) (f : Issue → Issue) : (s.modCur f).near = s.near := rfl
@[simp] theorem modCur_l2 (s : State) (f : Issue → Issue) : (s.modCur f).l2 = s.l2 := rfl
@[simp] theorem modCur_nearCache (s : State) (f : Issue → Issue) : (s.modCur f).nearCache = s.nearCache := rfl
@[simp] theorem modCur_shoots (s : State) (f : Issue → Issue) : (s.modCur f).shoots = s.shoots := rfl
@[simp] theorem modCur_agenda (s : State) (f : Issue → Issue) : (s.modCur f).agenda = s.agenda := rfl
@[simp] theorem modCur_free (s : State) (f : Issue → Issue) : (s.modCur f).free = s.free := rfl

@[simp] theorem setCtl_pkg (s : State) (x num : Nat) (v : BitVec 64) : (s.setCtl x num v).pkg = s.pkg := rfl
@[simp] theorem setCtl_recs (s : State) (x num : Nat) (v : BitVec 64) : (s.setCtl x num v).recs = s.recs := rfl
@[simp] theorem setCtl_cores (s : State) (x num : Nat) (v : BitVec 64) : (s.setCtl x num v).cores = s.cores := rfl
@[simp] theorem setCtl_dies (s : State) (x num : Nat) (v : BitVec 64) : (s.setCtl x num v).dies = s.dies := rfl
@[simp] theorem setCtl_channels (s : State) (x num : Nat) (v : BitVec 64) : (s.setCtl x num v).channels = s.channels := rfl
@[simp] theorem setCtl_parts (s : State) (x num : Nat) (v : BitVec 64) : (s.setCtl x num v).parts = s.parts := rfl
@[simp] theorem setCtl_fronts (s : State) (x num : Nat) (v : BitVec 64) : (s.setCtl x num v).fronts = s.fronts := rfl
@[simp] theorem setCtl_masters (s : State) (x num : Nat) (v : BitVec 64) : (s.setCtl x num v).masters = s.masters := rfl
@[simp] theorem setCtl_mem (s : State) (x num : Nat) (v : BitVec 64) : (s.setCtl x num v).mem = s.mem := rfl
@[simp] theorem setCtl_poison (s : State) (x num : Nat) (v : BitVec 64) : (s.setCtl x num v).poison = s.poison := rfl
@[simp] theorem setCtl_versions (s : State) (x num : Nat) (v : BitVec 64) : (s.setCtl x num v).versions = s.versions := rfl
@[simp] theorem setCtl_blocks (s : State) (x num : Nat) (v : BitVec 64) : (s.setCtl x num v).blocks = s.blocks := rfl
@[simp] theorem setCtl_near (s : State) (x num : Nat) (v : BitVec 64) : (s.setCtl x num v).near = s.near := rfl
@[simp] theorem setCtl_l2 (s : State) (x num : Nat) (v : BitVec 64) : (s.setCtl x num v).l2 = s.l2 := rfl
@[simp] theorem setCtl_nearCache (s : State) (x num : Nat) (v : BitVec 64) : (s.setCtl x num v).nearCache = s.nearCache := rfl
@[simp] theorem setCtl_shoots (s : State) (x num : Nat) (v : BitVec 64) : (s.setCtl x num v).shoots = s.shoots := rfl
@[simp] theorem setCtl_cur (s : State) (x num : Nat) (v : BitVec 64) : (s.setCtl x num v).cur = s.cur := rfl
@[simp] theorem setCtl_agenda (s : State) (x num : Nat) (v : BitVec 64) : (s.setCtl x num v).agenda = s.agenda := rfl
@[simp] theorem setCtl_free (s : State) (x num : Nat) (v : BitVec 64) : (s.setCtl x num v).free = s.free := rfl

@[simp] theorem schedule_pkg (s : State) (lat : Nat) (fl : BitVec 5) (w : Write) : (s.schedule lat fl w).pkg = s.pkg := rfl
@[simp] theorem schedule_recs (s : State) (lat : Nat) (fl : BitVec 5) (w : Write) : (s.schedule lat fl w).recs = s.recs := rfl
@[simp] theorem schedule_ctxs (s : State) (lat : Nat) (fl : BitVec 5) (w : Write) : (s.schedule lat fl w).ctxs = s.ctxs := rfl
@[simp] theorem schedule_dies (s : State) (lat : Nat) (fl : BitVec 5) (w : Write) : (s.schedule lat fl w).dies = s.dies := rfl
@[simp] theorem schedule_channels (s : State) (lat : Nat) (fl : BitVec 5) (w : Write) : (s.schedule lat fl w).channels = s.channels := rfl
@[simp] theorem schedule_parts (s : State) (lat : Nat) (fl : BitVec 5) (w : Write) : (s.schedule lat fl w).parts = s.parts := rfl
@[simp] theorem schedule_fronts (s : State) (lat : Nat) (fl : BitVec 5) (w : Write) : (s.schedule lat fl w).fronts = s.fronts := rfl
@[simp] theorem schedule_masters (s : State) (lat : Nat) (fl : BitVec 5) (w : Write) : (s.schedule lat fl w).masters = s.masters := rfl
@[simp] theorem schedule_mem (s : State) (lat : Nat) (fl : BitVec 5) (w : Write) : (s.schedule lat fl w).mem = s.mem := rfl
@[simp] theorem schedule_poison (s : State) (lat : Nat) (fl : BitVec 5) (w : Write) : (s.schedule lat fl w).poison = s.poison := rfl
@[simp] theorem schedule_versions (s : State) (lat : Nat) (fl : BitVec 5) (w : Write) : (s.schedule lat fl w).versions = s.versions := rfl
@[simp] theorem schedule_blocks (s : State) (lat : Nat) (fl : BitVec 5) (w : Write) : (s.schedule lat fl w).blocks = s.blocks := rfl
@[simp] theorem schedule_near (s : State) (lat : Nat) (fl : BitVec 5) (w : Write) : (s.schedule lat fl w).near = s.near := rfl
@[simp] theorem schedule_l2 (s : State) (lat : Nat) (fl : BitVec 5) (w : Write) : (s.schedule lat fl w).l2 = s.l2 := rfl
@[simp] theorem schedule_nearCache (s : State) (lat : Nat) (fl : BitVec 5) (w : Write) : (s.schedule lat fl w).nearCache = s.nearCache := rfl
@[simp] theorem schedule_shoots (s : State) (lat : Nat) (fl : BitVec 5) (w : Write) : (s.schedule lat fl w).shoots = s.shoots := rfl
@[simp] theorem schedule_cur (s : State) (lat : Nat) (fl : BitVec 5) (w : Write) : (s.schedule lat fl w).cur = s.cur := rfl
@[simp] theorem schedule_agenda (s : State) (lat : Nat) (fl : BitVec 5) (w : Write) : (s.schedule lat fl w).agenda = s.agenda := rfl
@[simp] theorem schedule_free (s : State) (lat : Nat) (fl : BitVec 5) (w : Write) : (s.schedule lat fl w).free = s.free := rfl

@[simp] theorem ctx_setCtx (s : State) (n : Nat) (v : Ctx) : (s.setCtx n v).ctx n = v := by simp [setCtx, ctx]

theorem ctx_setCtx_other (s : State) (n k : Nat) (v : Ctx) (h : k ≠ n) : (s.setCtx n v).ctx k = s.ctx k := by
  simp [setCtx, ctx, Tab.get_put_other _ _ _ _ _ h]

@[simp] theorem ctx_modCtx (s : State) (n : Nat) (f : Ctx → Ctx) : (s.modCtx n f).ctx n = f (s.ctx n) := by
  simp [modCtx]

theorem ctx_modCtx_other (s : State) (n k : Nat) (f : Ctx → Ctx) (h : k ≠ n) : (s.modCtx n f).ctx k = s.ctx k := by
  simp [modCtx, ctx_setCtx_other _ _ _ _ h]

@[simp] theorem core_setCore (s : State) (n : Nat) (v : Core) : (s.setCore n v).core n = v := by simp [setCore, core]

theorem core_setCore_other (s : State) (n k : Nat) (v : Core) (h : k ≠ n) : (s.setCore n v).core k = s.core k := by
  simp [setCore, core, quietCore, die, Tab.get_put_other _ _ _ _ _ h]

@[simp] theorem core_modCore (s : State) (n : Nat) (f : Core → Core) : (s.modCore n f).core n = f (s.core n) := by
  simp [modCore]

theorem core_modCore_other (s : State) (n k : Nat) (f : Core → Core) (h : k ≠ n) : (s.modCore n f).core k = s.core k := by
  simp [modCore, core_setCore_other _ _ _ _ h]

@[simp] theorem die_setDie (s : State) (n : Nat) (v : Die) : (s.setDie n v).die n = v := by simp [setDie, die]

theorem die_setDie_other (s : State) (n k : Nat) (v : Die) (h : k ≠ n) : (s.setDie n v).die k = s.die k := by
  simp [setDie, die, Tab.get_put_other _ _ _ _ _ h]

@[simp] theorem die_modDie (s : State) (n : Nat) (f : Die → Die) : (s.modDie n f).die n = f (s.die n) := by
  simp [modDie]

theorem die_modDie_other (s : State) (n k : Nat) (f : Die → Die) (h : k ≠ n) : (s.modDie n f).die k = s.die k := by
  simp [modDie, die_setDie_other _ _ _ _ h]

@[simp] theorem part_setPart (s : State) (n : Nat) (v : Partition) : (s.setPart n v).part n = v := by simp [setPart, part]

theorem part_setPart_other (s : State) (n k : Nat) (v : Partition) (h : k ≠ n) : (s.setPart n v).part k = s.part k := by
  simp [setPart, part, Tab.get_put_other _ _ _ _ _ h]

@[simp] theorem part_modPart (s : State) (n : Nat) (f : Partition → Partition) : (s.modPart n f).part n = f (s.part n) := by
  simp [modPart]

theorem part_modPart_other (s : State) (n k : Nat) (f : Partition → Partition) (h : k ≠ n) : (s.modPart n f).part k = s.part k := by
  simp [modPart, part_setPart_other _ _ _ _ h]

@[simp] theorem front_setFront (s : State) (n : Nat) (v : Front) : (s.setFront n v).front n = v := by simp [setFront, front]

theorem front_setFront_other (s : State) (n k : Nat) (v : Front) (h : k ≠ n) : (s.setFront n v).front k = s.front k := by
  simp [setFront, front, Tab.get_put_other _ _ _ _ _ h]

@[simp] theorem front_modFront (s : State) (n : Nat) (f : Front → Front) : (s.modFront n f).front n = f (s.front n) := by
  simp [modFront]

theorem front_modFront_other (s : State) (n k : Nat) (f : Front → Front) (h : k ≠ n) : (s.modFront n f).front k = s.front k := by
  simp [modFront, front_setFront_other _ _ _ _ h]

@[simp] theorem channel_setChannel (s : State) (n : Nat) (v : Channel) : (s.setChannel n v).channel n = v := by simp [setChannel, channel]

theorem channel_setChannel_other (s : State) (n k : Nat) (v : Channel) (h : k ≠ n) : (s.setChannel n v).channel k = s.channel k := by
  simp [setChannel, channel, Tab.get_put_other _ _ _ _ _ h]

@[simp] theorem master_setMaster (s : State) (n : Nat) (v : Master) : (s.setMaster n v).master n = v := by simp [setMaster, master]

theorem master_setMaster_other (s : State) (n k : Nat) (v : Master) (h : k ≠ n) : (s.setMaster n v).master k = s.master k := by
  simp [setMaster, master, Tab.get_put_other _ _ _ _ _ h]

@[simp] theorem master_modMaster (s : State) (n : Nat) (f : Master → Master) : (s.modMaster n f).master n = f (s.master n) := by
  simp [modMaster]

theorem master_modMaster_other (s : State) (n k : Nat) (f : Master → Master) (h : k ≠ n) : (s.modMaster n f).master k = s.master k := by
  simp [modMaster, master_setMaster_other _ _ _ _ h]

@[simp] theorem core_of_setCtx (s : State) (x : Nat) (c : Ctx) (k : Nat) : (s.setCtx x c).core k = s.core k := rfl
@[simp] theorem die_of_setCtx (s : State) (x : Nat) (c : Ctx) (k : Nat) : (s.setCtx x c).die k = s.die k := rfl
@[simp] theorem part_of_setCtx (s : State) (x : Nat) (c : Ctx) (k : Nat) : (s.setCtx x c).part k = s.part k := rfl
@[simp] theorem front_of_setCtx (s : State) (x : Nat) (c : Ctx) (k : Nat) : (s.setCtx x c).front k = s.front k := rfl
@[simp] theorem channel_of_setCtx (s : State) (x : Nat) (c : Ctx) (k : Nat) : (s.setCtx x c).channel k = s.channel k := rfl
@[simp] theorem master_of_setCtx (s : State) (x : Nat) (c : Ctx) (k : Nat) : (s.setCtx x c).master k = s.master k := rfl
@[simp] theorem ctx_of_setCore (s : State) (n : Nat) (c : Core) (k : Nat) : (s.setCore n c).ctx k = s.ctx k := rfl
@[simp] theorem die_of_setCore (s : State) (n : Nat) (c : Core) (k : Nat) : (s.setCore n c).die k = s.die k := rfl
@[simp] theorem part_of_setCore (s : State) (n : Nat) (c : Core) (k : Nat) : (s.setCore n c).part k = s.part k := rfl
@[simp] theorem front_of_setCore (s : State) (n : Nat) (c : Core) (k : Nat) : (s.setCore n c).front k = s.front k := rfl
@[simp] theorem channel_of_setCore (s : State) (n : Nat) (c : Core) (k : Nat) : (s.setCore n c).channel k = s.channel k := rfl
@[simp] theorem master_of_setCore (s : State) (n : Nat) (c : Core) (k : Nat) : (s.setCore n c).master k = s.master k := rfl
@[simp] theorem ctx_of_setDie (s : State) (d : Nat) (v : Die) (k : Nat) : (s.setDie d v).ctx k = s.ctx k := rfl
@[simp] theorem part_of_setDie (s : State) (d : Nat) (v : Die) (k : Nat) : (s.setDie d v).part k = s.part k := rfl
@[simp] theorem front_of_setDie (s : State) (d : Nat) (v : Die) (k : Nat) : (s.setDie d v).front k = s.front k := rfl
@[simp] theorem channel_of_setDie (s : State) (d : Nat) (v : Die) (k : Nat) : (s.setDie d v).channel k = s.channel k := rfl
@[simp] theorem master_of_setDie (s : State) (d : Nat) (v : Die) (k : Nat) : (s.setDie d v).master k = s.master k := rfl
@[simp] theorem ctx_of_setPart (s : State) (p : Nat) (v : Partition) (k : Nat) : (s.setPart p v).ctx k = s.ctx k := rfl
@[simp] theorem core_of_setPart (s : State) (p : Nat) (v : Partition) (k : Nat) : (s.setPart p v).core k = s.core k := rfl
@[simp] theorem die_of_setPart (s : State) (p : Nat) (v : Partition) (k : Nat) : (s.setPart p v).die k = s.die k := rfl
@[simp] theorem front_of_setPart (s : State) (p : Nat) (v : Partition) (k : Nat) : (s.setPart p v).front k = s.front k := rfl
@[simp] theorem channel_of_setPart (s : State) (p : Nat) (v : Partition) (k : Nat) : (s.setPart p v).channel k = s.channel k := rfl
@[simp] theorem master_of_setPart (s : State) (p : Nat) (v : Partition) (k : Nat) : (s.setPart p v).master k = s.master k := rfl
@[simp] theorem ctx_of_setFront (s : State) (f : Nat) (v : Front) (k : Nat) : (s.setFront f v).ctx k = s.ctx k := rfl
@[simp] theorem core_of_setFront (s : State) (f : Nat) (v : Front) (k : Nat) : (s.setFront f v).core k = s.core k := rfl
@[simp] theorem die_of_setFront (s : State) (f : Nat) (v : Front) (k : Nat) : (s.setFront f v).die k = s.die k := rfl
@[simp] theorem part_of_setFront (s : State) (f : Nat) (v : Front) (k : Nat) : (s.setFront f v).part k = s.part k := rfl
@[simp] theorem channel_of_setFront (s : State) (f : Nat) (v : Front) (k : Nat) : (s.setFront f v).channel k = s.channel k := rfl
@[simp] theorem master_of_setFront (s : State) (f : Nat) (v : Front) (k : Nat) : (s.setFront f v).master k = s.master k := rfl
@[simp] theorem ctx_of_setChannel (s : State) (ch : Nat) (v : Channel) (k : Nat) : (s.setChannel ch v).ctx k = s.ctx k := rfl
@[simp] theorem core_of_setChannel (s : State) (ch : Nat) (v : Channel) (k : Nat) : (s.setChannel ch v).core k = s.core k := rfl
@[simp] theorem die_of_setChannel (s : State) (ch : Nat) (v : Channel) (k : Nat) : (s.setChannel ch v).die k = s.die k := rfl
@[simp] theorem part_of_setChannel (s : State) (ch : Nat) (v : Channel) (k : Nat) : (s.setChannel ch v).part k = s.part k := rfl
@[simp] theorem front_of_setChannel (s : State) (ch : Nat) (v : Channel) (k : Nat) : (s.setChannel ch v).front k = s.front k := rfl
@[simp] theorem master_of_setChannel (s : State) (ch : Nat) (v : Channel) (k : Nat) : (s.setChannel ch v).master k = s.master k := rfl
@[simp] theorem ctx_of_setMaster (s : State) (m : Nat) (v : Master) (k : Nat) : (s.setMaster m v).ctx k = s.ctx k := rfl
@[simp] theorem core_of_setMaster (s : State) (m : Nat) (v : Master) (k : Nat) : (s.setMaster m v).core k = s.core k := rfl
@[simp] theorem die_of_setMaster (s : State) (m : Nat) (v : Master) (k : Nat) : (s.setMaster m v).die k = s.die k := rfl
@[simp] theorem part_of_setMaster (s : State) (m : Nat) (v : Master) (k : Nat) : (s.setMaster m v).part k = s.part k := rfl
@[simp] theorem front_of_setMaster (s : State) (m : Nat) (v : Master) (k : Nat) : (s.setMaster m v).front k = s.front k := rfl
@[simp] theorem channel_of_setMaster (s : State) (m : Nat) (v : Master) (k : Nat) : (s.setMaster m v).channel k = s.channel k := rfl
@[simp] theorem core_of_modCtx (s : State) (x : Nat) (f : Ctx → Ctx) (k : Nat) : (s.modCtx x f).core k = s.core k := rfl
@[simp] theorem die_of_modCtx (s : State) (x : Nat) (f : Ctx → Ctx) (k : Nat) : (s.modCtx x f).die k = s.die k := rfl
@[simp] theorem part_of_modCtx (s : State) (x : Nat) (f : Ctx → Ctx) (k : Nat) : (s.modCtx x f).part k = s.part k := rfl
@[simp] theorem front_of_modCtx (s : State) (x : Nat) (f : Ctx → Ctx) (k : Nat) : (s.modCtx x f).front k = s.front k := rfl
@[simp] theorem channel_of_modCtx (s : State) (x : Nat) (f : Ctx → Ctx) (k : Nat) : (s.modCtx x f).channel k = s.channel k := rfl
@[simp] theorem master_of_modCtx (s : State) (x : Nat) (f : Ctx → Ctx) (k : Nat) : (s.modCtx x f).master k = s.master k := rfl
@[simp] theorem ctx_of_modCore (s : State) (n : Nat) (f : Core → Core) (k : Nat) : (s.modCore n f).ctx k = s.ctx k := rfl
@[simp] theorem die_of_modCore (s : State) (n : Nat) (f : Core → Core) (k : Nat) : (s.modCore n f).die k = s.die k := rfl
@[simp] theorem part_of_modCore (s : State) (n : Nat) (f : Core → Core) (k : Nat) : (s.modCore n f).part k = s.part k := rfl
@[simp] theorem front_of_modCore (s : State) (n : Nat) (f : Core → Core) (k : Nat) : (s.modCore n f).front k = s.front k := rfl
@[simp] theorem channel_of_modCore (s : State) (n : Nat) (f : Core → Core) (k : Nat) : (s.modCore n f).channel k = s.channel k := rfl
@[simp] theorem master_of_modCore (s : State) (n : Nat) (f : Core → Core) (k : Nat) : (s.modCore n f).master k = s.master k := rfl
@[simp] theorem ctx_of_modDie (s : State) (d : Nat) (f : Die → Die) (k : Nat) : (s.modDie d f).ctx k = s.ctx k := rfl
@[simp] theorem part_of_modDie (s : State) (d : Nat) (f : Die → Die) (k : Nat) : (s.modDie d f).part k = s.part k := rfl
@[simp] theorem front_of_modDie (s : State) (d : Nat) (f : Die → Die) (k : Nat) : (s.modDie d f).front k = s.front k := rfl
@[simp] theorem channel_of_modDie (s : State) (d : Nat) (f : Die → Die) (k : Nat) : (s.modDie d f).channel k = s.channel k := rfl
@[simp] theorem master_of_modDie (s : State) (d : Nat) (f : Die → Die) (k : Nat) : (s.modDie d f).master k = s.master k := rfl
@[simp] theorem ctx_of_modPart (s : State) (p : Nat) (f : Partition → Partition) (k : Nat) : (s.modPart p f).ctx k = s.ctx k := rfl
@[simp] theorem core_of_modPart (s : State) (p : Nat) (f : Partition → Partition) (k : Nat) : (s.modPart p f).core k = s.core k := rfl
@[simp] theorem die_of_modPart (s : State) (p : Nat) (f : Partition → Partition) (k : Nat) : (s.modPart p f).die k = s.die k := rfl
@[simp] theorem front_of_modPart (s : State) (p : Nat) (f : Partition → Partition) (k : Nat) : (s.modPart p f).front k = s.front k := rfl
@[simp] theorem channel_of_modPart (s : State) (p : Nat) (f : Partition → Partition) (k : Nat) : (s.modPart p f).channel k = s.channel k := rfl
@[simp] theorem master_of_modPart (s : State) (p : Nat) (f : Partition → Partition) (k : Nat) : (s.modPart p f).master k = s.master k := rfl
@[simp] theorem ctx_of_modFront (s : State) (n : Nat) (f : Front → Front) (k : Nat) : (s.modFront n f).ctx k = s.ctx k := rfl
@[simp] theorem core_of_modFront (s : State) (n : Nat) (f : Front → Front) (k : Nat) : (s.modFront n f).core k = s.core k := rfl
@[simp] theorem die_of_modFront (s : State) (n : Nat) (f : Front → Front) (k : Nat) : (s.modFront n f).die k = s.die k := rfl
@[simp] theorem part_of_modFront (s : State) (n : Nat) (f : Front → Front) (k : Nat) : (s.modFront n f).part k = s.part k := rfl
@[simp] theorem channel_of_modFront (s : State) (n : Nat) (f : Front → Front) (k : Nat) : (s.modFront n f).channel k = s.channel k := rfl
@[simp] theorem master_of_modFront (s : State) (n : Nat) (f : Front → Front) (k : Nat) : (s.modFront n f).master k = s.master k := rfl
@[simp] theorem ctx_of_modMaster (s : State) (m : Nat) (f : Master → Master) (k : Nat) : (s.modMaster m f).ctx k = s.ctx k := rfl
@[simp] theorem core_of_modMaster (s : State) (m : Nat) (f : Master → Master) (k : Nat) : (s.modMaster m f).core k = s.core k := rfl
@[simp] theorem die_of_modMaster (s : State) (m : Nat) (f : Master → Master) (k : Nat) : (s.modMaster m f).die k = s.die k := rfl
@[simp] theorem part_of_modMaster (s : State) (m : Nat) (f : Master → Master) (k : Nat) : (s.modMaster m f).part k = s.part k := rfl
@[simp] theorem front_of_modMaster (s : State) (m : Nat) (f : Master → Master) (k : Nat) : (s.modMaster m f).front k = s.front k := rfl
@[simp] theorem channel_of_modMaster (s : State) (m : Nat) (f : Master → Master) (k : Nat) : (s.modMaster m f).channel k = s.channel k := rfl
@[simp] theorem ctx_of_modStore (s : State) (n : Nat) (f : CoreStore → CoreStore) (k : Nat) : (s.modStore n f).ctx k = s.ctx k := rfl
@[simp] theorem die_of_modStore (s : State) (n : Nat) (f : CoreStore → CoreStore) (k : Nat) : (s.modStore n f).die k = s.die k := rfl
@[simp] theorem part_of_modStore (s : State) (n : Nat) (f : CoreStore → CoreStore) (k : Nat) : (s.modStore n f).part k = s.part k := rfl
@[simp] theorem front_of_modStore (s : State) (n : Nat) (f : CoreStore → CoreStore) (k : Nat) : (s.modStore n f).front k = s.front k := rfl
@[simp] theorem channel_of_modStore (s : State) (n : Nat) (f : CoreStore → CoreStore) (k : Nat) : (s.modStore n f).channel k = s.channel k := rfl
@[simp] theorem master_of_modStore (s : State) (n : Nat) (f : CoreStore → CoreStore) (k : Nat) : (s.modStore n f).master k = s.master k := rfl
@[simp] theorem core_of_modMem (s : State) (x : Nat) (f : CtxMem → CtxMem) (k : Nat) : (s.modMem x f).core k = s.core k := rfl
@[simp] theorem die_of_modMem (s : State) (x : Nat) (f : CtxMem → CtxMem) (k : Nat) : (s.modMem x f).die k = s.die k := rfl
@[simp] theorem part_of_modMem (s : State) (x : Nat) (f : CtxMem → CtxMem) (k : Nat) : (s.modMem x f).part k = s.part k := rfl
@[simp] theorem front_of_modMem (s : State) (x : Nat) (f : CtxMem → CtxMem) (k : Nat) : (s.modMem x f).front k = s.front k := rfl
@[simp] theorem channel_of_modMem (s : State) (x : Nat) (f : CtxMem → CtxMem) (k : Nat) : (s.modMem x f).channel k = s.channel k := rfl
@[simp] theorem master_of_modMem (s : State) (x : Nat) (f : CtxMem → CtxMem) (k : Nat) : (s.modMem x f).master k = s.master k := rfl
@[simp] theorem core_of_modIss (s : State) (x : Nat) (f : CtxIssue → CtxIssue) (k : Nat) : (s.modIss x f).core k = s.core k := rfl
@[simp] theorem die_of_modIss (s : State) (x : Nat) (f : CtxIssue → CtxIssue) (k : Nat) : (s.modIss x f).die k = s.die k := rfl
@[simp] theorem part_of_modIss (s : State) (x : Nat) (f : CtxIssue → CtxIssue) (k : Nat) : (s.modIss x f).part k = s.part k := rfl
@[simp] theorem front_of_modIss (s : State) (x : Nat) (f : CtxIssue → CtxIssue) (k : Nat) : (s.modIss x f).front k = s.front k := rfl
@[simp] theorem channel_of_modIss (s : State) (x : Nat) (f : CtxIssue → CtxIssue) (k : Nat) : (s.modIss x f).channel k = s.channel k := rfl
@[simp] theorem master_of_modIss (s : State) (x : Nat) (f : CtxIssue → CtxIssue) (k : Nat) : (s.modIss x f).master k = s.master k := rfl
@[simp] theorem core_of_modTrap (s : State) (x : Nat) (f : CtxTrap → CtxTrap) (k : Nat) : (s.modTrap x f).core k = s.core k := rfl
@[simp] theorem die_of_modTrap (s : State) (x : Nat) (f : CtxTrap → CtxTrap) (k : Nat) : (s.modTrap x f).die k = s.die k := rfl
@[simp] theorem part_of_modTrap (s : State) (x : Nat) (f : CtxTrap → CtxTrap) (k : Nat) : (s.modTrap x f).part k = s.part k := rfl
@[simp] theorem front_of_modTrap (s : State) (x : Nat) (f : CtxTrap → CtxTrap) (k : Nat) : (s.modTrap x f).front k = s.front k := rfl
@[simp] theorem channel_of_modTrap (s : State) (x : Nat) (f : CtxTrap → CtxTrap) (k : Nat) : (s.modTrap x f).channel k = s.channel k := rfl
@[simp] theorem master_of_modTrap (s : State) (x : Nat) (f : CtxTrap → CtxTrap) (k : Nat) : (s.modTrap x f).master k = s.master k := rfl
@[simp] theorem ctx_of_modCur (s : State) (f : Issue → Issue) (k : Nat) : (s.modCur f).ctx k = s.ctx k := rfl
@[simp] theorem core_of_modCur (s : State) (f : Issue → Issue) (k : Nat) : (s.modCur f).core k = s.core k := rfl
@[simp] theorem die_of_modCur (s : State) (f : Issue → Issue) (k : Nat) : (s.modCur f).die k = s.die k := rfl
@[simp] theorem part_of_modCur (s : State) (f : Issue → Issue) (k : Nat) : (s.modCur f).part k = s.part k := rfl
@[simp] theorem front_of_modCur (s : State) (f : Issue → Issue) (k : Nat) : (s.modCur f).front k = s.front k := rfl
@[simp] theorem channel_of_modCur (s : State) (f : Issue → Issue) (k : Nat) : (s.modCur f).channel k = s.channel k := rfl
@[simp] theorem master_of_modCur (s : State) (f : Issue → Issue) (k : Nat) : (s.modCur f).master k = s.master k := rfl
@[simp] theorem core_of_setCtl (s : State) (x num : Nat) (v : BitVec 64) (k : Nat) : (s.setCtl x num v).core k = s.core k := rfl
@[simp] theorem die_of_setCtl (s : State) (x num : Nat) (v : BitVec 64) (k : Nat) : (s.setCtl x num v).die k = s.die k := rfl
@[simp] theorem part_of_setCtl (s : State) (x num : Nat) (v : BitVec 64) (k : Nat) : (s.setCtl x num v).part k = s.part k := rfl
@[simp] theorem front_of_setCtl (s : State) (x num : Nat) (v : BitVec 64) (k : Nat) : (s.setCtl x num v).front k = s.front k := rfl
@[simp] theorem channel_of_setCtl (s : State) (x num : Nat) (v : BitVec 64) (k : Nat) : (s.setCtl x num v).channel k = s.channel k := rfl
@[simp] theorem master_of_setCtl (s : State) (x num : Nat) (v : BitVec 64) (k : Nat) : (s.setCtl x num v).master k = s.master k := rfl
@[simp] theorem ctx_of_schedule (s : State) (lat : Nat) (fl : BitVec 5) (w : Write) (k : Nat) : (s.schedule lat fl w).ctx k = s.ctx k := rfl
@[simp] theorem die_of_schedule (s : State) (lat : Nat) (fl : BitVec 5) (w : Write) (k : Nat) : (s.schedule lat fl w).die k = s.die k := rfl
@[simp] theorem part_of_schedule (s : State) (lat : Nat) (fl : BitVec 5) (w : Write) (k : Nat) : (s.schedule lat fl w).part k = s.part k := rfl
@[simp] theorem front_of_schedule (s : State) (lat : Nat) (fl : BitVec 5) (w : Write) (k : Nat) : (s.schedule lat fl w).front k = s.front k := rfl
@[simp] theorem channel_of_schedule (s : State) (lat : Nat) (fl : BitVec 5) (w : Write) (k : Nat) : (s.schedule lat fl w).channel k = s.channel k := rfl
@[simp] theorem master_of_schedule (s : State) (lat : Nat) (fl : BitVec 5) (w : Write) (k : Nat) : (s.schedule lat fl w).master k = s.master k := rfl

/-- A core that has held nothing goes on with its die (07 R159, 23 R394); a change of another die leaves every core alone. -/
theorem core_of_setDie (s : State) (d n : Nat) (v : Die) (h : n / 96 ≠ d) : (s.setDie d v).core n = s.core n := by
  simp [core, quietCore, die, setDie, Tab.get_put_other _ _ _ _ _ h]

theorem core_of_modDie (s : State) (d n : Nat) (f : Die → Die) (h : n / 96 ≠ d) : (s.modDie d f).core n = s.core n :=
  core_of_setDie _ _ _ _ h


/-! ### Registers and control registers -/

@[simp] theorem regS_zero (s : State) (x : Nat) : s.regS x 0 = 0 := rfl

@[simp] theorem writeS_zero (s : State) (lat : Nat) (v : BitVec 64) : s.writeS 0 lat v = s := rfl

theorem writeS_of_ne (s : State) (r : BitVec 6) (lat : Nat) (v : BitVec 64) (h : r ≠ 0) :
    s.writeS r lat v = s.schedule lat 0 (.scalar r.toNat v) := if_neg h

@[simp] theorem ctl_setCtl (s : State) (x num : Nat) (v : BitVec 64) : (s.setCtl x num v).ctl x num = v := by
  simp [ctl, setCtl]

theorem ctl_setCtl_other (s : State) (x num k : Nat) (v : BitVec 64) (h : k ≠ num) :
    (s.setCtl x num v).ctl x k = s.ctl x k := by
  simp [ctl, setCtl, Tab.get_put_other _ _ _ _ _ h]

theorem ctl_setCtl_ctx (s : State) (x y num k : Nat) (v : BitVec 64) (h : y ≠ x) :
    (s.setCtl x num v).ctl y k = s.ctl y k := by
  simp [ctl, setCtl, ctx_modCtx_other _ _ _ _ h]

end Machine.State
end Sys2Proof
end

