-- ==== Sys2Proof/Laws/Memory.lean ====
section
/-! SUPPORT. Memories: a read after a write, and that every write keeps the canonical form. -/

namespace Sys2Proof.Machine

namespace Memory

@[simp] theorem get_set_same (m : Memory) (a : Nat) (v : BitVec 8) (h : m.wf = true) : (m.set a v).get a = v := by
  suffices H : ∀ lo, wfFrom lo m = true → (m.set a v).get a = v from H 0 h
  clear h
  induction m with
  | nil =>
    intro lo _
    by_cases hv : v = 0
    · subst hv; rfl
    · simp only [set, if_neg hv, get, if_true]
  | cons c t ih =>
    intro lo h
    obtain ⟨j, b⟩ := c
    simp only [wfFrom, Bool.and_eq_true, decide_eq_true_eq] at h
    have above : ∀ (t : Memory) (lo a : Nat), wfFrom lo t = true → a < lo → t.get a = 0 := by
      intro t
      induction t with
      | nil => intro _ _ _ _; rfl
      | cons c t ih =>
        intro lo a h ha
        obtain ⟨i, b⟩ := c
        simp only [wfFrom, Bool.and_eq_true, decide_eq_true_eq] at h
        have : i ≠ a := by omega
        simp only [get, this, if_false]
        exact ih (i + 1) a h.2 (by omega)
    by_cases h1 : a < j
    · by_cases hv : v = 0
      · have hj : j ≠ a := by omega
        simp only [set, h1, hv, if_true, get, hj, if_false]
        exact above t (j + 1) a h.2 (by omega)
      · simp only [set, if_pos h1, if_neg hv, get, if_true]
    · by_cases h2 : j = a
      · subst h2
        by_cases hv : v = 0
        · simp only [set, h1, hv, if_true, if_false]
          exact above t (j + 1) j h.2 (by omega)
        · simp only [set, h1, if_true, if_false, if_neg hv, get]
      · simp only [set, h1, h2, if_false, get]
        exact ih (j + 1) h.2

theorem get_set_other (m : Memory) (a i : Nat) (v : BitVec 8) (h : i ≠ a) : (m.set a v).get i = m.get i := by
  induction m with
  | nil => by_cases hv : v = 0 <;> simp only [set, get, hv, Ne.symm h, if_true, if_false]
  | cons c t ih =>
    obtain ⟨j, b⟩ := c
    by_cases h1 : a < j
    · by_cases hv : v = 0 <;> simp only [set, h1, hv, get, Ne.symm h, if_true, if_false]
    · by_cases h2 : j = a
      · subst h2
        by_cases hv : v = 0 <;> simp only [set, h1, hv, get, Ne.symm h, if_true, if_false]
      · by_cases h3 : j = i
        · subst h3; simp [set, h1, h2, get]
        · simp [set, h1, h2, get, h3, ih]

theorem wfFrom_mono (m : Memory) (lo hi : Nat) (h : wfFrom hi m = true) (hl : lo ≤ hi) : wfFrom lo m = true := by
  cases m with
  | nil => rfl
  | cons c t =>
    obtain ⟨j, b⟩ := c
    simp only [wfFrom, Bool.and_eq_true, decide_eq_true_eq] at h ⊢
    exact ⟨⟨by omega, h.1.2⟩, h.2⟩

theorem wfFrom_set (m : Memory) (lo a : Nat) (v : BitVec 8) (h : wfFrom lo m = true) (ha : lo ≤ a) :
    wfFrom lo (m.set a v) = true := by
  induction m generalizing lo with
  | nil =>
    by_cases hv : v = 0
    · subst hv; rfl
    · simp only [set, if_neg hv, wfFrom, Bool.and_eq_true, decide_eq_true_eq]
      exact ⟨⟨ha, by simpa using hv⟩, trivial⟩
  | cons c t ih =>
    obtain ⟨j, b⟩ := c
    have h' := h
    simp only [wfFrom, Bool.and_eq_true, decide_eq_true_eq] at h
    by_cases h1 : a < j
    · by_cases hv : v = 0
      · simpa [set, h1, hv] using h'
      · simp only [set, h1, hv, if_true, if_false, wfFrom, Bool.and_eq_true, decide_eq_true_eq]
        exact ⟨⟨ha, by simpa using hv⟩, ⟨by omega, h.1.2⟩, h.2⟩
    · by_cases h2 : j = a
      · subst h2
        by_cases hv : v = 0
        · simp only [set, h1, hv, if_true, if_false]
          exact wfFrom_mono t lo (j + 1) h.2 (by omega)
        · simp only [set, h1, hv, if_true, if_false, wfFrom, Bool.and_eq_true, decide_eq_true_eq]
          exact ⟨⟨ha, by simpa using hv⟩, h.2⟩
      · simp only [set, h1, h2, if_false, wfFrom, Bool.and_eq_true, decide_eq_true_eq]
        exact ⟨h.1, ih (j + 1) h.2 (by omega)⟩

theorem wf_set (m : Memory) (a : Nat) (v : BitVec 8) (h : m.wf = true) : (m.set a v).wf = true :=
  wfFrom_set m 0 a v h (Nat.zero_le a)

theorem wf_write (m : Memory) (a : Nat) (bs : List (BitVec 8)) (h : m.wf = true) : (m.write a bs).wf = true := by
  induction bs generalizing m a with
  | nil => exact h
  | cons b bs ih => exact ih _ _ (wf_set m a b h)

theorem get_write_outside (m : Memory) (a i : Nat) (bs : List (BitVec 8)) (h : i < a ∨ a + bs.length ≤ i) :
    (m.write a bs).get i = m.get i := by
  induction bs generalizing m a with
  | nil => rfl
  | cons b bs ih =>
    simp only [List.length_cons] at h
    simp only [write]
    rw [ih _ _ (by omega), get_set_other _ _ _ _ (by omega)]

theorem get_write (m : Memory) (a k : Nat) (bs : List (BitVec 8)) (h : m.wf = true) (hk : k < bs.length) :
    (m.write a bs).get (a + k) = bs.getD k 0 := by
  induction bs generalizing m a k with
  | nil => simp at hk
  | cons b bs ih =>
    simp only [write]
    cases k with
    | zero => rw [get_write_outside _ _ _ _ (by omega)]; simp [h]
    | succ k =>
      have := ih (m.set a b) (a + 1) k (wf_set m a b h) (by simpa using hk)
      rw [show a + (k + 1) = a + 1 + k by omega, this]
      simp

theorem wf_filter (m : Memory) (p : Host.Cell → Bool) (h : m.wf = true) : (wf (m.filter p)) = true := by
  suffices H : ∀ lo, wfFrom lo m = true → wfFrom lo (m.filter p) = true from H 0 h
  clear h
  induction m with
  | nil => intro _ _; rfl
  | cons c t ih =>
    intro lo h
    obtain ⟨j, b⟩ := c
    simp only [wfFrom, Bool.and_eq_true, decide_eq_true_eq] at h
    by_cases hp : p (j, b) = true
    · simp only [List.filter, hp, wfFrom, Bool.and_eq_true, decide_eq_true_eq]
      exact ⟨h.1, ih _ h.2⟩
    · simp only [List.filter, hp]
      exact wfFrom_mono _ lo (j + 1) (ih _ h.2) (by omega)

theorem wf_foldSet {α : Type} (l : List α) (m : Memory) (a : α → Nat) (v : α → BitVec 8) (h : m.wf = true) :
    (l.foldl (fun m i => m.set (a i) (v i)) m).wf = true := by
  induction l generalizing m with
  | nil => exact h
  | cons c l ih => exact ih _ (wf_set m _ _ h)

end Memory

end Sys2Proof.Machine
end

