-- ==== Sys2Proof/Laws/Mend.lean ====
section
/-! SUPPORT. What the correction of single-bit errors may change: once, for every read that corrects them (08 R181). -/

namespace Sys2Proof.Machine
open State

namespace OnlyMended

theorem refl (a : CoreStore) : OnlyMended a a := ⟨rfl, fun _ h => ⟨h, fun _ => .inl rfl⟩⟩

theorem trans {a b c : CoreStore} (h : OnlyMended a b) (k : OnlyMended b c) : OnlyMended a c := by
  refine ⟨by have := h.1; have := k.1; cases a; cases b; cases c; simp_all, fun sp w => ?_⟩
  obtain ⟨wb, hb⟩ := h.2 sp w
  obtain ⟨wc, hc⟩ := k.2 sp wb
  refine ⟨wc, fun i => ?_⟩
  rcases hc i with e | ⟨e, z⟩
  · rw [e]; exact hb i
  · rcases hb i with f | ⟨_, f⟩
    · exact .inr ⟨f ▸ e, z⟩
    · rw [f] at e; simp at e

/-- The correction of one single-bit error. -/
theorem put (a : CoreStore) (sp : State.Space) (i : Nat) (h : (sp.codes a).get i = 2) :
    OnlyMended a (sp.put a ((sp.codes a).set i 0)) := by
  have key : ∀ m : Memory, m.get i = 2 → m.wf = true → (m.set i 0).wf = true ∧
      ∀ j, (m.set i 0).get j = m.get j ∨ (m.get j = 2 ∧ (m.set i 0).get j = 0) := fun m hm w =>
    ⟨Memory.wf_set m i 0 w, fun j => if e : j = i then .inr (by subst e; exact ⟨hm, Memory.get_set_same m j 0 w⟩)
      else .inl (Memory.get_set_other m i j 0 e)⟩
  refine ⟨by cases sp <;> rfl, fun q w => ?_⟩
  cases sp <;> cases q <;> first | exact key _ h w | exact ⟨w, fun _ => .inl rfl⟩

end OnlyMended

namespace LogsOnly

theorem refl (s : State) : LogsOnly s s := ⟨rfl, rfl⟩

theorem trans {s t u : State} (h : LogsOnly s t) (k : LogsOnly t u) : LogsOnly s u :=
  ⟨by rw [k.1, h.1], k.2.trans h.2⟩

end LogsOnly

/-- A notice touches no field of a master but its vectors. -/
theorem notice_logsOnly (s : State) (p v : Nat) : LogsOnly s (s.notice p v) := by
  refine ⟨rfl, ?_⟩
  simp only [State.notice, List.map_map]
  refine List.map_congr_left fun m _ => ?_
  simp only [Function.comp_apply]; split <;> rfl

/-- A record of the device error log, and what goes with it. -/
theorem logRecord_logsOnly (s : State) (r : LogRecord) : LogsOnly s (s.logRecord r) := by
  simp only [logRecord]; split
  · exact LogsOnly.trans ⟨rfl, rfl⟩ (notice_logsOnly ..)
  · exact ⟨rfl, rfl⟩

/-- A record of the device error log changes no other part of a state. -/
theorem logRecord_eq (s : State) (r : LogRecord) :
    s.logRecord r = { s with recs := (s.logRecord r).recs, masters := (s.logRecord r).masters } := by
  simp only [logRecord]; split <;> rfl

namespace Mended

theorem refl (s : State) (n : Nat) : Mended s s n := ⟨rfl, .refl s, fun _ _ => rfl, rfl, .refl _⟩

theorem trans {s t u : State} {n : Nat} (h : Mended s t n) (k : Mended t u n) : Mended s u n := by
  refine ⟨by rw [k.1, h.1], h.2.1.trans k.2.1, fun m hm => (k.2.2.1 m hm).trans (h.2.2.1 m hm),
    by rw [k.2.2.2.1, h.2.2.2.1], h.2.2.2.2.trans k.2.2.2.2⟩

end Mended

/-- Correcting the single-bit errors of sectors changes what a read may change, and nothing else (08 R181). -/
theorem mend_mended (s : State) (n : Nat) (sp : State.Space) (secs : List Nat) : Mended s (s.mend n sp secs) n := by
  have one : ∀ (t : State) (i : Nat), Mended t (if (sp.codes (t.core n).st).get i = 2 then
      (t.modStore n fun st => sp.put st ((sp.codes st).set i 0)).logStore n 1 i else t) n := by
    intro t i
    split
    · next h =>
      let f := fun (c : Core) => { c with st := sp.put c.st ((sp.codes c.st).set i 0) }
      have l : (t.modCore n f).logStore n 1 i
          = { t.modCore n f with recs := ((t.modCore n f).logStore n 1 i).recs, masters := ((t.modCore n f).logStore n 1 i).masters } :=
        logRecord_eq ..
      have q : ∀ m, ((t.modCore n f).logStore n 1 i).core m = (t.modCore n f).core m := fun m => by rw [l]; rfl
      have e := (q n).trans (core_modCore t n f)
      refine ⟨by rw [show (t.modStore n _).logStore n 1 i = (t.modCore n f).logStore n 1 i from rfl, l]; rfl,
        LogsOnly.trans (t := t.modCore n f) ⟨rfl, rfl⟩ (logRecord_logsOnly ..),
        fun m hm => (q m).trans (core_modCore_other t n m f hm), ?_, ?_⟩
      · rw [show (t.modStore n _).logStore n 1 i = (t.modCore n f).logStore n 1 i from rfl, e]
      · rw [show (t.modStore n _).logStore n 1 i = (t.modCore n f).logStore n 1 i from rfl, e]; exact .put _ sp i h
    · exact .refl t n
  unfold mend
  split
  · exact .refl s n
  · generalize hs : s = t
    clear hs
    induction secs generalizing t with
    | nil => exact .refl t n
    | cons i is ih => exact (one t i).trans (ih _)
end Sys2Proof.Machine
end

