-- ==== Sys2Proof/Laws/Ops.lean ====
section
/-! SUPPORT. What each shared operation can do, said once: traps and waits of the issuing slot, results on the way, and what
keeps memory's bytes or its canonical form. -/

namespace Sys2Proof.Machine

/-- Memory and its poison are as before. -/
def State.SameBytes (s t : State) : Prop := t.mem = s.mem ∧ t.poison = s.poison

/-- Memory and its poison are in canonical form. -/
def State.Form (s : State) : Prop := s.mem.wf = true ∧ s.poison.wf = true

namespace State

theorem SameBytes.refl (s : State) : SameBytes s s := ⟨rfl, rfl⟩

theorem SameBytes.trans {s t u : State} (h : SameBytes s t) (k : SameBytes t u) : SameBytes s u :=
  ⟨k.1.trans h.1, k.2.trans h.2⟩

theorem SameBytes.form {s t : State} (h : SameBytes s t) (k : s.Form) : t.Form := by
  rw [Form, h.1, h.2]; exact k

theorem form_ite {s t : State} (c : Prop) [Decidable c] (h : s.Form) (k : t.Form) : (if c then s else t).Form := by
  split
  · exact h
  · exact k

theorem sameBytes_foldl {α : Type} (f : State → α → State) (hf : ∀ s a, SameBytes s (f s a)) (l : List α) (s : State) :
    SameBytes s (l.foldl f s) := by
  induction l generalizing s with
  | nil => exact .refl s
  | cons a l ih => exact (hf s a).trans (ih _)

theorem form_foldl {α : Type} (f : State → α → State) (hf : ∀ s a, s.Form → (f s a).Form) (l : List α) (s : State)
    (h : s.Form) : (l.foldl f s).Form := by
  induction l generalizing s with
  | nil => exact h
  | cons a l ih => exact ih _ (hf s a h)

/-! ### Traps and waits of the issuing slot (00 R9, 02 R37, 14 R286) -/

theorem raise_live (s : State) (t : Trap) (h : s.cur.live = true) :
    s.raise t = s.modCur fun c => { c with faults := c.faults ++ [t] } := by simp [raise, h]

theorem raise_card (s : State) (t : Trap) (h : s.cur.card.isSome = true) :
    s.raise t = s.modCur fun c => { c with faults := c.faults ++ [t] } := by simp [raise, h]

theorem raise_alone (s : State) (t : Trap) (h : s.cur.live = false) (k : s.cur.card = none) :
    ∃ done, s.raise t = s.takeTrap s.cur.ctx t (bundleAddr s.cur.pc) (bundleAddr (s.cur.pc + 1))
      (tdoneOf done 0 (decide (s.cur.kind = .tree)))
      { noStop with delivery := .precise, words := oneSlotWords s.cur.slot s.cur.word, pc := s.cur.pc, done := done } :=
  ⟨~~~(1#10 <<< s.cur.slot), by simp only [raise, h, k, Option.isSome_none, Bool.or_self, Bool.false_eq_true, if_false]⟩

theorem blockFor_live (s : State) (w : WaitFor) (h : s.cur.live = true) :
    s.blockFor w = s.modCur fun c => { c with retry := some (WaitFor.over c.retry w), least := min c.least w.cause } := by
  simp [blockFor, h]

theorem needGrant_ok (s : State) (rs : List Nat) (ok : State) (h : ∀ r ∈ rs, r < s.grant s.cur.ctx) :
    s.needGrant rs ok = ok := by
  have : s.beyondGrant rs = none := List.find?_eq_none.mpr fun r hr => by simp [granted, h r hr]
  simp [needGrant, this]

theorem needGrant_cases (s : State) (rs : List Nat) (ok : State) :
    s.needGrant rs ok = ok ∨ ∃ r ∈ rs, s.grant s.cur.ctx ≤ r ∧ s.needGrant rs ok = s.trapGrant r := by
  cases h : s.beyondGrant rs with
  | none => exact .inl (by simp [needGrant, h])
  | some r =>
    have h2 : s.grant s.cur.ctx ≤ r := by simpa [granted] using List.find?_some h
    exact .inr ⟨r, List.mem_of_find?_eq_some h, h2, by simp [needGrant, h]⟩

/-! ### Results on the way (02 R38) -/

theorem mem_insertLanding (l k : Landing) (t : List Landing) : k ∈ insertLanding l t ↔ k = l ∨ k ∈ t := by
  induction t with
  | nil => simp [insertLanding]
  | cons a t ih =>
    simp only [insertLanding]
    split
    · simp
    · simp only [List.mem_cons, ih, or_left_comm]

/-- What schedule does: one result more on the issuing core, everything there as before, one issue counted. -/
theorem schedule_landings (s : State) (lat : Nat) (fl : BitVec 5) (w : Write) :
    ((s.schedule lat fl w).core s.cur.core).landings
      = insertLanding ⟨s.cyc s.cur.core + lat, (s.core s.cur.core).iss.seq, s.cur.ctx % 8, fl, w⟩
          (s.core s.cur.core).landings := by
  simp [schedule, core, modCore, setCore]

theorem landDue_none (s : State) (n : Nat) (h : ∀ l ∈ (s.core n).landings, s.cyc n < l.cycle) : s.landDue n = s := by
  have : ((s.core n).landings.filter fun l => decide (l.cycle ≤ s.cyc n)) = [] :=
    List.filter_eq_nil_iff.mpr fun l hl => by simpa using h l hl
  simp [landDue, this]

/-! ### Operations that leave memory's bytes alone -/

theorem schedule_same (s : State) (lat : Nat) (fl : BitVec 5) (w : Write) : SameBytes s (s.schedule lat fl w) := ⟨rfl, rfl⟩

theorem writeS_same (s : State) (r : BitVec 6) (lat : Nat) (v : BitVec 64) : SameBytes s (s.writeS r lat v) := by
  unfold writeS; split
  · exact .refl s
  · exact schedule_same ..

theorem setRegS_same (s : State) (x r : Nat) (v : BitVec 64) : SameBytes s (s.setRegS x r v) := by
  unfold setRegS; split
  · exact .refl s
  · exact ⟨rfl, rfl⟩

theorem setRegV_same (s : State) (x r : Nat) (m : BitVec 1024) (v : BitVec 8192) : SameBytes s (s.setRegV x r m v) := ⟨rfl, rfl⟩

theorem setRegK_same (s : State) (x r : Nat) (m v : BitVec 1024) : SameBytes s (s.setRegK x r m v) := by
  unfold setRegK; split
  · exact .refl s
  · exact ⟨rfl, rfl⟩

theorem orFlags_same (s : State) (x : Nat) (f : BitVec 5) : SameBytes s (s.orFlags x f) := by
  unfold orFlags; split
  · exact .refl s
  · exact ⟨rfl, rfl⟩

theorem ite_same {s t u : State} (c : Prop) [Decidable c] (h : SameBytes s t) (k : SameBytes s u) :
    SameBytes s (if c then t else u) := by
  split
  · exact h
  · exact k

theorem landCtl_same (s : State) (x num : Nat) (v : BitVec 64) : SameBytes s (s.landCtl x num v) :=
  ite_same _ ⟨rfl, rfl⟩ ⟨rfl, rfl⟩

theorem notice_same (s : State) (p v : Nat) : SameBytes s (s.notice p v) := ⟨rfl, rfl⟩

theorem logRecord_same (s : State) (r : LogRecord) : SameBytes s (s.logRecord r) := by
  simp only [logRecord]; split <;> exact ⟨rfl, rfl⟩

theorem log_same (s : State) (source code p addr : Nat) : SameBytes s (s.log source code p addr) := logRecord_same ..

theorem logStore_same (s : State) (n code i : Nat) : SameBytes s (s.logStore n code i) := log_same ..

theorem mend_same (s : State) (n : Nat) (sp : Space) (is : List Nat) : SameBytes s (s.mend n sp is) := by
  refine ite_same _ (.refl s) (sameBytes_foldl _ (fun s i => ?_) _ _)
  exact ite_same _ (.trans ⟨rfl, rfl⟩ (logStore_same ..)) (.refl s)

theorem noteWrite_same (s : State) (n : Nat) (sp : Space) (rs : List (Nat × Nat)) : SameBytes s (s.noteWrite n sp rs) := by
  refine ite_same _ (.refl s) (sameBytes_foldl _ (fun s i => ?_) _ _)
  exact ite_same _ (.refl s) (ite_same _ (logStore_same ..) (ite_same _ (logStore_same ..) (.refl s)))

theorem landIn_same (s : State) (n : Nat) (w : Write) : SameBytes s
    (let s := s.mend n .acc (Write.reads w)
     let s := match Write.ranges w with | some q => s.noteWrite n q.1 q.2 | none => s
     s.modStore n fun st => landStore st w) := by
  refine (mend_same s n .acc (Write.reads w)).trans (SameBytes.trans (t := match Write.ranges w with
    | some q => (s.mend n .acc (Write.reads w)).noteWrite n q.1 q.2 | none => s.mend n .acc (Write.reads w)) ?_ ⟨rfl, rfl⟩)
  split
  · exact noteWrite_same ..
  · exact .refl _

theorem land_same (s : State) (n : Nat) (l : Landing) : SameBytes s (s.land n l) := by
  refine SameBytes.trans ?_ (orFlags_same ..)
  have k := landIn_same s n l.what
  revert k
  cases l.what <;> intro k <;> first
    | exact setRegS_same .. | exact setRegV_same .. | exact setRegK_same .. | exact landCtl_same .. | exact k

theorem landDue_same (s : State) (n : Nat) : SameBytes s (s.landDue n) := by
  simp only [landDue]; split
  · exact .refl s
  · exact SameBytes.trans (t := s.modCore n _) ⟨rfl, rfl⟩ (sameBytes_foldl _ (fun s l => land_same s n l) _ _)

theorem setTag_same (s : State) (x t : Nat) (f : Tag → Tag) : SameBytes s (s.setTag x t f) := ⟨rfl, rfl⟩

theorem bindTag_same (s : State) (x t : Nat) : SameBytes s (s.bindTag x t) := ⟨rfl, rfl⟩

theorem completeTag_same (s : State) (x t st : Nat) (fa : BitVec 64) : SameBytes s (s.completeTag x t st fa) := ⟨rfl, rfl⟩

theorem giveSample_same (s : State) (x src d : Nat) : SameBytes s (s.giveSample x src d) := by
  simp only [giveSample]; split
  · exact ⟨rfl, rfl⟩
  · split <;> exact ⟨rfl, rfl⟩

theorem pend_same (s : State) (x : Nat) (t : Trap) : SameBytes s (s.pend x t) := ⟨rfl, rfl⟩

theorem pendLight_same (s : State) (x b : Nat) (i : BitVec 64) : SameBytes s (s.pendLight x b i) := ⟨rfl, rfl⟩

theorem releaseUnit_same (s : State) (x : Nat) : SameBytes s (s.releaseUnit x) := by
  simp only [releaseUnit]; split
  · exact ⟨rfl, rfl⟩
  · exact .refl s

theorem snapshot_same (s : State) (x : Nat) : SameBytes s (s.snapshot x) := ⟨rfl, rfl⟩

theorem dropSnapshot_same (s : State) (x : Nat) : SameBytes s (s.dropSnapshot x) := ⟨rfl, rfl⟩

theorem sendMessage_same (s : State) (x : Nat) : SameBytes s (s.sendMessage x) := by
  simp only [sendMessage]
  refine ite_same _ (notice_same ..) (ite_same _ ?_ ⟨rfl, rfl⟩)
  exact SameBytes.trans (t := State.log _ _ _ _ _)
    (SameBytes.trans (t := { s with recs := { s.recs with messages := s.recs.messages ++ [(x, s.trapMessage x)] } })
      ⟨rfl, rfl⟩ (log_same ..)) (notice_same ..)

theorem traceTrigger_same (s : State) (n k : Nat) : SameBytes s (s.traceTrigger n k) := by
  simp only [traceTrigger]; split
  · exact ⟨rfl, rfl⟩
  · exact .refl s

theorem modIss_same (s : State) (x : Nat) (f : CtxIssue → CtxIssue) : SameBytes s (s.modIss x f) := ⟨rfl, rfl⟩

theorem setCtl_same (s : State) (x num : Nat) (v : BitVec 64) : SameBytes s (s.setCtl x num v) := ⟨rfl, rfl⟩

theorem setCtl_two_same (s : State) (x n m : Nat) (v w : BitVec 64) : SameBytes s ((s.setCtl x n v).setCtl x m w) :=
  (setCtl_same ..).trans (setCtl_same ..)

theorem modTrap_same (s : State) (x : Nat) (f : CtxTrap → CtxTrap) : SameBytes s (s.modTrap x f) := ⟨rfl, rfl⟩

theorem takeTrap_same (s : State) (x : Nat) (t : Trap) (a b c : BitVec 64) (st : Stop) :
    SameBytes s (s.takeTrap x t a b c st) := by
  unfold takeTrap
  refine SameBytes.trans ?_ (sendMessage_same ..)
  refine SameBytes.trans ?_ (ite_same _ (.refl _) (traceTrigger_same ..))
  refine SameBytes.trans ?_ (modIss_same ..)
  refine SameBytes.trans ?_ (dropSnapshot_same ..)
  refine SameBytes.trans ?_ (releaseUnit_same ..)
  refine SameBytes.trans ?_ (modTrap_same ..)
  exact ((setCtl_two_same ..).trans (setCtl_two_same ..)).trans (setCtl_two_same ..)

theorem raise_same (s : State) (t : Trap) : SameBytes s (s.raise t) := by
  simp only [raise]; split
  · exact ⟨rfl, rfl⟩
  · exact takeTrap_same ..

theorem trapHere_same (s : State) (c f i : Nat) : SameBytes s (s.trapHere c f i) := raise_same ..

theorem needGrant_same (s : State) (rs : List Nat) (ok : State) (h : SameBytes s ok) : SameBytes s (s.needGrant rs ok) := by
  rcases s.needGrant_cases rs ok with e | ⟨r, -, -, e⟩ <;> rw [e]
  · exact h
  · exact trapHere_same ..

theorem waitFor_same (s : State) (x : Nat) (w : WaitFor) : SameBytes s (s.waitFor x w) :=
  ((ite_same _ (dropSnapshot_same s x) (.refl s)).trans (releaseUnit_same _ x)).trans (modIss_same ..)

theorem blockFor_same (s : State) (w : WaitFor) : SameBytes s (s.blockFor w) := by
  simp only [blockFor]; split
  · exact ⟨rfl, rfl⟩
  · exact waitFor_same ..

theorem widen_same (s : State) (g : Agent) (sc : Nat) (rel : Bool) : SameBytes s (s.widen g sc rel) :=
  ite_same _ (.refl s) ⟨rfl, rfl⟩

theorem queueLine_same (u id : Nat) (s : State) (l : Nat) : SameBytes s (queueLine u id s l) := ite_same _ (.refl s) ⟨rfl, rfl⟩

theorem queueBack_same (s : State) (l : Nat) : SameBytes s (s.queueBack l) := queueLine_same ..

theorem touchL2_same (s : State) (l : Nat) (d : Bool) : SameBytes s (s.touchL2 l d) := by
  unfold touchL2; split
  · refine SameBytes.trans ?_ (sameBytes_foldl (fun s (e : L2Line) => s.queueBack e.line) (fun s e => queueBack_same s e.line) _ _)
    exact ⟨rfl, rfl⟩
  · exact .refl s

theorem touchLines_same (s : State) (ls : List Nat) (d : Bool) : SameBytes s (s.touchLines ls d) :=
  sameBytes_foldl _ (fun s l => touchL2_same s l d) _ _

theorem addRelease_same (s : State) (r : Release) : SameBytes s (s.addRelease r) := by
  unfold addRelease; split
  · exact ⟨rfl, rfl⟩
  · exact .refl s

theorem learn_same (s : State) (x : Nat) (es : List Nat) : SameBytes s (s.learn x es) := ite_same _ (.refl s) ⟨rfl, rfl⟩

theorem retain_same (s : State) (x : Nat) (ls : List Nat) : SameBytes s (s.retain x ls) := by
  simp only [retain]; split
  · exact .refl s
  · refine sameBytes_foldl _ (fun s l => ?_) _ _
    split
    · exact ⟨rfl, rfl⟩
    · exact .refl s

theorem readPath_same (s : State) (es : List (Nat × Nat)) : SameBytes s (s.readPath es) :=
  (touchLines_same s _ _).trans ⟨rfl, rfl⟩

theorem enterLine_same (s : State) (x : Nat) (w : LineWrite) : SameBytes s (s.enterLine x w) := by
  simp only [enterLine]; repeat' split
  all_goals exact ⟨rfl, rfl⟩

theorem storeBytes_same (s : State) (x va a : Nat) (bs : List (BitVec 8)) : SameBytes s (s.storeBytes x va a bs) :=
  sameBytes_foldl _ (fun s l => enterLine_same s x l) _ _

/-! ### Operations that write memory, and keep its form (12 R265) -/

theorem wf_setPoison (p : Memory) (l : List Nat) (h : p.wf = true) : (setPoison p l).wf = true :=
  Memory.wf_foldSet l p id (fun _ => 1) h

theorem publishCells_form (s : State) (w sc u : Nat) (cells : List (Nat × BitVec 8)) (h : s.Form) :
    (s.publishCells w sc u cells).Form := by
  unfold publishCells; split
  · exact h
  · exact (touchLines_same ..).form ⟨Memory.wf_foldSet cells s.mem (·.1) (·.2) h.1, h.2⟩

theorem repairPoison_form (s : State) (cells : List (Nat × BitVec 8)) (h : s.Form) : (s.repairPoison cells).Form := by
  simp only [repairPoison]; split
  · exact h
  · exact ⟨h.1, Memory.wf_filter _ _ h.2⟩

theorem publishAs_form (s : State) (g : Agent) (sc : Nat) (ls : List LineWrite) (rel : Bool) (w : Option Nat) (h : s.Form) :
    (s.publishAs g sc ls rel w).Form := by
  have k (u : State) (hu : u.Form) :
      (if (ls.flatMap poisonSectors).isEmpty then u else { u with poison := setPoison u.poison (ls.flatMap poisonSectors) }).Form := by
    split
    · exact hu
    · exact ⟨hu.1, wf_setPoison _ _ hu.2⟩
  refine k _ (SameBytes.form (ite_same _ (addRelease_same ..) (.refl _)) ?_)
  exact repairPoison_form _ _ (publishCells_form _ _ _ _ _ ((widen_same ..).form h))

theorem publishLines_form (s : State) (x sc : Nat) (ls : List LineWrite) (rel : Bool) (w : Option Nat) (h : s.Form) :
    (s.publishLines x sc ls rel w).Form := (learn_same ..).form (publishAs_form _ _ _ _ _ _ ((retain_same ..).form h))

theorem sysWrite_form (s : State) (a : Nat) (bs : List (BitVec 8)) (h : s.Form) : (s.sysWrite a bs).Form :=
  repairPoison_form _ _ (publishCells_form _ _ _ _ _ h)

theorem markLeaf_form (s : State) (l : Leaf) (wr : Bool) (h : s.Form) : (s.markLeaf l wr).2.Form :=
  form_ite _ h (sysWrite_form _ _ _ h)

theorem hwWalks_form (s : State) (p va n : Nat) (k : Access) (h : s.Form) : (s.hwWalks p va n k).Form := by
  refine form_foldl _ (fun s a hs => ?_) _ _ h
  split
  · unfold logWalk; split
    · exact (log_same ..).form hs
    · exact hs
  · exact form_ite _ (markLeaf_form _ _ _ ((touchLines_same ..).form hs)) hs

theorem hwWrite_form (s : State) (p va : Nat) (bs : List (BitVec 8)) (h : s.Form) : (s.hwWrite p va bs).Form := by
  have k := hwWalks_form s p va bs.length .write h
  have k := repairPoison_form _ ((s.hwWalks p va bs.length .write).hwCells p va bs)
    (publishCells_form _ 0 5 0 ((s.hwWalks p va bs.length .write).hwCells p va bs) k)
  exact SameBytes.form (ite_same _ (.refl _) (log_same ..)) k

theorem sample_form (s : State) (p : Nat) (ws : List Nat) (h : s.Form) : (s.sample p ws).Form := by
  simp only [sample]; split
  · exact h
  · split
    · exact hwWrite_form _ _ _ _ (hwWrite_form _ _ _ _ h)
    · exact hwWrite_form _ _ _ _ h

theorem sampleIf_form (s : State) (p ty x a b : Nat) (h : s.Form) : (s.sampleIf p ty x a b).Form := by
  simp only [sampleIf]; split
  · exact sample_form _ _ _ h
  · exact h

/-! ### Translation (22 R386) -/

theorem translate_form (s t : State) (n p va pa : Nat) (k : Access) (h : s.Form) (e : s.translate n p va k = .ok (pa, t)) :
    t.Form := by
  simp only [translate] at e
  split at e
  · cases e
  · split at e
    · split at e <;> cases e; exact h
    · split at e
      · split at e <;> cases e
        exact SameBytes.form (s := s) ⟨rfl, rfl⟩ h
      · cases e
      · split at e <;> cases e
        exact SameBytes.form (s := ((s.readPath _).markLeaf _ _).2) ⟨rfl, rfl⟩ (markLeaf_form _ _ _ ((readPath_same ..).form h))

theorem translatePages_form (n p : Nat) (k : Access) (stop : Nat) (vas : List Nat) (s t : State) (l : List (Nat × Nat))
    (h : s.Form) (e : translatePages n p k stop vas s = .ok (l, t)) : t.Form := by
  induction vas generalizing s l with
  | nil => cases e; exact h
  | cons va vas ih =>
    simp only [translatePages] at e
    split at e
    · cases e
    · next h1 =>
      split at e
      · cases e
      · split at e
        · cases e
        · next h2 => cases e; exact ih _ _ (translate_form _ _ _ _ _ _ _ h h1) h2

theorem translateRange_form (s t : State) (cn p va n : Nat) (k : Access) (l : List (Nat × Nat)) (h : s.Form)
    (e : s.translateRange cn p va n k = .ok (l, t)) : t.Form := translatePages_form _ _ _ _ _ _ _ _ h e

end State
end Sys2Proof.Machine
end

