-- ==== Sys2Proof/Laws/Order.lean ====
section
/-! SUPPORT. What the operations that order a context's events can do, said once: posted events, snapshots that have to be opened,
fences, and the bytes of a page that a partition may not reach. -/

namespace Sys2Proof.Machine
namespace State

/-- An event comes at once where none is before it and no pressure holds. -/
theorem postEvent_now (s t : State) (ls : List Nat) (a : After) (h : s.behindOthers s.cur.ctx = false)
    (k : s.linesOff s.cur.ctx ls = false) : s.postEvent ls a t = t := by simp [postEvent, h, k]

/-- Whatever a posted event does, its slot never waits. -/
theorem postEvent_cases (s t : State) (ls : List Nat) (a : After) :
    s.postEvent ls a t = t ∨ s.postEvent ls a t = s.modMem s.cur.ctx fun m => { m with
      pubs := m.pubs ++ [⟨5, [], none, false, false, a, m.nextId⟩] } := by
  unfold postEvent
  split
  · exact .inr rfl
  · exact .inl rfl

/-- Outside a bundle every posted event stands before what comes next. -/
theorem postedBefore_idle (s : State) (x : Nat) (h : s.cur.live = false) : s.postedBefore x = (s.ctx x).mem.pubs := by
  simp [postedBefore, h]

/-- What a bundle posts itself is not before its own slots. -/
theorem postedBefore_live (s : State) (h : s.cur.live = true) :
    s.postedBefore s.cur.ctx = (s.ctx s.cur.ctx).mem.pubs.take s.cur.posted := by simp [postedBefore, h]

theorem forkHeld_eq_false (s : State) : s.forkHeld = false ↔ s.homeOut = false ∧ s.fenced s.cur.ctx = false := by
  simp [forkHeld]

/-- A byte that `denied` names lies in the range, and the partition may not reach it. -/
theorem denied_some (s : State) (p pa n i : Nat) (h : s.denied p pa n = some i) : i < n ∧ s.permitted p (pa + i) = false := by
  unfold denied at h
  split at h
  · cases h
  · have h1 := List.find?_some h
    have h2 := List.mem_of_find?_eq_some h
    exact ⟨List.mem_range.mp h2, by simpa using h1⟩

/-- Where a mapping holds the whole range no byte is denied. -/
theorem denied_none (s : State) (p pa n : Nat) (r : Nat × Nat) (h : r ∈ (s.part p).mapped) (h1 : r.1 ≤ pa)
    (h2 : pa + n ≤ r.1 + r.2) : s.denied p pa n = none := by
  unfold denied
  rw [if_pos]
  exact .inr (.inr (List.any_eq_true.mpr ⟨r, h, by simp [h1, h2]⟩))

end State

/-- A context without a snapshot to open is left alone. -/
theorem reopen_idle (s : State) (x : Nat) (h : (s.ctx x).trap.redo = none) : reopen s x = s := by simp [reopen, h]

/-- A snapshot is not opened before the events that the context has issued before. -/
theorem reopen_waits (s : State) (x : Nat) (h : caughtUp s x = false) : reopen s x = s := by
  unfold reopen
  split
  · rfl
  · simp [h]

/-- Once they are made it is, where no access has to be performed again. -/
theorem reopen_opens (s : State) (x : Nat) (h : (s.ctx x).trap.redo = some none) (k : caughtUp s x = true) :
    reopen s x = (s.modTrap x fun t => { t with redo := none }).snapshot x := by simp [reopen, h, k]

end Sys2Proof.Machine
end

