-- ==== Sys2Proof/Tests/Slice0.lean ====
section
/-! SUPPORT. Tests: words of the manual, ill-formed terms, small steps, and witnesses of the hypotheses of the statements. -/

namespace Sys2Proof.Tests

open Sys2Proof.Machine Sys2Proof.Machine.State

set_option maxRecDepth 100000
set_option Elab.async false

/-! ### Words of the manual -/

/-- 03, 05: the words of the examples. -/
theorem test_scalar_words :
    decodeSlot .scalar 0x20145001 = .op (.addi 5 5 1) ∧ decodeSlot .scalar 0x281C93E0 = .op (.movi 7 0x93E0)
    ∧ decodeSlot .scalar 0x15105187 = .op (.sel 4 5 6 7) ∧ decodeSlot .scalar 0x171C4000 = .op (.popc 7 4)
    ∧ decodeSlot .scalar 0x181C4000 = .op (.clz 7 4) ∧ decodeSlot .scalar 0x191C4000 = .op (.ctz 7 4)
    ∧ decodeSlot .scalar 0x1B1C4000 = .op (.brev 7 4) ∧ decodeSlot .scalar 0x1A144180 = .op (.fnsb 5 4 6)
    ∧ decodeSlot .scalar 0x30204083 = .op (.extr 8 4 2 3) ∧ decodeSlot .scalar 0x31203F07 = .op (.depo 8 3 60 7)
    ∧ decodeSlot .scalar 0x240C2007 = .op (.shli 3 2 7) ∧ decodeSlot .scalar 0x2618603F = .op (.srai 6 6 63)
    ∧ decodeSlot .scalar 0x0634E3C0 = .op (.divu 13 14 15) := by decide

/-- 03, 06, 07: the words of the examples. -/
theorem test_vector_words :
    decodeSlot .vector 0x51830424 = .op (.vfadd 6 3 1 2 2) ∧ decodeSlot .vector 0x70030420 = .op (.kand 3 1 2)
    ∧ decodeSlot .special 0x23420304 = .op (.fcvt 6 4 8 3 0 1) ∧ decodeSlot .special 0x3401C000 = .op (.bobpop 7) := by
  decide

/-- 08, 09, 10, 12: the words of the examples. -/
theorem test_store_words :
    decodeSlot .memory 0x02021403 = .op (.ldx 2 5 3) ∧ decodeSlot .memory 0x0E032108 = .op (.lda 3 2 4 8) ∧ decodeSlot .memory 0x52061002 = .op (.bufhold 6 4 2)
    ∧ decodeSlot .memory 0x56849252 = .op (.scacc 4 9 2 1 5 2) ∧ decodeSlot .memory 0x50061020 = .op (.ldblk 6 4 2)
    ∧ decodeSlot .matrix 0x04100000 = .op (.mxpushWstore 1 0 0) ∧ decodeSlot .matrix 0x18000003 = .op (.mxzero 0 0 3)
    ∧ decodeSlot .matrix 0x15090C02 = .op (.mxdrain 4 9 3 0 2) ∧ decodeSlot .matrix 0x21000000 = .op (.mxunpin 1)
    ∧ decodeSlot .matrix 0x24500107 = .op (.mxgang 5 1 7) := by decide

/-- 02, 04, 09, 10, 16, 17, 19, 21: the words of the examples. -/
theorem test_control_words :
    decodeSlot .control 0x05000004 = .op (.rep 0 4) ∧ decodeSlot .control 0x01FFFFFD = .op (.br 0xFFFFFD)
    ∧ decodeSlot .control 0x03000028 = .op (.call 40) ∧ decodeSlot .control 0x0227E000 = .op (.jmpi 9 62)
    ∧ decodeSlot .control 0x04000000 = .op .ret ∧ decodeSlot .control 0x060000C8 = .op (.yield 0 200)
    ∧ decodeSlot .control 0x33187000 = .op (.gang 6 7 0) ∧ decodeSlot .control 0x10105183 = .op (.copy 4 5 6 3)
    ∧ decodeSlot .control 0x11200005 = .op (.copych 8 5) ∧ decodeSlot .control 0x13000004 = .op (.cancel 4)
    ∧ decodeSlot .control 0x1424A000 = .op (.waitany 9 10) ∧ decodeSlot .control 0x1500A000 = .op (.waitall 10)
    ∧ decodeSlot .control 0x1624A000 = .op (.ffrdy 9 10) ∧ decodeSlot .control 0x1700A000 = .op (.tagclr 10)
    ∧ decodeSlot .control 0x181C0005 = .op (.tagst 7 5) := by decide

theorem test_control_words_2 :
    decodeSlot .control 0x20105000 = .op (.barinit 4 5) ∧ decodeSlot .control 0x21106000 = .op (.bararr 4 6)
    ∧ decodeSlot .control 0x22100000 = .op (.barwait 4) ∧ decodeSlot .control 0x23000003 = .op (.phase 3)
    ∧ decodeSlot .control 0x12083101 = .op (.copymc 2 3 4 1) ∧ decodeSlot .control 0x28105002 = .op (.subscr 4 5 2)
    ∧ decodeSlot .control 0x291C0002 = .op (.slotwait 7 2) ∧ decodeSlot .control 0x2A000002 = .op (.slotpop 2)
    ∧ decodeSlot .control 0x2B000002 = .op (.slotdone 2) ∧ decodeSlot .control 0x2C1C0002 = .op (.unsub 7 2)
    ∧ decodeSlot .control 0x38244000 = .op (.spawn 9 4) ∧ decodeSlot .control 0x40000001 = .op (.pkadv 0 1)
    ∧ decodeSlot .control 0x41000003 = .op (.pkset 0 3) ∧ decodeSlot .control 0x42180000 = .op (.waitl 6 0)
    ∧ decodeSlot .control 0x48000000 = .op .held ∧ decodeSlot .control 0x3B105000 = .op (.decide 4 5) := by decide

theorem test_control_words_3 :
    decodeSlot .control 0x4B24A000 = .op (.guard 9 10) ∧ decodeSlot .control 0x5010000C = .op (.symdecl 4 3)
    ∧ decodeSlot .control 0x5114C000 = .op (.symrd 5 3 0) ∧ decodeSlot .control 0x52180000 = .op (.symgen 6)
    ∧ decodeSlot .control 0x58100007 = .op (.deadline 4 7) ∧ decodeSlot .control 0x59140000 = .op (.stepend 5)
    ∧ decodeSlot .control 0x62180002 = .op (.coll 6 2) ∧ decodeSlot .control 0x08240000 = .op (.rettResume 9)
    ∧ decodeSlot .control 0x08250000 = .op (.rettSkip 9) ∧ decodeSlot .control 0x08260000 = .op (.rettEnd 9)
    ∧ decodeSlot .control 0x08270000 = .bad := by decide

/-- The bundle of the example of 03: its header, its five operations and its lend bytes. -/
def exampleWords : List Nat :=
  [0, 0, 0x00040000, 0x00400120, 0x20145001, 0x281C93E0, 0x51830424, 0, 0, 0x23420304, 0, 0, 0, 0x05000004, 0, 0]

theorem test_example_bundle :
    let b := decodeBundle exampleWords
    b.kind = .plain ∧ b.stall = 1 ∧ b.ew = 9 ∧ b.sym = false ∧ b.yieldFlag = false ∧ b.lend.getD 1 0 = 1
    ∧ b.slots.getD 1 .nop = .op (.movi 7 0x93E0) ∧ b.slots.getD 9 .nop = .op (.rep 0 4) ∧ b.slots.getD 3 .nop = .nop := by
  decide

/-- 03 R56: the example's movi reads 300,000. -/
theorem test_lend_imm : lendImm 0x93E0 18 1 = 300000 := by decide

/-- A row of the table decodes in its slot's class, and the step after reset fetches it. -/
theorem test_table_word : decodeTableWord 32 0x20145001 = some (.addi 5 5 1) := by decide

/-! ### Ill-formed terms -/

theorem test_ill_formed :
    Instr.wellFormed (.yieldWake 6144) = false ∧ Instr.wellFormed (.bundleIssue 768) = false
    ∧ Instr.wellFormed (.dieGate 8) = false ∧ Instr.wellFormed (.columnTrimTick 0 12) = false
    ∧ Instr.wellFormed (.ringRefill 32) = false ∧ Instr.wellFormed (.fencePacket 64) = false
    ∧ Instr.wellFormed (.refreshInterval 384) = false ∧ Instr.wellFormed (.ownershipClaim 33 true) = false
    ∧ Instr.wellFormed (.shootDown 0 0 0 8) = false ∧ Instr.wellFormed (.rettResume 0) = false
    ∧ Instr.wellFormed (.rettSkip 0) = false ∧ Instr.wellFormed (.rettEnd 0) = false := by decide

theorem test_well_formed :
    Instr.wellFormed (.yieldWake 6143) = true ∧ Instr.wellFormed (.ownershipClaim 64 true) = true
    ∧ Instr.wellFormed (.rettEnd 1) = true ∧ Instr.wellFormed (.addi 5 5 1) = true := by decide

/-! ### Every slot operation from a word of its row in the opcode table, with a different number in each field (03 R55 to R70) -/

theorem test_scalar_rows :
    decodeSlot .scalar 0x01866AC0 = .op (.add 33 38 43)
    ∧ decodeSlot .scalar 0x02929B80 = .op (.sub 36 41 46)
    ∧ decodeSlot .scalar 0x039ECC40 = .op (.mul 39 44 49)
    ∧ decodeSlot .scalar 0x04AAFD00 = .op (.mulh 42 47 52)
    ∧ decodeSlot .scalar 0x05B72DC0 = .op (.mulhu 45 50 55)
    ∧ decodeSlot .scalar 0x06866AC0 = .op (.divu 33 38 43)
    ∧ decodeSlot .scalar 0x07929B80 = .op (.remu 36 41 46)
    ∧ decodeSlot .scalar 0x089ECC40 = .op (.and 39 44 49)
    ∧ decodeSlot .scalar 0x09AAFD00 = .op (.or 42 47 52)
    ∧ decodeSlot .scalar 0x0AB72DC0 = .op (.xor 45 50 55)
    ∧ decodeSlot .scalar 0x0B866AC0 = .op (.shl 33 38 43)
    ∧ decodeSlot .scalar 0x0C929B80 = .op (.shr 36 41 46)
    ∧ decodeSlot .scalar 0x0D9ECC40 = .op (.sra 39 44 49)
    ∧ decodeSlot .scalar 0x0EAAFD00 = .op (.min 42 47 52)
    ∧ decodeSlot .scalar 0x0FB72DC0 = .op (.max 45 50 55)
    ∧ decodeSlot .scalar 0x10866AC0 = .op (.minu 33 38 43)
    ∧ decodeSlot .scalar 0x11929B80 = .op (.maxu 36 41 46)
    ∧ decodeSlot .scalar 0x129ECC40 = .op (.slt 39 44 49)
    ∧ decodeSlot .scalar 0x13AAFD00 = .op (.sltu 42 47 52)
    ∧ decodeSlot .scalar 0x14B72DC0 = .op (.seq 45 50 55)
    ∧ decodeSlot .scalar 0x15866AF0 = .op (.sel 33 38 43 48)
    ∧ decodeSlot .scalar 0x16929000 = .op (.mov 36 41)
    ∧ decodeSlot .scalar 0x179EC000 = .op (.popc 39 44)
    ∧ decodeSlot .scalar 0x18AAF000 = .op (.clz 42 47)
    ∧ decodeSlot .scalar 0x19B72000 = .op (.ctz 45 50)
    ∧ decodeSlot .scalar 0x1A866AC0 = .op (.fnsb 33 38 43)
    ∧ decodeSlot .scalar 0x1B929000 = .op (.brev 36 41) := by decide

theorem test_scalar_rows_2 :
    decodeSlot .scalar 0x209EC811 = .op (.addi 39 44 2065)
    ∧ decodeSlot .scalar 0x21AAF814 = .op (.andi 42 47 2068)
    ∧ decodeSlot .scalar 0x22B72817 = .op (.ori 45 50 2071)
    ∧ decodeSlot .scalar 0x2386680B = .op (.xori 33 38 2059)
    ∧ decodeSlot .scalar 0x2492902E = .op (.shli 36 41 46)
    ∧ decodeSlot .scalar 0x259EC031 = .op (.shri 39 44 49)
    ∧ decodeSlot .scalar 0x26AAF034 = .op (.srai 42 47 52)
    ∧ decodeSlot .scalar 0x28B60012 = .op (.movi 45 131090)
    ∧ decodeSlot .scalar 0x29860006 = .op (.movk 33 131078)
    ∧ decodeSlot .scalar 0x30929BB3 = .op (.extr 36 41 46 51)
    ∧ decodeSlot .scalar 0x319ECC76 = .op (.depo 39 44 49 54) := by decide

theorem test_vector_rows :
    decodeSlot .vector 0x03AFD394 = .op (.vadd 6 47 52 57 2 0)
    ∧ decodeSlot .vector 0x0472DFCB = .op (.vsub 1 50 55 60 5 1)
    ∧ decodeSlot .vector 0x0766AF03 = .op (.vmul 5 38 43 48 1 1)
    ∧ decodeSlot .vector 0x0829BB38 = .op (.vmulh 0 41 46 51 4 0)
    ∧ decodeSlot .vector 0x0AECC76F = .op (.vmin 3 44 49 54 7 1)
    ∧ decodeSlot .vector 0x0DAFD394 = .op (.vmax 6 47 52 57 2 0)
    ∧ decodeSlot .vector 0x0E72DC00 = .op (.vabs 1 50 55 0)
    ∧ decodeSlot .vector 0x1166AF03 = .op (.vand 5 38 43 48 1 1)
    ∧ decodeSlot .vector 0x1229BB38 = .op (.vor 0 41 46 51 4 0)
    ∧ decodeSlot .vector 0x14ECC76F = .op (.vxor 3 44 49 54 7 1)
    ∧ decodeSlot .vector 0x17AFD394 = .op (.vandn 6 47 52 57 2 0)
    ∧ decodeSlot .vector 0x1872DFCB = .op (.vshl 1 50 55 60 5 1)
    ∧ decodeSlot .vector 0x1B66AF03 = .op (.vshr 5 38 43 48 1 1)
    ∧ decodeSlot .vector 0x1C29BB38 = .op (.vsra 0 41 46 51 4 0)
    ∧ decodeSlot .vector 0x1EECC76F = .op (.vrot 3 44 49 54 7 1)
    ∧ decodeSlot .vector 0x21AFD00A = .op (.vpopc 6 47 52 5)
    ∧ decodeSlot .vector 0x2272DC00 = .op (.vclz 1 50 55 0)
    ∧ decodeSlot .vector 0x2566AC08 = .op (.vctz 5 38 43 4)
    ∧ decodeSlot .vector 0x2629BB38 = .op (.vfnsb 0 41 46 51 4)
    ∧ decodeSlot .vector 0x28ECC404 = .op (.vbrev 3 44 49 2)
    ∧ decodeSlot .vector 0x3198E7EF = .op (.vcmp 6 3 0 57 62 7 1)
    ∧ decodeSlot .vector 0x3272DFCA = .op (.vsel 1 50 55 60 5)
    ∧ decodeSlot .vector 0x3566AC08 = .op (.vmov 5 38 43 4)
    ∧ decodeSlot .vector 0x3629800E = .op (.vmovi 0 41 32782)
    ∧ decodeSlot .vector 0x38ECC404 = .op (.vbcast 3 44 49 2)
    ∧ decodeSlot .vector 0x3BAFD391 = .op (.vextr 6 47 52 57 1)
    ∧ decodeSlot .vector 0x3C72DFCA = .op (.vperm 1 50 55 60 5) := by decide

theorem test_vector_rows_2 :
    decodeSlot .vector 0x3F66AC42 = .op (.xcl 5 38 43 4 1)
    ∧ decodeSlot .vector 0x4029B878 = .op (.vred 0 41 46 7 4 0)
    ∧ decodeSlot .vector 0x50ECC76E = .op (.vfadd 3 44 49 54 7)
    ∧ decodeSlot .vector 0x53AFD394 = .op (.vfsub 6 47 52 57 2)
    ∧ decodeSlot .vector 0x5472DFCA = .op (.vfmul 1 50 55 60 5)
    ∧ decodeSlot .vector 0x5766AF02 = .op (.vfma 5 38 43 48 1)
    ∧ decodeSlot .vector 0x5829BB38 = .op (.vfmin 0 41 46 51 4)
    ∧ decodeSlot .vector 0x5AECC76E = .op (.vfmax 3 44 49 54 7)
    ∧ decodeSlot .vector 0x5DAFD00B = .op (.vfneg 6 47 52 5 1)
    ∧ decodeSlot .vector 0x5E73F014 = .op (.vfcmp 1 6 3 60 1 2)
    ∧ decodeSlot .vector 0x70050870 = .op (.kand 5 2 7)
    ∧ decodeSlot .vector 0x72001420 = .op (.kor 0 5 2)
    ∧ decodeSlot .vector 0x74030050 = .op (.kxor 3 0 5)
    ∧ decodeSlot .vector 0x76060C00 = .op (.knot 6 3)
    ∧ decodeSlot .vector 0x78011800 = .op (.kmov 1 6) := by decide

theorem test_special_rows :
    decodeSlot .special 0x06AAF038 = .op (.fexp2 5 2 43 48 1 6)
    ∧ decodeSlot .special 0x085BB384 = .op (.flog2 0 5 46 51 4 1)
    ∧ decodeSlot .special 0x0D8C76F0 = .op (.frcp 3 0 49 54 7 4)
    ∧ decodeSlot .special 0x133D395C = .op (.frsq 6 3 52 57 2 7)
    ∧ decodeSlot .special 0x14EDFCA8 = .op (.fsqrt 1 6 55 60 5 2)
    ∧ decodeSlot .special 0x1AAAF038 = .op (.ftanh 5 2 43 48 1 6)
    ∧ decodeSlot .special 0x205BB384 = .op (.fcvt 0 5 46 51 4 1)
    ∧ decodeSlot .special 0x258C76F0 = .op (.fbpk 3 0 49 54 7 4)
    ∧ decodeSlot .special 0x2B3D395C = .op (.fbunpk 6 3 52 57 2 7)
    ∧ decodeSlot .special 0x2CEDFCA8 = .op (.fscl 1 6 55 60 5 2)
    ∧ decodeSlot .special 0x32AAF038 = .op (.frnd 5 2 43 48 1 6)
    ∧ decodeSlot .special 0x34090000 = .op (.bobpop 36) := by decide

theorem test_memory_rows :
    decodeSlot .memory 0x0227B211 = .op (.ldx 39 44 529)
    ∧ decodeSlot .memory 0x042ABE14 = .op (.stx 42 47 532)
    ∧ decodeSlot .memory 0x0672DE1C = .op (.ldxs 1 50 55 540)
    ∧ decodeSlot .memory 0x0966AE10 = .op (.stxs 5 38 43 528)
    ∧ decodeSlot .memory 0x0A24A60E = .op (.ldw 36 41 526)
    ∧ decodeSlot .memory 0x0C27B211 = .op (.stw 39 44 529)
    ∧ decodeSlot .memory 0x0E2A7D39 = .op (.lda 42 7 52 57)
    ∧ decodeSlot .memory 0x102DADFC = .op (.sta 45 10 55 60)
    ∧ decodeSlot .memory 0x2166AE10 = .op (.ldg 5 38 43 528)
    ∧ decodeSlot .memory 0x2229BA13 = .op (.stg 0 41 46 531)
    ∧ decodeSlot .memory 0x2427B211 = .op (.vldg 39 44 529)
    ∧ decodeSlot .memory 0x262ABE14 = .op (.vstg 42 47 532)
    ∧ decodeSlot .memory 0x2872DFCA = .op (.vgath 1 50 55 60 5)
    ∧ decodeSlot .memory 0x2B66AF02 = .op (.vscat 5 38 43 48 1)
    ∧ decodeSlot .memory 0x3029BA13 = .op (.ldacq 0 41 46 531)
    ∧ decodeSlot .memory 0x32ECC616 = .op (.strel 3 44 49 534)
    ∧ decodeSlot .memory 0x402ABF4A = .op (.aadd 42 47 52 5)
    ∧ decodeSlot .memory 0x422DCB70 = .op (.amin 45 50 55 0)
    ∧ decodeSlot .memory 0x44219AB8 = .op (.amax 33 38 43 4)
    ∧ decodeSlot .memory 0x4624A6EE = .op (.axchg 36 41 46 7)
    ∧ decodeSlot .memory 0x4827B314 = .op (.acas 39 44 49 2)
    ∧ decodeSlot .memory 0x4A2ABF4A = .op (.afadd 42 47 52 5)
    ∧ decodeSlot .memory 0x4C2DCB70 = .op (.chunk 45 50 55 0)
    ∧ decodeSlot .memory 0x50219AB0 = .op (.ldblk 33 38 43)
    ∧ decodeSlot .memory 0x5224A60E = .op (.bufhold 36 41 526)
    ∧ decodeSlot .memory 0x5427B211 = .op (.buffree 39 44 529)
    ∧ decodeSlot .memory 0x5657E6EB = .op (.scacc 2 47 12 3 14 11) := by decide

theorem test_matrix_rows :
    decodeSlot .matrix 0x06D0C837 = .op (.mxpushWstore 45 50 55)
    ∧ decodeSlot .matrix 0x06180000 = .op (.mxpushStream 33 0)
    ∧ decodeSlot .matrix 0x08000000 = .op .mxflip
    ∧ decodeSlot .matrix 0x0FECC7BB = .op (.mxacc 15 44 49 14 59)
    ∧ decodeSlot .matrix 0x1098E508 = .op (.mxbp 2 1 1 57 2 0 8)
    ∧ decodeSlot .matrix 0x1572DD01 = .op (.mxdrain 5 50 55 4 1)
    ∧ decodeSlot .matrix 0x1A66002B = .op (.mxzero 9 38 43)
    ∧ decodeSlot .matrix 0x1E00BB30 = .op (.mxhed 2 0 46 51)
    ∧ decodeSlot .matrix 0x21000000 = .op (.mxunpin 1)
    ∧ decodeSlot .matrix 0x26A0010C = .op (.mxgang 42 1 12) := by decide

theorem test_control_rows :
    decodeSlot .control 0x0180000D = .op (.br 8388621)
    ∧ decodeSlot .control 0x02866000 = .op (.jmpi 33 38)
    ∧ decodeSlot .control 0x03800004 = .op (.call 8388612)
    ∧ decodeSlot .control 0x04000000 = .op .ret
    ∧ decodeSlot .control 0x05A8800F = .op (.rep 42 32783)
    ∧ decodeSlot .control 0x06B60012 = .op (.yield 45 131090)
    ∧ decodeSlot .control 0x07008001 = .op (.trap 32769)
    ∧ decodeSlot .control 0x08000000 = .op .rett
    ∧ decodeSlot .control 0x089C0000 = .op (.rettResume 39)
    ∧ decodeSlot .control 0x08A90000 = .op (.rettSkip 42)
    ∧ decodeSlot .control 0x08B60000 = .op (.rettEnd 45)
    ∧ decodeSlot .control 0x10866AF0 = .op (.copy 33 38 43 48)
    ∧ decodeSlot .control 0x11900029 = .op (.copych 36 41)
    ∧ decodeSlot .control 0x129ECC76 = .op (.copymc 39 44 49 54)
    ∧ decodeSlot .control 0x1300002A = .op (.cancel 42)
    ∧ decodeSlot .control 0x14B72000 = .op (.waitany 45 50)
    ∧ decodeSlot .control 0x15021000 = .op (.waitall 33)
    ∧ decodeSlot .control 0x16929000 = .op (.ffrdy 36 41)
    ∧ decodeSlot .control 0x17027000 = .op (.tagclr 39)
    ∧ decodeSlot .control 0x18A8002F = .op (.tagst 42 47)
    ∧ decodeSlot .control 0x20B72000 = .op (.barinit 45 50)
    ∧ decodeSlot .control 0x21866000 = .op (.bararr 33 38)
    ∧ decodeSlot .control 0x22900000 = .op (.barwait 36)
    ∧ decodeSlot .control 0x23000003 = .op (.phase 3)
    ∧ decodeSlot .control 0x24000000 = .op .fence
    ∧ decodeSlot .control 0x28B72037 = .op (.subscr 45 50 55)
    ∧ decodeSlot .control 0x29840026 = .op (.slotwait 33 38) := by decide

theorem test_control_rows_2 :
    decodeSlot .control 0x2A000024 = .op (.slotpop 36)
    ∧ decodeSlot .control 0x2B000027 = .op (.slotdone 39)
    ∧ decodeSlot .control 0x2CA8002F = .op (.unsub 42 47)
    ∧ decodeSlot .control 0x30B40CB7 = .op (.seqld 45 50 55)
    ∧ decodeSlot .control 0x31840980 = .op (.seqgo 33 38)
    ∧ decodeSlot .control 0x32000000 = .op .seqwait
    ∧ decodeSlot .control 0x339ECC40 = .op (.gang 39 44 49)
    ∧ decodeSlot .control 0x38AAF000 = .op (.spawn 42 47)
    ∧ decodeSlot .control 0x39000000 = .op .taskend
    ∧ decodeSlot .control 0x3A000000 = .op .trigger
    ∧ decodeSlot .control 0x3B929000 = .op (.decide 36 41)
    ∧ decodeSlot .control 0x409C800C = .op (.pkadv 39 32780)
    ∧ decodeSlot .control 0x41A8800F = .op (.pkset 42 32783)
    ∧ decodeSlot .control 0x42B48012 = .op (.waitl 45 32786)
    ∧ decodeSlot .control 0x48000000 = .op .held
    ∧ decodeSlot .control 0x49000000 = .op (.commit 0)
    ∧ decodeSlot .control 0x4A000000 = .op .squash
    ∧ decodeSlot .control 0x4BAAF000 = .op (.guard 42 47)
    ∧ decodeSlot .control 0x50B60048 = .op (.symdecl 45 32786)
    ∧ decodeSlot .control 0x51879000 = .op (.symrd 33 14 1)
    ∧ decodeSlot .control 0x52900000 = .op (.symgen 36)
    ∧ decodeSlot .control 0x589C800C = .op (.deadline 39 32780)
    ∧ decodeSlot .control 0x59A80000 = .op (.stepend 42)
    ∧ decodeSlot .control 0x60B40812 = .op (.rdctl 45 2066)
    ∧ decodeSlot .control 0x61021806 = .op (.wrctl 33 2054)
    ∧ decodeSlot .control 0x62900029 = .op (.coll 36 41) := by decide

/-! ### Small steps -/

/-- Context 0 of core 0 with some scalar registers, the whole pool as its grant, and a live bundle at bundle 16. -/
def withRegs (rs : List (Nat × BitVec 64)) : State :=
  let s := (State.reset.setCtl 0 0x001 0x40000).modCtx 0 fun c => { c with
    s := rs, blocks := [0, 1, 2, 3, 4, 5, 6, 7], pc := 16, iss := { c.iss with phase := .running } }
  s.modCur fun c => { c with pc := 16, live := true }

/-- The state `k` cycles after an instruction, with what is due landed. -/
def after (i : Instr) (s : State) (k : Nat) : State :=
  match exec i s with
  | .next t => (t.modDie 0 fun v => { v with cyc := v.cyc + k }).landDue 0
  | _ => s

/-- The value of a scalar register `k` cycles after an instruction. -/
def result (i : Instr) (rs : List (Nat × BitVec 64)) (d k : Nat) : BitVec 64 := (after i (withRegs rs) k).regS 0 d

/-- 05 R117, R119, R120: the manual's edge cases, and the cycle before a landing still reads the old value. -/
theorem test_arithmetic :
    result (.add 5 2 3) [(2, 0xFFFFFFFFFFFFFFFF), (3, 2)] 5 1 = 1
    ∧ result (.sub 5 0 3) [(3, 1)] 5 1 = 0xFFFFFFFFFFFFFFFF
    ∧ result (.mul 5 2 3) [(2, 6), (3, 7), (5, 9)] 5 2 = 9 ∧ result (.mul 5 2 3) [(2, 6), (3, 7)] 5 3 = 42
    ∧ result (.mul 5 2 2) [(2, 0x8000000000000000)] 5 3 = 0
    ∧ result (.mulh 5 2 2) [(2, 0x8000000000000000)] 5 3 = 0x4000000000000000
    ∧ result (.mulh 5 2 2) [(2, 0xFFFFFFFFFFFFFFFF)] 5 3 = 0
    ∧ result (.mulhu 5 2 2) [(2, 0xFFFFFFFFFFFFFFFF)] 5 3 = 0xFFFFFFFFFFFFFFFE
    ∧ result (.divu 5 2 0) [(2, 7)] 5 24 = 0xFFFFFFFFFFFFFFFF ∧ result (.remu 5 2 0) [(2, 7)] 5 24 = 7
    ∧ result (.divu 5 2 3) [(2, 0xFFFFFFFFFFFFFFFF), (3, 2)] 5 24 = 0x7FFFFFFFFFFFFFFF
    ∧ result (.remu 5 2 3) [(2, 100), (3, 7)] 5 24 = 2 := by decide +kernel

/-- 05 R118: shifts by B[5:0], signed and unsigned orders. -/
theorem test_logic :
    result (.shl 5 2 3) [(2, 3), (3, 64)] 5 1 = 3 ∧ result (.shr 5 2 3) [(2, 0x8000000000000000), (3, 63)] 5 1 = 1
    ∧ result (.sra 5 2 3) [(2, 0x8000000000000000), (3, 63)] 5 1 = 0xFFFFFFFFFFFFFFFF
    ∧ result (.and 5 2 3) [(2, 12), (3, 10)] 5 1 = 8 ∧ result (.or 5 2 3) [(2, 12), (3, 10)] 5 1 = 14
    ∧ result (.xor 5 2 3) [(2, 12), (3, 10)] 5 1 = 6
    ∧ result (.min 5 2 3) [(2, 0xFFFFFFFFFFFFFFFF), (3, 1)] 5 1 = 0xFFFFFFFFFFFFFFFF
    ∧ result (.max 5 2 3) [(2, 0xFFFFFFFFFFFFFFFF), (3, 1)] 5 1 = 1
    ∧ result (.minu 5 2 3) [(2, 0xFFFFFFFFFFFFFFFF), (3, 1)] 5 1 = 1
    ∧ result (.maxu 5 2 3) [(2, 0xFFFFFFFFFFFFFFFF), (3, 1)] 5 1 = 0xFFFFFFFFFFFFFFFF
    ∧ result (.slt 5 2 3) [(2, 0xFFFFFFFFFFFFFFFF), (3, 1)] 5 1 = 1
    ∧ result (.sltu 5 2 3) [(2, 0xFFFFFFFFFFFFFFFF), (3, 1)] 5 1 = 0 ∧ result (.seq 5 2 2) [(2, 4)] 5 1 = 1
    ∧ result (.sel 4 5 6 7) [(5, 0), (6, 1), (7, 2)] 4 1 = 2 ∧ result (.mov 5 2) [(2, 77)] 5 1 = 77 := by decide +kernel

/-- The manual's table of bit operations on s4 = 0xB4 (05 R126, R127). -/
theorem test_bit_operations :
    result (.popc 7 4) [(4, 0xB4)] 7 1 = 4 ∧ result (.clz 7 4) [(4, 0xB4)] 7 1 = 56
    ∧ result (.ctz 7 4) [(4, 0xB4)] 7 1 = 2 ∧ result (.brev 7 4) [(4, 0xB4)] 7 1 = 0x2D00000000000000
    ∧ result (.fnsb 5 4 6) [(4, 0xB4), (6, 2)] 5 1 = 5 ∧ result (.fnsb 5 4 6) [(4, 0xB4), (6, 4)] 5 1 = 64
    ∧ result (.extr 8 4 2 3) [(4, 0xB4)] 8 1 = 0xD ∧ result (.depo 8 3 60 7) [(3, 0xFF)] 8 1 = 0xF000000000000000 := by
  decide +kernel

/-- 05 R121 to R124: signed and wide immediates, and movk's shift of 26 with a lend byte of 0. -/
theorem test_immediates :
    result (.addi 5 2 0xFFF) [(2, 5)] 5 1 = 4 ∧ result (.andi 5 2 0xF0) [(2, 0xFF)] 5 1 = 0xF0
    ∧ result (.ori 5 2 1) [(2, 6)] 5 1 = 7 ∧ result (.xori 5 2 0xFFF) [(2, 0)] 5 1 = 0xFFFFFFFFFFFFFFFF
    ∧ result (.shli 3 2 7) [(2, 1)] 3 1 = 128 ∧ result (.shri 3 2 1) [(2, 2)] 3 1 = 1
    ∧ result (.srai 6 6 63) [(6, 0x8000000000000000)] 6 1 = 0xFFFFFFFFFFFFFFFF
    ∧ result (.movi 7 0x3FFFF) [] 7 1 = 0xFFFFFFFFFFFFFFFF ∧ result (.movk 7 5) [(7, 1)] 7 1 = 0x4000005 := by
  decide +kernel

/-- Vector registers of context 0, and a mask k1 that holds element 0 alone. -/
def withV (rs : List (Nat × BitVec 64)) (vs : List (Nat × BitVec 8192)) : State :=
  vs.foldl (fun s v => s.setRegV 0 v.1 (BitVec.allOnes 1024) v.2) ((withRegs rs).setRegK 0 1 1 1)

/-- Element e of width w of a register, `k` cycles after an instruction. -/
def lane (i : Instr) (vs : List (Nat × BitVec 8192)) (d w e k : Nat) : Nat := elem w ((after i (withV [] vs) k).regV 0 d) e

/-- 06 R136 to R138: a sum wraps within its element; the unsigned high half; the smaller by sign; an amount of the width;
the third set bit. -/
theorem test_vector_integers :
    lane (.vadd 2 3 1 2 1 0) [(1, 0x1FFFFFFFF), (2, 0x100000002)] 3 4 0 2 = 1
    ∧ lane (.vmulh 3 3 1 2 1 1) [(1, 2 ^ 64 - 1), (2, 2)] 3 8 0 2 = 1
    ∧ lane (.vmin 3 3 1 2 1 0) [(1, 2 ^ 64 - 1), (2, 1)] 3 8 0 2 = 2 ^ 64 - 1 := by decide +kernel

theorem test_vector_bits :
    lane (.vshl 2 3 1 32 1 1) [(1, 1)] 3 4 0 2 = 0 ∧ lane (.vrot 3 3 1 1 1 1) [(1, 2 ^ 63 + 1)] 3 8 0 2 = 3
    ∧ lane (.vfnsb 3 3 1 2 1) [(1, 0xB4), (2, 2)] 3 8 0 2 = 5 := by decide +kernel

/-- 06 R142 to R145. -/
theorem test_vector_moves :
    lane (.vperm 3 3 1 2 1) [(1, 11 * 2 ^ 64 + 10), (2, 1)] 3 8 0 2 = 11 ∧ lane (.xcl 3 3 1 1 1) [(1, 2 ^ 1024)] 3 8 0 6 = 1
    ∧ lane (.vred 3 3 1 0 1 0) [(1, 2 * 2 ^ 64 + 1)] 3 8 0 2 = 1
    ∧ (after (.vextr 0 5 1 1 0) (withV [] [(1, 0xFF00000000000000AA)]) 2).regS 0 5 = 0xFFFFFFFFFFFFFFFF := by decide +kernel

/-- 06 R139, R149: a comparison writes all bits of an element; a NaN equals nothing; k0 reads ones. -/
theorem test_masks :
    ((after (.vcmp 3 2 0 1 1 1 0) (withV [] [(1, 5)]) 2).regK 0 2).getLsbD 7 = true
    ∧ ((after (.vfcmp 6 2 0 1 1 1) (withV [] [(1, 0x7FC00000)]) 2).regK 0 2).getLsbD 0 = false
    ∧ (after (.knot 3 0) (withRegs []) 2).regK 0 3 = 0 ∧ (after (.kor 3 0 2) (withRegs []) 2).regK 0 3 = BitVec.allOnes 1024 := by
  decide +kernel

/-- 06 R146 to R148: 1 + 1 in bf16, 1 × 1 + 1, -0 below +0. -/
theorem test_vector_floats :
    lane (.vfadd 4 3 1 2 1) [(1, 0x3F80), (2, 0x3F80)] 3 2 0 4 = 0x4000
    ∧ lane (.vfma 6 3 1 2 1) [(1, 0x3F800000), (2, 0x3F800000), (3, 0x3F800000)] 3 4 0 4 = 0x40000000
    ∧ lane (.vfmin 6 3 1 2 1) [(1, 0x80000000), (2, 0)] 3 4 0 4 = 0x80000000 := by decide +kernel

/-- 07 R166 to R169: 2^1, 1/sqrt 4, 2.5 rounded to integral, a narrowing. -/
theorem test_functions :
    lane (.fexp2 6 6 3 1 1 0) [(1, 0x3F800000)] 3 4 0 8 = 0x40000000
    ∧ lane (.frsq 6 6 3 1 1 0) [(1, 0x40800000)] 3 4 0 8 = 0x3F000000
    ∧ lane (.frnd 6 6 3 1 1 0) [(1, 0x40200000)] 3 4 0 8 = 0x40000000
    ∧ lane (.fcvt 6 4 3 1 1 0) [(1, 0x3F800000)] 3 2 0 8 = 0x3F80 := by decide +kernel

/-- 08 R187, R188: a scalar written to the X-store reads back sign-extended after 1 cycle; four rows go to the four quarters. -/
theorem test_local_stores :
    (after (.ldxs 4 5 2 0) (after (.stxs 0 4 2 0) (withRegs [(2, 0x5FFFF), (4, 0x80)]) 1) 5).regS 0 5 = 0xFFFFFFFFFFFFFF80
    ∧ ((after (.ldxs 0 5 2 0) (withRegs [(2, 0x60000)]) 5).cur.faults.map fun t => (t.code, t.fa)) = [(0x05, 0x60000)]
    ∧ ((after (.ldxs 1 5 2 0) (withRegs [(2, 1)]) 5).cur.faults.map fun t => t.code) = [0x04] := by decide +kernel

theorem test_accumulator_rows :
    let s := (withRegs [(2, 60)]).modStore 0 fun st => { st with acc := [(61, 5)] }
    (after (.lda 3 0 2 0) s 4).regV 0 3 = 5 * 2 ^ 2048 ∧ accRow ((after (.sta 3 0 2 0) (s.setRegV 0 3 (BitVec.allOnes 1024) 7) 1).core 0).st 60 = 7 := by
  decide +kernel

/-- 09, the manual's beat: 3 × 2 + 3 × 2 in the valid rows, columns and elements 1, 2, 2 gives 12.0. -/
theorem test_beat :
    let s := ((withRegs []).setCtl 0 0x021 0x8101).modStore 0 fun st => { st with
      xstore := [(0, 0x40), (1, 0x40), (2, 0x40), (3, 0x40)], active := [(0, 0x40004000), (1, 0x40004000)] }
    accRow ((after (.mxacc 0 0 0 0 0) s 68).core 0).st 0 = 0x4140000041400000 := by decide +kernel

/-- 08 R195, 09 R207, R211: in-use bits, the exchange of the planes, clearing, a drain to bf16. -/
theorem test_array_and_buffers :
    ((after (.bufhold 4 6 2) (withRegs [(4, 3), (6, 0x800)]) 1).core 0).st.inUse = 0x38
    ∧ ((after .mxflip ((withRegs []).modStore 0 fun st => { st with shadow := [(5, 9)] }) 2).core 0).st.active = [(5, 9)]
    ∧ ((after (.mxzero 0 3 0) ((withRegs []).modStore 0 fun st => { st with acc := [(3, 9)] }) 1).core 0).st.acc = [(3, 0)]
    ∧ ((after (.mxdrain 0 0 0 0 0) (((withRegs []).setCtl 0 0x021 0x8101).modStore 0 fun st => { st with acc := [(0, 0x41400000)] }) 12).core 0).st.xstore
      = [(0, 0x40), (1, 0x41)] := by decide +kernel

/-- Context 0 of core 0 of a partition whose tables map 32 MiB, with a live bundle. -/
def booted (rs : List (Nat × BitVec 64)) : State :=
  let s := (State.reset.bootWith 0 0).modCtx 0 fun c => { c with
    s := rs, blocks := [0, 1, 2, 3, 4, 5, 6, 7], ctl := [(0x001, 0x40000)], iss := { c.iss with phase := .running } }
  s.modCur fun c => { c with pc := 0x400, live := true }

/-- A nanosecond later. -/
def later (s : State) : State := { s with pkg := { s.pkg with now := s.pkg.now + 1000 } }

/-- 08 R189, R193: a store is seen by the next load of its context, which lands when it returns. -/
theorem test_global_access :
    (after (.globalLoadReturn 0 0 0)
      (later (after (.ldg 2 5 2 0) (after (.stg 2 4 2 0) (booted [(2, 0x20000), (4, 0x1122334455667788)]) 0) 0)) 0).regS 0 5
      = 0x55667788
    ∧ (after (.stg 2 4 2 0) (booted [(2, 0x20000), (4, 5)]) 0).mem.get 0x20000 = 0
    ∧ (after (.phase 3) (after (.stg 2 4 2 0) (booted [(2, 0x20000), (4, 5)]) 0) 0).mem.get 0x20000 = 5
    ∧ ((after (.ldg 2 5 2 0) (booted [(2, 0x2000000)]) 0).cur.faults.map fun t => (t.code, t.fa)) = [(0x06, 0x2000000)] := by
  decide +kernel

/-- 12 R281: an addition at its home returns the old value and writes the sum. -/
theorem test_atomic :
    let s := after (.atomicPerformed 0 0 0) (later (after (.aadd 5 2 4 3) (booted [(2, 0x10100), (4, 7)]) 0)) 0
    s.regS 0 5 = 0 ∧ s.mem.get 0x10100 = 7 := by decide +kernel

/-- 04 R99 to R101: a transfer back three bundles, the link of a call, a misaligned target. -/
theorem test_transfers :
    (after (.br 0xFFFFFD) (withRegs []) 0).cur.target = some 13 ∧ (after (.call 40) (withRegs []) 1).regS 0 62 = 1088
    ∧ (after (.call 40) (withRegs []) 0).cur.target = some 56 ∧ (after (.jmpi 9 62) (withRegs [(9, 128)]) 0).cur.target = some 2
    ∧ ((after .ret (withRegs [(62, 1)]) 0).cur.faults.map fun t => t.code) = [0x04] := by decide +kernel

/-- 02 R46, 04 R103 to R105, 14 R290. -/
theorem test_control :
    (after (.rep 0 4) (withRegs []) 0).cur.repNext = some 4 ∧ (after (.yield 0 200) (withRegs []) 0).cur.sleep = some 200
    ∧ ((after (.trap 7) (withRegs []) 0).cur.faults.map fun t => (t.code, t.info)) = [(0x14, 7)]
    ∧ (after (.rdctl 5 0x021) (withRegs []) 2).regS 0 5 = 0x00802040
    ∧ ((after (.wrctl 2 0x000) (withRegs []) 0).cur.faults.map fun t => t.code) = [0x07]
    ∧ ((after (.rdctl 5 0xFFF) (withRegs []) 0).cur.faults.map fun t => t.code) = [0x02] := by decide +kernel

/-- 10 R235, R245 to R247: the lowest ready tag; a barrier armed, met and disarmed with its phase inverted. -/
theorem test_tags_and_barriers :
    (after (.waitany 9 10) ((withRegs [(10, 0xFF)]).modCtx 0 fun c => { c with tags := [(5, ⟨true, 0, 0, 0⟩), (6, ⟨true, 0, 0, 0⟩)] }) 1).regS 0 9 = 5
    ∧ (let a := withRegs [(4, 0xFFFFFE0000100000), (5, 2), (6, 3)]
       let t := after (.bararr 4 6) (after (.barinit 4 5) a 0) 0
       t.barrierAt (.store 0 0) = ⟨2 ^ 31 + 1, 2, 3⟩
       ∧ (after (.barwait 4) t 0).barrierAt (.store 0 0) = ⟨2 ^ 30 + 1, 2, 3⟩) := by decide +kernel

/-- 17 R329 to R331: a held write is published by commit and dropped by squash. -/
theorem test_held :
    let s := after (.stg 0 4 2 0) (after .held (booted [(2, 0x20000), (4, 5)]) 0) 0
    s.loadByte 0 0x20000 = 5 ∧ (after (.commit 3) s 0).mem.get 0x20000 = 5 ∧ (after .squash s 0).loadByte 0 0x20000 = 0 := by
  decide +kernel

/-- 14 R286 to R288: a trap outside a bundle stops the context with its record. -/
theorem test_trap_record :
    let s := after (.trap 7) ((withRegs []).modCur fun c => { c with live := false, slot := 9 }) 0
    (s.ctx 0).iss.phase = .stopped ∧ s.ctl 0 0x038 = 0x914 ∧ s.ctl 0 0x039 = 1024 ∧ s.ctl 0 0x03A = 1088 ∧ s.ctl 0 0x03C = 7 := by
  decide +kernel

/-- The step after reset with a word placed fetches and runs it: the context's bundle issues, and s5 lands. -/
theorem test_step_runs_the_word :
    (match step (State.reset.withFetchWord 32 0x20145001) with
      | .next t => decide ((t.core 0).iss.last.isSome = true ∧ (t.core 0).landings.map (·.what) = [.scalar 5 1])
      | _ => false) = true := by decide +kernel

/-! ### Witnesses: states and operands that meet the hypotheses of the statements, at the ends of their ranges -/

/-- Whether a result is there and passes a test. -/
def okWith {ε α : Type} (e : Except ε α) (f : α → Bool) : Bool :=
  match e with
  | .ok v => f v
  | .error _ => false

theorem ok_with {ε α : Type} {e : Except ε α} (f : α → Bool) (h : okWith e f = true) : ∃ v, e = .ok v ∧ f v = true := by
  cases e with
  | ok v => exact ⟨v, rfl, h⟩
  | error e => simp [okWith] at h

theorem one_piece {ε : Type} {e : Except ε (List Piece × State)} (f : Piece → State → Bool)
    (h : (match e with | .ok ([p], s1) => f p s1 | _ => false) = true) :
    ∃ p s1, e = .ok ([p], s1) ∧ f p s1 = true := by
  cases e with
  | error e => simp at h
  | ok v =>
    obtain ⟨ps, s1⟩ := v
    match ps, h with
    | [p], h => exact ⟨p, s1, rfl, h⟩

/-- A stopped-clock state with nothing to do, and one with a head of the agenda, an event, an issue. -/
theorem witness_StepRunsDecoded :
    ({ State.reset with agenda := [.yieldWake 0] } : State).agenda = .yieldWake 0 :: []
    ∧ (State.reset.nextEvent = none ∧ State.reset.nextIssue = none ∧ State.reset.nextLate = none)
    ∧ ({ State.reset with shoots := [⟨0, 0, 1, 0, 0, [], []⟩] } : State).nextEvent = some (.shootDownComplete 0)
    ∧ ((State.reset.withFetchWord 32 0x20145001).nextEvent = none
      ∧ (State.reset.withFetchWord 32 0x20145001).nextIssue = some 0)
    ∧ decodeSlot (slotClass 9) ((List.replicate 13 0 ++ [0x04000000]).getD (4 + 9) 0) = .op .ret := by decide +kernel

theorem witness_StepRunsDecoded_fetch :
    ∃ pa s1, (booted []).translate (coreOf 0) (State.partOf (booted []) 0) (64 * ((booted []).ctx 0).pc.toNat) .fetch
        = .ok (pa, s1) ∧ (booted []).denied (State.partOf (booted []) 0) pa 64 = none := by
  obtain ⟨v, h, hf⟩ := ok_with (e := (booted []).translate (coreOf 0) (State.partOf (booted []) 0)
    (64 * ((booted []).ctx 0).pc.toNat) .fetch) (fun v => decide ((booted []).denied (State.partOf (booted []) 0) v.1 64 = none))
    (by decide +kernel)
  exact ⟨v.1, v.2, h, of_decide_eq_true hf⟩

theorem witness_EncodeDecodes :
    (Instr.addi 63 63 0xFFF).wellFormed = true ∧ encode (.addi 63 63 0xFFF) = some (.scalar, 0x20FFFFFF)
    ∧ (Instr.rettEnd 1).wellFormed = true ∧ encode (.rettEnd 1) = some (.control, 0x08060000) := by decide

theorem witness_ZeroRegister :
    ctlAccess (0x000 : BitVec 12).toNat ≠ none ∧ (0x000 : BitVec 12) ≠ 0x024
    ∧ (((({ State.reset with cores := [(0, { resetCore with bobbin := [5] })] } : State).fillBobbin 0).core 0).bobbin = 5 :: []) := by
  decide +kernel

theorem witness_GrantTraps :
    ¬ ((withRegs []).setCtl 0 0x001 0x8000).grants [7, 8] := by
  simp only [State.grants]; decide +kernel

theorem witness_UnassignedControlRegisters :
    (withRegs []).cur.live = true ∧ ctlAccess (0xFFF : BitVec 12).toNat = none ∧ ctlAccess (0x000 : BitVec 12).toNat = some none := by
  decide +kernel

theorem witness_FixedLatencyFrame :
    Instr.fixedLatency (.add 1 2 3) = true ∧ Instr.fixedLatency (.mxzero 15 63 63) = true
    ∧ Instr.fixedLatency (.fcvt 6 4 8 3 0 1) = true ∧ (withRegs []).cur.live = true := by decide +kernel

theorem witness_Landings :
    (7 : Nat) < 8 ∧ (0x018 : Nat) ≠ 0x019 ∧ (withRegs []).poolIndex 0 63 ≠ (withRegs []).poolIndex 0 0
    ∧ (let st := ((withRegs []).core 0).st
      st.xstore.wf = true ∧ st.xpoison.wf = true ∧ st.wstore.wf = true ∧ st.wpoison.wf = true ∧ st.accPoison.wf = true
      ∧ st.shadowPoison.wf = true)
    ∧ (List.replicate 64 (0 : Nat)).length ≤ 64 ∧ (∀ j < 32, (32 * 0 + j) < [0].length * 32) := by decide +kernel

theorem witness_StoresAndPublications :
    ((booted []).ctx 0).mem.held = none ∧ (booted []).heldWrites 0 = [] ∧ ((booted []).ctx 0).mem.landed = []
    ∧ (⟨.buffer, 7, 7, 1, 5, 0⟩ : LineWrite).home = .buffer ∧ (booted []).mem.wf = true := by decide +kernel

theorem booted_inv : (booted []).Inv := by
  refine ⟨by decide +kernel, by decide +kernel, fun n => ?_⟩
  have h : (booted []).cores = [] := by decide +kernel
  simp only [State.core, h, Tab.get]
  exact ⟨rfl, rfl⟩

theorem witness_CanonicalForms : ∃ pa t, (booted []).Inv ∧ (booted []).translate 0 0 0 .read = .ok (pa, t) := by
  obtain ⟨v, h, -⟩ := ok_with (e := (booted []).translate 0 0 0 .read) (fun _ => true) (by decide +kernel)
  exact ⟨v.1, v.2, booted_inv, h⟩

/-- A state whose grant holds the registers named. -/
theorem grants_all : (withRegs []).grants [63, 62, 61] ∧ (withRegs []).grants [63, 62] := by
  simp only [State.grants]; decide +kernel

theorem witness_ScalarBits : (2 ^ 24 - 1 : Nat) < 2 ^ 24 := by decide

theorem witness_VectorIntegers : (3 : BitVec 3).toNat ≤ 3 ∧ (withRegs []).grants [63, 62, 61] := ⟨by decide, grants_all.1⟩

theorem witness_VectorShiftsAndBits : (3 : BitVec 3).toNat ≤ 3 ∧ (withRegs []).grants (if (1 : BitVec 1) = 1 then [63, 62] else [63, 61, 62])
    ∧ (withRegs []).grants (if (0 : BitVec 1) = 1 then [63, 61] else [63, 62, 61]) ∧ 63 < (withRegs []).grant (withRegs []).cur.ctx :=
  ⟨by decide, by simpa using grants_all.2, by simpa using grants_all.1, by decide +kernel⟩

theorem witness_VectorMoves : (6 : BitVec 3) ≠ 7 ∧ (withRegs []).grants [63, 62, 61] := ⟨by decide, grants_all.1⟩

theorem witness_MasksAndReduction :
    (6 : BitVec 3) ≠ 7 ∧ (3 : BitVec 3).toNat ≤ 3 ∧ 4 ≤ (4 : BitVec 3).toNat ∧ (4 : BitVec 3) ≠ 7 ∧ (withRegs []).grants [63, 62]
    ∧ (5 : BitVec 3).toNat ≤ (if (3 : BitVec 3).toNat ≤ 3 then 5 else 2)
    ∧ (2 : BitVec 3).toNat ≤ (if (6 : BitVec 3).toNat ≤ 3 then 5 else 2) :=
  ⟨by decide, by decide, by decide, by decide, grants_all.2, by decide, by decide⟩

theorem witness_VectorFloats :
    4 ≤ (6 : BitVec 3).toNat ∧ (6 : BitVec 3) ≠ 7 ∧ (withRegs []).grants [63, 62, 61] ∧ (withRegs []).overrideMode = some .rn :=
  ⟨by decide, by decide, grants_all.1, by decide +kernel⟩

/-- A core whose queue holds a word. -/
def withBobbin : State := (withRegs []).modCore 0 fun c => { c with bobbin := [5] }

theorem witness_SpecialFunctions :
    4 ≤ (6 : BitVec 3).toNat ∧ (6 : BitVec 3) ≠ 7 ∧ withBobbin.grants [63, 62] ∧ withBobbin.effRound 5 ≠ 7
    ∧ withBobbin.bobbinReady (withBobbin.effRound 5) ∧ withBobbin.cur.lend.toNat % 4 = 0
    ∧ ((withBobbin.fillBobbin 0).core 0).bobbin = 5 :: [] := by
  simp only [State.grants, State.bobbinReady]; decide +kernel

theorem witness_Conversions :
    withBobbin.effRound 0 ≠ 7 ∧ withBobbin.bobbinReady (withBobbin.effRound 0) ∧ fwidth (6 : BitVec 3).toNat = some 4
    ∧ fwidth (0 : BitVec 3).toNat = some 1 ∧ (6 : BitVec 3) ≠ 0 ∧ 3 * Nat.min 4 1 < Nat.max 4 1
    ∧ (6 : BitVec 3) ≠ 7 ∧ withBobbin.grants [62, 62 + 1, 61] ∧ 0 < vwidth (6 : BitVec 3).toNat := by
  simp only [State.grants, State.bobbinReady]; decide +kernel

/-- 08: the last vector address of each store; the last scalars; the last rows. -/
theorem witness_LocalAccesses :
    let s := withRegs [(2, 0x5FC00), (3, 0x7FC00)]
    let st := (s.core s.cur.core).st
    (63 : BitVec 6).toNat < s.grant s.cur.ctx ∧ s.addrOf 2 128 (0 : BitVec 10) % 16 = 0 ∧ s.addrOf 3 128 (0 : BitVec 10) % 16 = 0
    ∧ (∀ c < 8, s.addrOf 2 128 (0 : BitVec 10) + c * xstride s + 128 ≤ xstoreSize
        ∧ firstPoison st.xpoison (s.addrOf 2 128 (0 : BitVec 10) + c * xstride s) 128 = none)
    ∧ ∀ c < 8, s.addrOf 3 128 (0 : BitVec 10) + c * 128 + 128 ≤ wstoreSize
        ∧ firstPoison st.wpoison (s.addrOf 3 128 (0 : BitVec 10) + c * 128) 128 = none := by decide +kernel

theorem witness_LocalAccesses_scalar :
    let s := withRegs [(2, 0x5FFF8)]
    s.addrOf 2 8 (0 : BitVec 10) % 8 = 0 ∧ s.addrOf 2 8 (0 : BitVec 10) + 8 ≤ xstoreSize ∧ (3 : BitVec 3) ≠ 7
    ∧ (3 : BitVec 3).toNat < 4 ∧ firstPoison (s.core s.cur.core).st.xpoison (s.addrOf 2 8 (0 : BitVec 10)) 8 = none := by
  decide +kernel

theorem witness_AccumulatorsAndBuffers :
    let s := (withRegs [(2, 60), (4, 1), (5, 191 * 2048)]).modStore 0 fun st => { st with counts := [(63, 16)] }
    let st := (s.core s.cur.core).st
    (63 : BitVec 6).toNat < s.grant s.cur.ctx ∧ accRowOf s 2 0 % 4 = 0 ∧ poisonedRow st.accPoison 15 (accRowOf s 2 0) 4 = none
    ∧ (s.readS 0).toNat = 0 ∧ 0 < (s.readS 4).toNat ∧ (0 : Int) ≤ ((s.readS 5).toNat / 2048 : Nat) + lendImm (0 : BitVec 10).toNat 10 s.cur.lend
    ∧ ((s.readS 5).toNat / 2048 : Nat) + lendImm (0 : BitVec 10).toNat 10 s.cur.lend + (s.readS 4).toNat ≤ 192
    ∧ (31 : BitVec 5).toNat < s.grant s.cur.ctx
    ∧ st.counts.get 0 ((15 : BitVec 4).toNat * 4 + (3 : BitVec 2).toNat) = (15 : BitVec 4).toNat + 1
    ∧ poisonedRow st.accPoison 15 (16 * 3) (15 + 1) = none ∧ st.vpoison = [] := by decide +kernel

/-- No sector is bad where no check code is kept. -/
theorem no_bad (i : Nat) : badSector [] i = false := by simp [badSector, Memory.get]

/-- 09: the last addresses of the store for a beat of 64 and of 512 positions, and of a drain. -/
theorem witness_ArrayBeats :
    let s := (withRegs [(2, 0x5FF80), (3, 0x5FE00), (4, 0x7FF80), (5, 0x5FF00)]).setCtl 0 0x021 0x00802040
    let st := (s.core s.cur.core).st
    ((s.readS 4).toNat + 128 * (0 : BitVec 6).toNat) % 16 = 0 ∧ (s.readS 4).toNat + 128 * (0 : BitVec 6).toNat + 128 ≤ wstoreSize
    ∧ beatFmt (0 : BitVec 4).toNat = some (fmtBf16, 2, 64) ∧ (63 : BitVec 6).toNat < s.selM ∧ 0 < Nat.min s.selK 64
    ∧ (s.readS 2).toNat % 16 = 0 ∧ (s.readS 2).toNat + 2 * Nat.min s.selK 64 ≤ xstoreSize ∧ st.activePoison = []
    ∧ firstPoison st.xpoison (s.readS 2).toNat (2 * Nat.min s.selK 64) = none
    ∧ 16 * (3 : BitVec 2).toNat < s.selM ∧ 0 < s.selK ∧ (s.readS 3).toNat + s.selK ≤ xstoreSize
    ∧ firstPoison st.xpoison (s.readS 3).toNat s.selK = none
    ∧ (4 : BitVec 4).toNat ≤ 4 ∧ s.overrideMode = some .rn ∧ 0 < s.selN
    ∧ (s.readS 5).toNat + drainWidth (0 : BitVec 4).toNat * s.selN ≤ xstoreSize ∧ st.accPoison = []
    ∧ (60 : BitVec 6).toNat + ((3 : BitVec 6).toNat + 1) ≤ 64 := by decide +kernel

theorem witness_HeddleStreams :
    (((withRegs []).setStream 0 3 { resetStream with opened := true, arrived := 1 }).stream 0 3).opened = true
    ∧ (((withRegs []).setStream 0 3 { resetStream with opened := true, arrived := 1 }).stream 0 3).pos
      < (((withRegs []).setStream 0 3 { resetStream with opened := true, arrived := 1 }).stream 0 3).arrived
    ∧ ((15 : BitVec 4) ≠ 0)
    ∧ ∃ ls s1, let s := booted [(2, 0x20000), (3, 2)]
      let s0 := s.setStream 0 0 resetStream
      s.homeAhead ((List.range ((s.readS 3).toNat % 512)).map fun (i : Nat) =>
        (wideAddr (((s.readS 2).toNat : Int) + (i : Int) * 128), 128, 0)) = false
      ∧ (∀ i < (s.readS 3).toNat % 512,
          s.shooting (State.partOf s s.cur.ctx) (wideAddr (((s.readS 2).toNat : Int) + (i : Int) * 128)) 128 = false)
      ∧ 0 < (s.readS 3).toNat % 512 ∧ (s.readS 2).toNat % 128 = 0 ∧ (128 : Int) % 128 = 0
      ∧ inWindow (s.readS 2).toNat = false
      ∧ streamLines ((List.range ((s.readS 3).toNat % 512)).map fun (i : Nat) =>
          wideAddr (((s.readS 2).toNat : Int) + (i : Int) * 128)) s0 = .ok (ls, s1)
      ∧ (s0.pinnedLines 0).length + (distinct ls).length ≤ 256 := by
  obtain ⟨v, h, hf⟩ := ok_with (e := streamLines ((List.range (((booted [(2, 0x20000), (3, 2)]).readS 3).toNat % 512)).map
      fun (i : Nat) => wideAddr ((((booted [(2, 0x20000), (3, 2)]).readS 2).toNat : Int) + (i : Int) * 128))
      ((booted [(2, 0x20000), (3, 2)]).setStream 0 0 resetStream))
    (fun v => decide ((((booted [(2, 0x20000), (3, 2)]).setStream 0 0 resetStream).pinnedLines 0).length + (distinct v.1).length ≤ 256))
    (by decide +kernel)
  exact ⟨by decide +kernel, by decide +kernel, by decide, v.1, v.2, by decide +kernel, by decide +kernel, by decide +kernel,
    by decide +kernel, by decide, by decide +kernel, h, by simpa using hf⟩

/-- The last scalar and the last vector of the mapped 32 MiB. -/
theorem witness_GlobalLoads :
    let s := booted [(2, 0x1FFFFF8), (3, 0x1FFFC00), (4, 0x20000)]
    (∃ ps s1, (3 : BitVec 3) ≠ 7 ∧ s.addrOf 2 8 (0 : BitVec 10) % 8 = 0
      ∧ s.reaches .read false [(s.addrOf 2 8 (0 : BitVec 10), 8, 0)] ps s1)
    ∧ (∃ ps s1, (63 : BitVec 6).toNat < s.grant s.cur.ctx ∧ s.addrOf 3 128 (0 : BitVec 10) % 128 = 0
      ∧ s.reaches .read false ((List.range 8).map fun c => (s.addrOf 3 128 (0 : BitVec 10) + 128 * c, 128, 128 * c)) ps s1)
    ∧ ∃ ps s1, s.grants [63, 62] ∧ (s.readS 4).toNat % 8 = 0
      ∧ s.reaches .read true ((actives 8 (s.readK 1)).map fun e =>
        (wideAddr ((s.readS 4).toNat + 8 * sextN (elem 8 (s.readV 62) e) 64), 8, 8 * e)) ps s1 := by
  refine ⟨?_, ?_, ?_⟩
  · obtain ⟨v, h, -⟩ := ok_with (e := placeAll .read false [((booted [(2, 0x1FFFFF8), (3, 0x1FFFC00), (4, 0x20000)]).addrOf 2 8
      (0 : BitVec 10), 8, 0)] (booted [(2, 0x1FFFFF8), (3, 0x1FFFC00), (4, 0x20000)])) (fun _ => true) (by decide +kernel)
    exact ⟨v.1, v.2, by decide, by decide +kernel, by decide +kernel, by decide +kernel, h⟩
  · obtain ⟨v, h, -⟩ := ok_with (e := placeAll .read false ((List.range 8).map fun c => ((booted [(2, 0x1FFFFF8), (3, 0x1FFFC00),
      (4, 0x20000)]).addrOf 3 128 (0 : BitVec 10) + 128 * c, 128, 128 * c)) (booted [(2, 0x1FFFFF8), (3, 0x1FFFC00), (4, 0x20000)]))
      (fun _ => true) (by decide +kernel)
    exact ⟨v.1, v.2, by decide +kernel, by decide +kernel, by decide +kernel, by decide +kernel, h⟩
  · obtain ⟨v, h, -⟩ := ok_with (e := placeAll .read true ((actives 8 ((booted [(2, 0x1FFFFF8), (3, 0x1FFFC00), (4, 0x20000)]).readK
      1)).map fun e => (wideAddr (((booted [(2, 0x1FFFFF8), (3, 0x1FFFC00), (4, 0x20000)]).readS 4).toNat + 8 * sextN (elem 8
      ((booted [(2, 0x1FFFFF8), (3, 0x1FFFC00), (4, 0x20000)]).readV 62) e) 64), 8, 8 * e))
      (booted [(2, 0x1FFFFF8), (3, 0x1FFFC00), (4, 0x20000)])) (fun _ => true) (by decide +kernel)
    exact ⟨v.1, v.2, by simp only [State.grants]; decide +kernel, by decide +kernel, by decide +kernel, by decide +kernel, h⟩

/-- The stores of the same places; the context is not held, so its held buffer has room. -/
theorem room_for {s : State} {ps : List Piece} {bytes : Piece → List (BitVec 8)} (h : (decide ((s.ctx s.cur.ctx).mem.held = none)
    && !s.bufferShort s.cur.ctx (ps.flatMap fun q => State.linesOf .buffer q.va q.pa (bytes q))) = true) : s.storeRoom ps bytes := by
  simp only [Bool.and_eq_true, decide_eq_true_eq, Bool.not_eq_true'] at h
  simp only [State.storeRoom, h.1, h.2]

theorem witness_GlobalStores :
    let s := booted [(2, 0x1FFFFF8), (4, 0x20000)]
    (∃ ps s1, (3 : BitVec 3).toNat < 4 ∧ s.addrOf 2 8 (0 : BitVec 10) % 8 = 0
      ∧ s.reaches .write false [(s.addrOf 2 8 (0 : BitVec 10), 8, 0)] ps s1 ∧ s1.storeRoom ps fun p => wordBytes (s1.readS 5) p.n)
    ∧ ∃ ps s1, s.addrOf 4 128 (0 : BitVec 10) % 128 = 0
      ∧ s.reaches .write false ((List.range 8).map fun c => (s.addrOf 4 128 (0 : BitVec 10) + 128 * c, 128, 128 * c)) ps s1
      ∧ s1.storeRoom ps fun p => laneBytes (s1.readV 63) p := by
  refine ⟨?_, ?_⟩
  · obtain ⟨v, h, hf⟩ := ok_with (e := placeAll .write false [((booted [(2, 0x1FFFFF8), (4, 0x20000)]).addrOf 2 8 (0 : BitVec 10), 8, 0)]
      (booted [(2, 0x1FFFFF8), (4, 0x20000)])) (fun v => decide ((v.2.ctx v.2.cur.ctx).mem.held = none)
        && !v.2.bufferShort v.2.cur.ctx (v.1.flatMap fun q => State.linesOf .buffer q.va q.pa (wordBytes (v.2.readS 5) q.n)))
      (by decide +kernel)
    exact ⟨v.1, v.2, by decide, by decide +kernel, ⟨by decide +kernel, by decide +kernel, h⟩, room_for hf⟩
  · obtain ⟨v, h, hf⟩ := ok_with (e := placeAll .write false ((List.range 8).map fun c => ((booted [(2, 0x1FFFFF8), (4, 0x20000)]).addrOf
      4 128 (0 : BitVec 10) + 128 * c, 128, 128 * c)) (booted [(2, 0x1FFFFF8), (4, 0x20000)]))
      (fun v => decide ((v.2.ctx v.2.cur.ctx).mem.held = none)
        && !v.2.bufferShort v.2.cur.ctx (v.1.flatMap fun q => State.linesOf .buffer q.va q.pa (laneBytes (v.2.readV 63) q)))
      (by decide +kernel)
    exact ⟨v.1, v.2, by decide +kernel, ⟨by decide +kernel, by decide +kernel, h⟩, room_for hf⟩

/-- A core whose 256 store-buffer entries are in use. -/
def fullBuffer : State :=
  (booted [(2, 0x20000)]).modMem 0 fun m => { m with
    unpub := (List.range 256).map fun i => ⟨.buffer, 4096 + i, 4096 + i, 1, 1, 0⟩ }

theorem witness_GlobalStores_spill :
    ∃ ps s1, fullBuffer.addrOf 2 8 (0 : BitVec 10) % 8 = 0
      ∧ fullBuffer.reaches .write false [(fullBuffer.addrOf 2 8 (0 : BitVec 10), 8, 0)] ps s1
      ∧ (s1.ctx s1.cur.ctx).mem.held = none
      ∧ s1.spillWait s1.cur.ctx (ps.flatMap fun p => linesOf .buffer p.va p.pa (wordBytes (s1.readS 5) p.n)) = true := by
  obtain ⟨v, h, hf⟩ := ok_with (e := placeAll .write false [(fullBuffer.addrOf 2 8 (0 : BitVec 10), 8, 0)] fullBuffer)
    (fun v => decide ((v.2.ctx v.2.cur.ctx).mem.held = none)
      && v.2.spillWait v.2.cur.ctx (v.1.flatMap fun p => linesOf .buffer p.va p.pa (wordBytes (v.2.readS 5) p.n))) (by decide +kernel)
  rw [Bool.and_eq_true] at hf
  exact ⟨v.1, v.2, by decide +kernel, ⟨by decide +kernel, by decide +kernel, h⟩, of_decide_eq_true hf.1, hf.2⟩

theorem witness_HomeOperations :
    let s := booted [(2, 0x20000)]
    (5 : BitVec 3).toNat < 6 ∧ s.isHeld s.cur.ctx = false
    ∧ (∃ p s1, s.addrOf 2 8 (0 : BitVec 10) % 8 = 0 ∧ s.reaches .read false [(s.addrOf 2 8 (0 : BitVec 10), 8, 0)] [p] s1)
    ∧ ∃ p s1, (s.readS 2).toNat % 32 = 0 ∧ s.reaches .write false [((s.readS 2).toNat, 32, 0)] [p] s1
      ∧ readable s1 p.va = true := by
  obtain ⟨p, s1, h, -⟩ := one_piece (e := placeAll .read false [((booted [(2, 0x20000)]).addrOf 2 8 (0 : BitVec 10), 8, 0)]
    (booted [(2, 0x20000)])) (fun _ _ => true) (by decide +kernel)
  obtain ⟨q, s2, h2, hr⟩ := one_piece (e := placeAll .write false [(((booted [(2, 0x20000)]).readS 2).toNat, 32, 0)]
    (booted [(2, 0x20000)])) (fun p s1 => readable s1 p.va) (by decide +kernel)
  exact ⟨by decide, by decide +kernel, ⟨p, s1, by decide +kernel, by decide +kernel, by decide +kernel, h⟩, q, s2,
    by decide +kernel, ⟨by decide +kernel, by decide +kernel, h2⟩, hr⟩

theorem witness_Transfers : ((withRegs [(9, 64), (62, 128)]).readS 9).toNat % 64 = 0 ∧ ((withRegs [(9, 64), (62, 128)]).readS 62).toNat % 64 = 0 := by
  decide +kernel

/-- A handle of place 7 of core 95 of die 7, whose context is free, and one of context 0, which is stopped. -/
theorem witness_Returns :
    let s := ((withRegs [(9, 7 + 95 * 8 + 7 * 1024), (8, 0)]).setCtl 0 0x03E 0x401).modIss 0 fun i => { i with phase := .stopped }
    let h := (s.readS 9).toNat
    (s.ctl s.cur.ctx 0x03E).getLsbD 0 = true ∧ (9 : BitVec 6) ≠ 0
    ∧ h / 2 ^ 13 % 2 ^ 11 = (s.ctl s.cur.ctx 0x000).toNat / 2 ^ 13 % 2 ^ 11 ∧ h / 2 ^ 3 % 128 < 96
    ∧ (s.ctx (8 * (96 * (h / 2 ^ 10 % 8) + h / 2 ^ 3 % 128) + h % 8)).iss.phase ≠ .stopped
    ∧ (s.ctx 0).iss.phase = .stopped ∧ (s.ctx 0).iss.saving = none ∧ (s.readS 8).toNat / 2 ^ 3 % 128 < 96
    ∧ ¬((s.ctl 0 0x012).getLsbD 13 = true ∧ 4 < bits (s.ctl 0 0x012) 12 10) := by decide +kernel

theorem witness_ControlRegisters :
    (withRegs []).cur.core = coreOf (withRegs []).cur.ctx ∧ ((withRegs [(2, 5)]).readS 2).toNat % 8 < 6
    ∧ 6 ≤ ((withRegs [(2, 6)]).readS 2).toNat % 8 ∧ (withRegs []).cur.live = true ∧ State.reset.cur.live = false
    ∧ ctlAccess (0xFFF : BitVec 12).toNat = none ∧ ((withRegs []).ctx 0).trap.owed = none
    ∧ ((((withRegs []).modTrap 0 fun t => { t with owed := some (7, true) }).ctx 0).trap.owed).isSome = true := by decide +kernel

theorem witness_Publications :
    ((withRegs []).modMem 0 fun m => { m with unpub := [] }).mustPost 0 ((withRegs []).ctx 0).mem.unpub .snap = false
    ∧ ((withRegs []).ctx 0).iss.phase ≠ .stopped ∧ (5 : BitVec 3).toNat < 6 ∧ 6 ≤ (7 : BitVec 3).toNat ∧ (withRegs []).isHeld 0 = false
    ∧ ((withRegs []).modMem 0 fun m => { m with held := some ⟨.held, [], none⟩ }).isHeld 0 = true
    ∧ ((withRegs []).modMem 0 fun m => { m with pubs := [⟨3, [], none, false, true, .commit, 0⟩] }).mustPost 0 [] .trigger = true := by
  decide +kernel

theorem witness_TagsAndBarriers :
    (withRegs []).outOfTurn = false ∧ (((withRegs []).modMem 0 fun m => { m with pubs := [⟨3, [], none, false, true, .commit, 0⟩] }).modCur fun c =>
      { c with posted := 1 }).outOfTurn = true
    ∧ ((withRegs []).readS 0 = 0 ∨ (withRegs []).arrivals 0 &&& (withRegs []).readS 0 ≠ 0)
    ∧ (withRegs []).arrivals 0 &&& (withRegs []).readS 0 = (withRegs []).readS 0
    ∧ (let s := withRegs [(4, 0xFFFFFE000135FFF0)]
       (s.readS 4).toNat % 16 = 0 ∧ placeOf s.cur.core (s.readS 4).toNat 16 = .xstore 3 0x5FFF0 ∧ s.isHeld 0 = false
       ∧ firstPoison (s.core 3).st.xpoison 0x5FFF0 16 = none
       ∧ (s.barrierAt (.store 3 0x5FFF0)).armed = false ∧ (s.ctx 0).iss.wait = none
       ∧ ((((s.modIss 0 fun i => { i with wait := some ⟨4, 0x0B, 0, some false⟩ }).ctx 0).iss.wait).bind (·.phase)).getD true
         = (s.barrierAt (.store 3 0x5FFF0)).phase
       ∧ ((s.setBarrier 0 (.store 3 0x5FFF0) ⟨2 ^ 31, 0, 0⟩).barrierAt (.store 3 0x5FFF0)).armed = true
       ∧ ((s.setBarrier 0 (.store 3 0x5FFF0) ⟨2 ^ 31, 0, 0⟩).barrierAt (.store 3 0x5FFF0)).expected
         ≤ ((s.setBarrier 0 (.store 3 0x5FFF0) ⟨2 ^ 31, 0, 0⟩).barrierAt (.store 3 0x5FFF0)).arrived)
    ∧ (let s := (withRegs [(4, 0xFFFFFE000135FFF0)]).modIss 0 fun i => { i with wait := some ⟨4, 0x0B, 0, some true⟩ }
       (s.barrierAt (.store 3 0x5FFF0)).phase ≠ (((s.ctx 0).iss.wait).bind (·.phase)).getD false ∧ s.outOfTurn = false) := by
  decide +kernel

/-- Engine operations on the last mapped bytes, an empty tag and an empty channel. -/
theorem witness_Forks :
    let s := booted [(2, 0x1FFFFC0), (3, 0x40), (4, 0x5FF80), (5, 64), (6, 0x1FFE000)]
    (s.forkHeld = false ∧ s.mustWait 0 63 true = false ∧ touchesGap s (s.readS 2).toNat 64 = false
      ∧ touchesGap s (s.readS 2).toNat 0 = false ∧ (s.readS 0).toNat % 2 ^ 32 = 0 ∧ 0 < (s.readS 3).toNat % 2 ^ 32
      ∧ s.homeAhead [((s.readS 2).toNat, 64, 0)] = false)
    ∧ ((s.readS 4).toNat % 32 = 0 ∧ (s.readS 3).toNat % 32 = 0 ∧ (s.readS 4).toNat + 64 ≤ xstoreSize
      ∧ 16 * ((s.ctl 0 0x022).toNat / 2 ^ 16 % 2 ^ 16) ≤ 0x5FFF0 ∧ ((s.setCtl 0 0x022 0x0F).ctl 0 0x022).toNat % 16 ≠ 0)
    ∧ (0 < (s.readS 5).toNat ∧ (s.readS 5).toNat ≤ 64 ∧ (s.readS 6).toNat % 128 = 0 ∧ inWindow (s.readS 6).toNat = false
      ∧ inWindow ((s.readS 6).toNat + 128 * (s.readS 5).toNat - 1) = false ∧ s.mustWait 0 63 false = false) := by decide +kernel

theorem witness_Forks_read :
    ∃ data bad s1, (booted [(2, 0x1FFFFC0)]).readIssuer 0 ((booted [(2, 0x1FFFFC0)]).readS 2).toNat 64 = .ok (data, bad, s1) := by
  obtain ⟨v, h, -⟩ := ok_with (e := (booted [(2, 0x1FFFFC0)]).readIssuer 0 ((booted [(2, 0x1FFFFC0)]).readS 2).toNat 64)
    (fun _ => true) (by decide +kernel)
  exact ⟨v.1, v.2.1, v.2.2, h⟩

/-- A descriptor of a barrier among package 0 alone, count 1. -/
def barrierCall : State :=
  { booted [(2, 0x20000)] with
    mem := (booted []).mem.write 0x20000 ([1, 0, 0, 0, 0, 0, 0, 0] ++ List.replicate 16 0 ++ [1]) }

theorem witness_Forks_coll :
    (barrierCall.isHeld 0 = false ∧ barrierCall.forkHeld = false ∧ barrierCall.mustWait 0 63 true = false
      ∧ (barrierCall.readS 2).toNat % 64 = 0 ∧ inWindow (barrierCall.readS 2).toNat = false)
    ∧ ∃ desc s1 data bad s2, barrierCall.readIssuer 0 (barrierCall.readS 2).toNat 64 = .ok (desc, [], s1)
      ∧ (collDesc desc).valid barrierCall.pkg.number = true
      ∧ s1.readIssuer 0 (collDesc desc).src ((collDesc desc).bytes barrierCall.pkg.number) = .ok (data, bad, s2) := by
  refine ⟨by decide +kernel, ?_⟩
  obtain ⟨⟨desc, bad0, s1⟩, h, hf⟩ := ok_with (e := barrierCall.readIssuer 0 (barrierCall.readS 2).toNat 64)
    (fun v => decide (v.2.1 = []) && ((collDesc v.1).valid barrierCall.pkg.number &&
      okWith (v.2.2.readIssuer 0 (collDesc v.1).src ((collDesc v.1).bytes barrierCall.pkg.number)) fun _ => true)) (by decide +kernel)
  simp only [Bool.and_eq_true, decide_eq_true_eq] at hf
  obtain ⟨rfl, hv, hr⟩ := hf
  obtain ⟨w, h2, -⟩ := ok_with (fun _ => true) hr
  exact ⟨desc, s1, w.1, w.2.1, w.2.2, h, hv, h2⟩

/-- A descriptor at the end of the X-store for 64 slots of 128 bytes at 0x5DFF0's ring base. -/
def ringState : State :=
  (booted [(2, 0x5FFF0), (3, 0x20000)]).modStore 0 fun st => { st with
    xstore := st.xstore.write 0x5FFF0 [0, 0, 0, 0, 0, 0, 64, 0, 128, 0, 0, 0] }

/-- A ring of two slots whose slot 0 is full, and one that is done. -/
def fullRing : Ring := { resetRing with owner := some 0, count := 2, ssize := 128, read := true, rows := 1, rowb := 128, tiles := 2, moved := 1 }

theorem witness_ShuttleRings :
    ((15 : BitVec 6).toNat ≤ 15 ∧ (ringState.readS 2).toNat % 16 = 0 ∧ (ringState.readS 3).toNat % 64 = 0
      ∧ (ringState.readS 2).toNat + 16 ≤ xstoreSize
      ∧ firstPoison (ringState.core 0).st.xpoison (ringState.readS 2).toNat 16 = none
      ∧ inWindow (ringState.readS 3).toNat = false ∧ (ringState.ring 0 15).owner = none ∧ ringState.forkHeld = false)
    ∧ (∃ r0, ringOf ringState 0 (ringState.readS 2).toNat (ringState.readS 3).toNat = some r0
      ∧ r0.base + r0.count * r0.ssize ≤ (if r0.wstore then wstoreSize else xstoreSize))
    ∧ ((ringState.setRing 0 15 fullRing).outOfTurn = false ∧ (ringState.setRing 0 15 fullRing).ring 0 15 = fullRing
      ∧ fullRing.owner = some 0 ∧ Ring.atFailure fullRing = none ∧ Ring.usable fullRing = true ∧ Ring.ended fullRing = false
      ∧ Ring.usable { fullRing with output := true, moved := 0 } = true
      ∧ Ring.drained { fullRing with head := 2, moved := 2 } = true) :=
  ⟨by decide +kernel, ⟨_, rfl, by decide +kernel⟩, by decide +kernel⟩

/-- A loaded deck of 64 cards on cores 0 and 1, both with a context of the gang's task. -/
def deckState : State :=
  let q : Sequencer := { resetSequencer with cards := List.replicate 64 0, usable := true }
  let s := (booted [(2, 0x1FFF000), (3, 0x5FFE0), (4, 3)]).modCore 0 fun c => { c with seq := q }
  let s := s.modCtx 0 fun c => { c with task := some ⟨0, 0, 0, 0, false, 0⟩ }
  s.modCtx 8 fun c => { c with iss := { c.iss with phase := .running }, task := some ⟨0, 0, 0, 0, false, 0⟩ }

theorem witness_Decks :
    ((deckState.readS 2).toNat % 64 = 0 ∧ touchesGap deckState (deckState.readS 2).toNat (64 * ((63 : BitVec 6).toNat + 1)) = false
      ∧ seqBusy deckState 0 = false ∧ deckState.mustWait 0 63 false = false
      ∧ deckState.homeAhead [((deckState.readS 2).toNat, 4096, 0)] = false)
    ∧ (deckState.deckBusy 0 = false ∧ deckState.outOfTurn = false)
    ∧ ((deckState.readS 3).toNat % 32 = 0 ∧ (deckState.readS 3).toNat + 32 ≤ xstoreSize
      ∧ firstPoison (deckState.core 0).st.xpoison (deckState.readS 3).toNat 32 = none
      ∧ (deckState.core 0).seq.usable = true ∧ (63 : BitVec 6).toNat < (deckState.core 0).seq.cards.length)
    ∧ 2 ≤ (quadCores 0 ((deckState.readS 4).toNat % 16)).length ∧ 0 ∈ quadCores 0 ((deckState.readS 4).toNat % 16)
    ∧ ∀ k ∈ quadCores 0 ((deckState.readS 4).toNat % 16), (gangMember deckState k).isSome ∧ seqBusy deckState k = false
      ∧ firstPoison (deckState.core k).st.xpoison (deckState.readS 3).toNat 32 = none := by decide +kernel

theorem witness_Decks_read :
    ∃ data bad s1, deckState.readIssuer 0 (deckState.readS 2).toNat (64 * ((63 : BitVec 6).toNat + 1)) = .ok (data, bad, s1) := by
  obtain ⟨v, h, -⟩ := ok_with (e := deckState.readIssuer 0 (deckState.readS 2).toNat (64 * ((63 : BitVec 6).toNat + 1)))
    (fun _ => true) (by decide +kernel)
  exact ⟨v.1, v.2.1, v.2.2, h⟩

/-- A partition with 64 task slots at 0x40000, a template table, a spill ring and one die with room for one task. -/
def tasked (rs : List (Nat × BitVec 64)) : State :=
  (booted rs).modPart 0 fun p => { p with ent := { p.ent with
    state := 2, taskBase := 0x40000, taskN := 6, tmplBase := 0x30000, tmplCount := 1, ringBase := 0x50000, ringSize := 0x10000
    shares := [(0, 1)] } }

/-- The state after a packet's read, with what was read learnt, which is where its slot is filled. -/
def afterRead (s : State) : State := s.takeReads.2.learn 0 s.takeReads.1

/-- Whether a packet read takes slot 0 and its task is queued. -/
def spawnable (w : List (BitVec 8) × List Nat × State) : Bool :=
  decide (w.2.1 = [] ∧ (w.1.getD 0 0).toNat / 8 % 16 = 0 ∧ (w.1.getD 1 0).toNat / 32 ≠ 7
    ∧ payloadOff ((w.1.getD 1 0).toNat / 32) ≤ w.1.length
    ∧ packetTmpl w.1 < ((afterRead w.2.2).part (State.partOf (afterRead w.2.2) (afterRead w.2.2).cur.ctx)).ent.tmplCount
    ∧ (afterRead w.2.2).freeSlot (State.partOf (afterRead w.2.2) (afterRead w.2.2).cur.ctx) = some 0)

/-- Whether the task of a packet that fills slot 0 is queued on the die of its issuer. -/
def queues (s : State) (packet : List (BitVec 8)) : Bool :=
  let p := State.partOf s s.cur.ctx
  decide (packetDeps packet = 0) && match (s.fillSlot p 0 packet 0).queueTask p (dieOf s.cur.core) ⟨0, s.slotGen p 0⟩ with
    | (.queued, _) => true
    | _ => false

theorem witness_Spawn :
    let s := tasked [(4, 0x20000)]
    (s.isHeld 0 = false ∧ (s.readS 4).toNat % 32 = 0 ∧ touchesGap s (s.readS 4).toNat 32 = false
      ∧ s.homeAhead [((s.readS 4).toNat, 256, 0)] = false)
    ∧ ∃ head bad s1 packet s2, s.readIssuer 0 (s.readS 4).toNat 1 = .ok (head, bad, s1)
      ∧ touchesGap s1 (s.readS 4).toNat (32 * ((head.headD 0).toNat % 8 + 1)) = false
      ∧ s1.readIssuer 0 (s.readS 4).toNat (32 * ((head.headD 0).toNat % 8 + 1)) = .ok (packet, [], s2)
      ∧ (packet.getD 0 0).toNat / 8 % 16 = 0 ∧ (packet.getD 1 0).toNat / 32 ≠ 7
      ∧ payloadOff ((packet.getD 1 0).toNat / 32) ≤ packet.length
      ∧ packetTmpl packet < ((afterRead s2).part (State.partOf (afterRead s2) (afterRead s2).cur.ctx)).ent.tmplCount
      ∧ (afterRead s2).freeSlot (State.partOf (afterRead s2) (afterRead s2).cur.ctx) = some 0
      ∧ queues (afterRead s2) packet = true := by
  refine ⟨by decide +kernel, ?_⟩
  obtain ⟨v, h, hf⟩ := ok_with (e := (tasked [(4, 0x20000)]).readIssuer 0 ((tasked [(4, 0x20000)]).readS 4).toNat 1)
    (fun v => decide (touchesGap v.2.2 ((tasked [(4, 0x20000)]).readS 4).toNat (32 * ((v.1.headD 0).toNat % 8 + 1)) = false) &&
      okWith (v.2.2.readIssuer 0 ((tasked [(4, 0x20000)]).readS 4).toNat (32 * ((v.1.headD 0).toNat % 8 + 1)))
        fun w => spawnable w && queues (afterRead w.2.2) w.1) (by decide +kernel)
  rw [Bool.and_eq_true] at hf
  obtain ⟨w, h2, hw⟩ := ok_with _ hf.2
  obtain ⟨packet, bad2, s2⟩ := w
  simp only [Bool.and_eq_true, spawnable, decide_eq_true_eq] at hw
  obtain ⟨⟨rfl, h3, h4, h5, h6, h7⟩, h8⟩ := hw
  exact ⟨v.1, v.2.1, v.2.2, packet, s2, h, by simpa using hf.1, h2, h3, h4, h5, h6, h7, h8⟩

/-- Context 0 runs the task of slot 0. -/
def running (rs : List (Nat × BitVec 64)) : State := (tasked rs).modCtx 0 fun c => { c with task := some ⟨0, 0, 0, 0, false, 0⟩ }

/-- A state in which a task ends, up to its publication, and after it. -/
def ending (s : State) : State := (((s.ringsOf 0).foldl (fun (u : State) h => u.freeRing (coreOf 0) h) s).joinAll 0).closeUnits 0
def ended (s : State) : State :=
  ((ending s).modMem 0 fun m => { m with unpub := [] }).publishLines 0 (s.taskScope 0) ((ending s).ctx 0).mem.unpub false none

/-- Context 0 in held mode: of held, and of a guarded pair whose check it runs. -/
def heldState (g : Governor) : State :=
  ((running []).modMem 0 fun m => { m with held := some ⟨g, [], none⟩ }).modPart 0 fun p => { p with pairs := [⟨1, 0, 3, 2, 0⟩] }

/-- A task whose spawn is in flight. -/
def spawned : State := after (.spawn 9 4) (running [(4, 0x20000)]) 0

/-- A publication of context 0 that waits. -/
def pending : Pending := ⟨3, [], none, false, true, .commit, 0⟩

theorem witness_TaskEnd :
    ((running []).unfinished 0 = false ∧ ((running []).ctx 0).mem.held = none
      ∧ ((ending (running [])).modMem 0 fun m => { m with unpub := [] }).mustPost 0 ((ending (running [])).ctx 0).mem.unpub .ending = false
      ∧ ((ended (running [])).ctx 0).task = some ⟨0, 0, 0, 0, false, 0⟩ ∧ ((ended (running [])).ctx 0).mem.held = none
      ∧ ((ended (withRegs [])).ctx 0).task = none)
    ∧ spawned.unfinished 0 = true
    ∧ ((ending ((running []).modMem 0 fun m => { m with pubs := [pending] })).modMem 0 fun m => { m with unpub := [] }).mustPost 0 []
      .ending = true
    ∧ (((heldState .held).ctx 0).mem.held = some ⟨.held, [], none⟩ ∧ ((heldState .held).squashHeld 0).unfinished 0 = false)
    ∧ (((heldState .pair).ctx 0).mem.held = some ⟨.pair, [], none⟩ ∧ (heldState .pair).checkPair 0 = some ⟨1, 0, 3, 2, 0⟩
      ∧ ((heldState .pair).ctx 0).task = some ⟨0, 0, 0, 0, false, 0⟩)
    ∧ (((heldState .pair).modPart 0 fun p => { p with pairs := [] }).checkPair 0 = none
      ∧ ((ended ((heldState .pair).modPart 0 fun p => { p with pairs := [] })).ctx 0).mem.held = some ⟨.pair, [], none⟩) := by
  decide +kernel

theorem witness_Decide :
    ∃ q s1, let s := running [(4, 0x20000)]
      s.isHeld s.cur.ctx = false ∧ (s.readS 4).toNat % 16 = 0 ∧ s.fenced s.cur.ctx = false
      ∧ s.reaches .write false [((s.readS 4).toNat, 16, 0)] [q] s1 ∧ readable s1 (s.readS 4).toNat = true ∧ s1.poison.get (q.pa / 32) = 0
      ∧ s1.mem.get (q.pa + 8) ≠ 1 := by
  obtain ⟨q, s1, h, hf⟩ := one_piece (e := placeAll .write false [(((running [(4, 0x20000)]).readS 4).toNat, 16, 0)] (running [(4, 0x20000)]))
    (fun q s1 => readable s1 ((running [(4, 0x20000)]).readS 4).toNat && decide (s1.poison.get (q.pa / 32) = 0
      ∧ s1.mem.get (q.pa + 8) ≠ 1)) (by decide +kernel)
  rw [Bool.and_eq_true] at hf
  have h2 := of_decide_eq_true hf.2
  exact ⟨q, s1, by decide +kernel, by decide +kernel, by decide +kernel, ⟨by decide +kernel, by decide +kernel, h⟩, hf.1, h2.1, h2.2⟩

/-- A speculation object that is decided. -/
def decidedState : State := { running [(4, 0x20000)] with mem := (running []).mem.write 0x20008 [1] }

theorem witness_Decide_done :
    ∃ q s1, decidedState.reaches .write false [((decidedState.readS 4).toNat, 16, 0)] [q] s1
      ∧ readable s1 (decidedState.readS 4).toNat = true ∧ s1.poison.get (q.pa / 32) = 0 ∧ s1.mem.get (q.pa + 8) = 1 := by
  obtain ⟨q, s1, h, hf⟩ := one_piece (e := placeAll .write false [((decidedState.readS 4).toNat, 16, 0)] decidedState)
    (fun q s1 => readable s1 (decidedState.readS 4).toNat && decide (s1.poison.get (q.pa / 32) = 0 ∧ s1.mem.get (q.pa + 8) = 1))
    (by decide +kernel)
  rw [Bool.and_eq_true] at hf
  exact ⟨q, s1, ⟨by decide +kernel, by decide +kernel, h⟩, hf.1, of_decide_eq_true hf.2⟩

/-- A pick with index 0 and with index 1 of a weft with its stage table at 0. -/
def pick (i : Nat) : State := (running [(4, 1)]).setCtl 0 0x003 (BitVec.ofNat 64 (2 ^ 25 + i))

theorem witness_Stages :
    (pickIndex (pick 0) = some 0 ∧ pickIndex (pick 1) = some (0 + 1) ∧ pickIndex (running []) = none ∧ (pick 0).isHeld 0 = false
      ∧ (pick 0).fenced 0 = false ∧ (pick 1).fenced 0 = false ∧ ((pick 0).ctx (pick 0).cur.ctx).mem.pubs = [])
    ∧ (∃ q s1, (pick 0).reaches .write false [(stageTable (pick 0) + 2 * 0, 2, 0)] [q] s1
      ∧ s1.poisonedByte (s1.ownWrites s1.cur.ctx) q.pa = false ∧ stageEntry s1 q.pa ≤ (s1.readS 4).toNat % 2 ^ 16)
    ∧ ∃ q s1, (pick 1).reaches .read false [(stageTable (pick 1) + 2 * 0, 2, 0)] [q] s1
      ∧ s1.poisonedByte (s1.ownWrites s1.cur.ctx) q.pa = false ∧ (s1.ctx s1.cur.ctx).mem.pubs = []
      ∧ s1.mem.readNat q.pa 2 ≤ (s1.readS 4).toNat % 2 ^ 16 ∧ (s1.readS 0).toNat % 2 ^ 16 ≤ s1.mem.readNat q.pa 2 := by
  obtain ⟨q, s1, h, hf⟩ := one_piece (e := placeAll .write false [(stageTable (pick 0) + 2 * 0, 2, 0)] (pick 0))
    (fun q s1 => decide (s1.poisonedByte (s1.ownWrites s1.cur.ctx) q.pa = false ∧ stageEntry s1 q.pa ≤ (s1.readS 4).toNat % 2 ^ 16))
    (by decide +kernel)
  obtain ⟨q2, s2, h2, hf2⟩ := one_piece (e := placeAll .read false [(stageTable (pick 1) + 2 * 0, 2, 0)] (pick 1))
    (fun q s1 => decide (s1.poisonedByte (s1.ownWrites s1.cur.ctx) q.pa = false ∧ (s1.ctx s1.cur.ctx).mem.pubs = []
      ∧ s1.mem.readNat q.pa 2 ≤ (s1.readS 4).toNat % 2 ^ 16 ∧ (s1.readS 0).toNat % 2 ^ 16 ≤ s1.mem.readNat q.pa 2)) (by decide +kernel)
  exact ⟨by decide +kernel, ⟨q, s1, ⟨by decide +kernel, by decide +kernel, h⟩, of_decide_eq_true hf⟩,
    q2, s2, ⟨by decide +kernel, by decide +kernel, h2⟩, of_decide_eq_true hf2⟩

/-- A present stage of 5 above the stage that pkset names. -/
def pickAhead : State := { pick 0 with mem := (pick 0).mem.write 0 [5] }

theorem witness_Stages_trap :
    ∃ q s1, pickAhead.reaches .write false [(stageTable pickAhead + 2 * 0, 2, 0)] [q] s1
      ∧ s1.poisonedByte (s1.ownWrites s1.cur.ctx) q.pa = false ∧ (s1.readS 4).toNat % 2 ^ 16 < stageEntry s1 q.pa := by
  obtain ⟨q, s1, h, hf⟩ := one_piece (e := placeAll .write false [(stageTable pickAhead + 2 * 0, 2, 0)] pickAhead)
    (fun q s1 => decide (s1.poisonedByte (s1.ownWrites s1.cur.ctx) q.pa = false ∧ (s1.readS 4).toNat % 2 ^ 16 < stageEntry s1 q.pa))
    (by decide +kernel)
  exact ⟨q, s1, ⟨by decide +kernel, by decide +kernel, h⟩, of_decide_eq_true hf⟩

theorem witness_HeldModeAndGuard :
    (((running []).ctx 0).mem.held = none ∧ (running []).heldUse (dieOf (running []).cur.core) < 24
      ∧ (5 : BitVec 3).toNat < 6 ∧ (running []).checkPair 0 = none)
    ∧ (((heldState .held).ctx 0).mem.held = some ⟨.held, [], none⟩ ∧ (heldState .held).heldEngines 0 = []
      ∧ (heldState .held).heldBusy 0 = false
      ∧ (((heldState .held).joinHeld 0).modMem 0 fun m => { m with unpub := [], held := some ⟨.held, [], none⟩ }).mustPost 0
        (withHeldLines ⟨.held, [], none⟩ (((heldState .held).joinHeld 0).ctx 0).mem.unpub) .commit = false)
    ∧ ((heldState .pair).checkPair 0 = some ⟨1, 0, 3, 2, 0⟩ ∧ ((heldState .pair).ctx 0).task = some ⟨0, 0, 0, 0, false, 0⟩
      ∧ ((heldState .pair).ctx 0).mem.held = some ⟨.pair, [], none⟩ ∧ (heldState .pair).heldBusy 0 = false
      ∧ (((heldState .pair).modMem 0 fun m => { m with held := none }).ctx 0).mem.held = none
      ∧ (∀ y ∈ (heldState .pair).membersOf 0 0, (heldState .pair).guardWaits y = false)
      ∧ ∃ y ∈ (heldState .pair).membersOf 0 0, ((heldState .pair).modMem 0 fun m => { m with
          pubs := [⟨3, [], none, false, true, .guard 9, 0⟩] }).guardWaits y = true)
    ∧ (guardPasses 0 0 = true ∧ guardPasses 0x7FC00000 0 = false ∧ guardPasses 0x80000001 0 = false) := by decide +kernel

/-- A die whose 24 held buffers are taken. -/
def heldFull : State := (List.range 24).foldl (fun (s : State) i => s.modMem (8 + i) fun m => { m with held := some ⟨.held, [], none⟩ }) (running [])

theorem witness_HeldModeAndGuard_full :
    (heldFull.ctx heldFull.cur.ctx).mem.held = none ∧ 24 ≤ heldFull.heldUse (dieOf heldFull.cur.core) := by decide +kernel

theorem witness_SymbolsAndSteps :
    let s := running [(2, 0x20000)]
    (0xFFFF : BitVec 16) ≠ 0 ∧ s.cur.symsAt = none ∧ (s.readS 2).toNat % 16 = 0 ∧ touchesGap s (s.readS 2).toNat 256 = false
      ∧ s.homeAhead [((s.readS 2).toNat, 256, 0)] = false
    ∧ (∃ block s1 ys, s.readIssuer 0 (s.readS 2).toNat 256 = .ok (block, [], s1)
      ∧ readRecords 1600 block ((List.range 16).filter fun j => (0xFFFF : BitVec 16).getLsbD j) = some ys)
    ∧ s.findStep (s.stepKey 0).1 (s.stepKey 0).2.1 (s.stepKey 0).2.2 = none ∧ s.ptime.toNat < (s.readS 2).toNat
    ∧ (∃ die q, (after (.deadline 2 7) s 0).findStep (s.stepKey 0).1 (s.stepKey 0).2.1 (s.stepKey 0).2.2 = some (die, q)) := by
  obtain ⟨v, h, hf⟩ := ok_with (e := (running [(2, 0x20000)]).readIssuer 0 ((running [(2, 0x20000)]).readS 2).toNat 256)
    (fun v => decide (v.2.1 = []) && (readRecords 1600 v.1 ((List.range 16).filter fun j => (0xFFFF : BitVec 16).getLsbD j)).isSome)
    (by decide +kernel)
  rw [Bool.and_eq_true] at hf
  obtain ⟨block, bad, s1⟩ := v
  have hb : bad = [] := by simpa using hf.1
  subst hb
  obtain ⟨ys, hy⟩ := Option.isSome_iff_exists.mp hf.2
  have hs : ((after (.deadline 2 7) (running [(2, 0x20000)]) 0).findStep ((running [(2, 0x20000)]).stepKey 0).1
    ((running [(2, 0x20000)]).stepKey 0).2.1 ((running [(2, 0x20000)]).stepKey 0).2.2).isSome = true := by decide +kernel
  obtain ⟨⟨die, q⟩, hq⟩ := Option.isSome_iff_exists.mp hs
  exact ⟨by decide, by decide +kernel, by decide +kernel, by decide +kernel, by decide +kernel, ⟨block, s1, ys, h, hy⟩,
    by decide +kernel, by decide +kernel, die, q, hq⟩

/-- The state with context 0's open step closed; what its deadline depends on there. -/
def stepClosed (s : State) : State :=
  match s.findStep (s.stepKey 0).1 (s.stepKey 0).2.1 (s.stepKey 0).2.2 with
  | some (_, q) => s.endStep (s.stepKey 0) q
  | none => s
def trackedSteps (s : State) : Nat := (((stepClosed s).die 0).steps.filter (·.tracked)).length

/-- A state with a step open, under deadline 0x20000 with 0, 1 or 1,024 other steps. -/
def stepping (n : Nat) : State :=
  (after (.deadline 2 7) (running [(2, 0x20000)]) 0).modDie 0 fun v => { v with
    steps := v.steps ++ List.replicate n ⟨5, 0, 0, 0, 1, 0, 0, 0, 100, true, false⟩ }

theorem witness_SymbolsAndSteps_deadlines :
    ((stepping 0).findStep ((stepping 0).stepKey 0).1 ((stepping 0).stepKey 0).2.1 ((stepping 0).stepKey 0).2.2).isSome = true
    ∧ (stepClosed (stepping 0)).ptime.toNat < ((stepping 0).readS 2).toNat
    ∧ (((stepping 0).readS 0).toNat ≤ (stepClosed (stepping 0)).ptime.toNat ∧ trackedSteps (stepping 0) < 1024
      ∧ (stepClosed (stepping 0)).governing = true)
    ∧ ((running []).findStep ((running []).stepKey 0).1 ((running []).stepKey 0).2.1 ((running []).stepKey 0).2.2 = none
      ∧ ((running []).readS 0).toNat ≤ (running []).ptime.toNat ∧ trackedSteps (running []) < 1024 ∧ (running []).governing = true)
    ∧ ¬trackedSteps (stepping 1024) < 1024
    ∧ (stepClosed { stepping 0 with pkg := { (stepping 0).pkg with watchdog := true } }).governing = false := by decide +kernel

/-- Context 0 with its first bundle, before and after it takes the issue unit. -/
def fetched : State := State.reset.withFetchWord 32 0x20145001
def holding : State := fetched.takeUnit 0 0

/-- The state of an issue, and of what follows the choice of a cycle in core 0. -/
def issuedOf : Attempt → Option State
  | .issued t => some t
  | _ => none

theorem issued_of {a : Attempt} (h : (issuedOf a).isSome = true) : ∃ t, a = .issued t := by
  cases a <;> simp [issuedOf] at h ⊢

def chosen (s : State) : State :=
  let s0 := (s.landDue 0).modCore 0 fun k => { k with iss := { k.iss with tried := some (s.cyc 0) } }
  let xs := s0.contextsOf 0
  let s1 := xs.foldl (fun (u : State) x => ((reopen ((u.wake x).enterHeld x) x).settleWinner x).deliver x) s0
  xs.foldl (fun (u : State) x => u.rewait x) s1

/-- Whether what follows the fetch of context 0's bundle lets it issue. -/
def issues (u : State) (ws : List Nat) (f : State) : Bool :=
  let b := decodeBundle ws
  let g := f.startIssue 0 b
  let dt := g.draftOf 0 b
  let h := g.modTrap 0 fun k => { k with rerun := none }
  decide ((u.ctx 0).iss.phase = .running ∧ (f.ctx 0).iss.pred + 1 + f.stallOf 0 b ≤ u.cyc 0
    ∧ g.pendingReg 0 ((usedTests b).map fun q => sReg q.reg.toNat) = none ∧ g.illegalMask 0 b dt = 0)
  && (g.treeLeaf 0 b).any fun leaf =>
    let on := committing b leaf 0
    decide (g.interlock 0 b on true = none ∧ g.shortfall 0 b on dt = none ∧ h.breakpoint 0 on = none
      ∧ (h.runSlots b [] on).cur.retry = none ∧ h.holdCause 0 b.ew b on = none)

theorem witness_BundleIssue :
    ((fetched.die (dieOf 0)).gated = false ∧ (fetched.core 0).iss.tried ≠ some (fetched.cyc 0)
      ∧ ((chosen fetched).core 0).iss.running = none ∧ (chosen fetched).pick 0 = some (8 * 0 + 0))
    ∧ ((holding.die (dieOf 0)).gated = false ∧ (holding.core 0).iss.tried ≠ some (holding.cyc 0)
      ∧ ((chosen holding).core 0).iss.running = some 0 ∧ (chosen holding).pick 0 = none)
    ∧ ((chosen State.reset).core 0).iss.running = none ∧ (chosen State.reset).pick 0 = none := by decide +kernel

/-- Context 0 with the issue unit, without a snapshot, and after it has opened one. -/
def unitHeld : State := (chosen fetched).takeUnit 0 0
def viewing : State := unitHeld.snapshot 0

theorem witness_BundleIssue_fetch :
    (viewing.gate 0 = none ∧ viewing.fetchHold 0 = none ∧ (viewing.ctx 0).iss.ending = false
      ∧ (unitHeld.ctx 0).mem.view.isNone = true ∧ (viewing.ctx 0).trap.rerun = none)
    ∧ ∃ ws f, viewing.fetchWords 0 = .ok (ws, f) ∧ issues unitHeld ws f = true := by
  obtain ⟨v, h, hf⟩ := ok_with (e := viewing.fetchWords 0) (fun v => issues unitHeld v.1 v.2) (by decide +kernel)
  exact ⟨by decide +kernel, v.1, v.2, h, hf⟩

/-- The context still stalled, its core's column at the current limit, and a context of level 7 beside the one of level 0
that has the unit. -/
def stalled : State := holding.modIss 0 fun i => { i with pred := 50 }
def limitedCore : State := holding.modDie 0 fun v => { v with limited := v.limited.put 0 true }
def outranked : State :=
  ((holding.setCtl 1 0x001 7).modCtx 1 fun c => { c with pc := (holding.ctx 0).pc, iss := { c.iss with phase := .eligible } }).modCtx 0
    fun c => { c with iss := { c.iss with phase := .running } }

theorem witness_BundleIssue_holds :
    ((chosen stalled).attempt 0 = .stall 1 ∧ ((chosen stalled).core 0).iss.running = some 0)
    ∧ ((chosen limitedCore).attempt 0 = .hold 6 ∧ ((chosen limitedCore).core 0).iss.running = some 0)
    ∧ (((chosen outranked).core 0).iss.running = some 0 ∧ (chosen outranked).pick 0 = some 1
      ∧ (chosen outranked).taskPriority 0 < (chosen outranked).taskPriority 1) := by decide +kernel

/-- A context whose barwait, or waitall, has waited past the ctl.bto it read; a context with a waiting publication. -/
def waitingAt (w : Nat) (wait : WaitFor) : State :=
  let s := ((State.reset.withFetchWord 32 w).setCtl 0 0x023 1).modCtx 0 fun c => { c with
    s := [(4, 0xFFFFFE0000100000), (10, 1)]
    iss := { c.iss with phase := .waiting, wait := some wait, waitFrom := some 0, waitLimit := 1 } }
  (s.setBarrier 0 (.store 0 0) ⟨2 ^ 31, 1, 0⟩).modDie 0 fun v => { v with cyc := v.cyc + 8 }

/-- The same at a barrier in global memory. -/
def globallyWaiting : State :=
  let s := ((booted []).withFetchWord 32 0x22100000).setCtl 0 0x023 1
  (s.modCtx 0 fun c => { c with
    s := [(4, 0x20000), (10, 1)]
    iss := { c.iss with phase := .waiting, wait := some ⟨4, 0x0B, 0x20000, some false⟩, waitFrom := some 0, waitLimit := 1 } }).modDie
    0 fun v => { v with cyc := v.cyc + 8 }

theorem witness_ContextEvents_global :
    (timedOut (globallyWaiting.landDue 0) 0 0x0B).any (fun w => decide (placeOf 0 w.addr.toNat 16 = .global)
      && decide ((globallyWaiting.landDue 0).hwPhys (State.partOf (globallyWaiting.landDue 0) 0) w.addr.toNat .read = some 0x20000)) = true := by
  decide +kernel

def snapAfter : Pending := ⟨3, [], none, true, true, .snap, 0⟩
/-- The posted update of a barrier in global memory. -/
def posting (a : After) : Pending := ⟨5, [], none, false, false, a, 0⟩
def posted (a : After) : State := (booted []).modMem 0 fun m => { m with pubs := [posting a] }
def publishing : State := State.reset.modMem 0 fun m => { m with pubs := [snapAfter] }

theorem witness_ContextEvents :
    (((State.reset.modIss 0 fun i => { i with phase := .waiting, sleepUntil := some 0 }).ctx 0).iss.phase = .waiting
      ∧ ((State.reset.modIss 0 fun i => { i with phase := .waiting, sleepUntil := some 0 }).ctx 0).iss.sleepUntil = some 0)
    ∧ (timedOut (waitingAt 0x1500A000 ⟨4, 0x17, 0, none⟩) 0 0x17).isSome = true
    ∧ (∃ w, timedOut (waitingAt 0x22100000 ⟨4, 0x0B, 0xFFFFFE0000100000, some false⟩) 0 0x0B = some w
      ∧ placeOf (coreOf 0) w.addr.toNat 16 = .xstore 0 0)
    ∧ ((publishing.ctx 0).mem.pubs = [snapAfter] ∧ publishing.homesDone 0 snapAfter = true
      ∧ (∀ v pa q, snapAfter.after ≠ .arm v pa q ∧ snapAfter.after ≠ .arrive v pa q ∧ snapAfter.after ≠ .decide v pa q)
      ∧ snapAfter.after ≠ .ending)
    ∧ ((posted (.arm 0x20000 0x20000 3)).homesDone 0 (posting (.arm 0x20000 0x20000 3)) = true
      ∧ (posted (.arrive 0x20000 0x20000 3)).homesDone 0 (posting (.arrive 0x20000 0x20000 3)) = true
      ∧ (posted (.decide 1 0x20000 0x20000)).homesDone 0 (posting (.decide 1 0x20000 0x20000)) = true
      ∧ (posted .ending).homesDone 0 (posting .ending) = true
      ∧ (posted .snap).linesOff 0 [0x20000 / 128] = false) :=
  ⟨by decide +kernel, by decide +kernel, ⟨_, rfl, by decide +kernel⟩, ⟨rfl, by decide +kernel, fun _ _ _ => ⟨nofun, nofun, nofun⟩, nofun⟩,
    by decide +kernel⟩

/-- Context 8's snapshot holds back a publication of context 0 to line 0, of which three prior versions are kept. -/
def heldLine : LineWrite := ⟨.buffer, 0, 0, 1, 1, 0⟩
def heldPub : Pending := ⟨3, [heldLine], none, true, true, .snap, 0⟩
def holdsBack (since : Tab Nat) : State :=
  let s := ((State.reset.setCtl 8 0x023 1).modMem 8 fun m => { m with view := some 1, holding := since }).modMem 0 fun m =>
    { m with pubs := [heldPub] }
  let s : State := { s with versions := [4, 3, 2, 1].map fun k => ⟨k, 0, [⟨1, 3, 0⟩], [], [(0, 0)]⟩ }
  s.modDie 0 fun v => { v with cyc := 8 }

theorem witness_ContextEvents_held :
    ((holdsBack []).homesDone 0 heldPub = true ∧ (holdsBack []).linesOff 0 [0] = true)
    ∧ ((holdsBack []).forcedLine 8 = none ∧ (holdsBack [(0, 0)]).forcedLine 8 = some 0
      ∧ (holdsBack [(0, 0)]).aboutToIssue 8 = false
      ∧ caughtUp ((holdsBack [(0, 0)]).dropSnapshot 8) 8 = true ∧ caughtUp ((holdsBack [(0, 0)]).dropSnapshot 0) 0 = false) := by decide +kernel

/-- A load in flight, an atomic in flight, a spawn in flight, and the records of a symdecl. -/
def loading : State := later (after (.ldg 2 5 2 0) (booted [(2, 0x20000)]) 0)
def adding : State := later (after (.aadd 5 2 4 3) (booted [(2, 0x10100), (4, 7)]) 0)
def spawning : State := later (later (after (.spawn 9 4) (tasked [(4, 0x20000)]) 0))
def declaring : State := later (after (.symdecl 2 1) (booted [(2, 0x20000)]) 0)

/-- Whether the one operation of context 0 is served at once, and passes a test in the state after it has been. -/
def served (s : State) (f : MemOp → State → Bool) : Bool :=
  let s0 := s.landDue (coreOf 0)
  (s0.findOp 0 0).any fun o =>
    s0.outLongEnough 0 o && (s0.memoryTurn 0 0 (opLines o)).1 && f o (s0.memoryTurn 0 0 (opLines o)).2

theorem witness_AccessEvents :
    served loading (fun o s1 => decide (o.home = none ∧ o.size ≠ 8 ∧ o.size ≠ 9
      ∧ (loading.landDue (coreOf 0)).inOrder 0 o = true ∧ (s1.touchLines (opLines o) false).badByte o = none)) = true
    ∧ served { loading with poison := [(0x20000 / 32, 1)] } (fun o s1 => decide
      ((s1.touchLines (opLines o) false).badByte o = some 0x20000)) = true
    ∧ served adding (fun o s1 => decide (o.home = some .add ∧ (adding.landDue (coreOf 0)).mayPerform 0 o = true
      ∧ (s1.prepareHome 0 o .add).homeBad 0 o .add = none)) = true
    ∧ served { adding with poison := [(0x10100 / 32, 1)] } (fun o s1 => decide
      ((s1.prepareHome 0 o .add).homeBad 0 o .add = some 0x10100)) = true := by decide +kernel

theorem witness_AccessEvents_records :
    ((declaring.landDue (coreOf 0)).findOp 0 0).any (fun o => (declaring.landDue (coreOf 0)).outLongEnough 0 o
      && decide (o.home = none ∧ o.size = 9 ∧ (declaring.landDue (coreOf 0)).inOrder 0 o = true
        ∧ ((declaring.landDue (coreOf 0)).memoryTurn 0 0 ((declaring.landDue (coreOf 0)).globalLines 0 o.va 256)).1 = true)) = true
    ∧ (((spawning.landDue (coreOf 0)).ctx 0).mem.ops.find? fun o => o.size = 8).any
      (fun o => (spawning.landDue (coreOf 0)).outLongEnough 0 o && ((spawning.landDue (coreOf 0)).memoryTurn 0 o.id
        ((spawning.landDue (coreOf 0)).globalLines 0 o.va o.operand.toNat)).1) = true := by decide +kernel

/-! ### Witnesses for the events of engines, rings and decks -/

/-- One engine operation in core 0, forked by context 0 with tag 3. -/
def engineOp (k : EngineKind) (data : List (BitVec 8)) : EngineOp :=
  ⟨0, 0, 3, k, data, [], none, 0, 0, [], false, 0, 0, false, 0, false, [], false, [], [], [], none⟩

def engineState (k : EngineKind) (data : List (BitVec 8)) : State :=
  (booted []).modCore 0 fun c => { c with engines := [engineOp k data] }

/-- The state of a move that landed. -/
def movedTo : Move → Option State
  | .landed t => some t
  | _ => none

theorem moved_to {a : Move} (h : (movedTo a).isSome = true) : ∃ t, a = .landed t := by
  cases a <;> simp [movedTo] at h ⊢

def copying : State := engineState (.copy 0x20000 0x30000 64) (List.replicate 64 5)

/-- Memory serves the lines of an operation at once. -/
def servedEngine (s : State) (e : EngineOp) (f : State → Bool) : Bool :=
  let s0 := s.landDue 0
  decide (s0.engine 0 0 = some e) && (s0.engineTurn 0 0 (s0.engineLines e)).1 && f (s0.engineTurn 0 0 (s0.engineLines e)).2

theorem witness_EngineEvents_copy :
    servedEngine copying (engineOp (.copy 0x20000 0x30000 64) (List.replicate 64 5)) (fun s1 =>
      !State.opShot (copying.landDue 0) 0 (engineOp (.copy 0x20000 0x30000 64) []) 0x20000 64
      && (movedTo (({ s1 with free := s1.free + 1 } : State).moveOp 0
        (engineOp (.copy 0x20000 0x30000 64) (List.replicate 64 5)) 0x20000
        (({ s1 with free := s1.free + 1 } : State).copyBytes 0 s1.free 0x20000 0x30000 (List.replicate 64 5)) [])).isSome) = true
    ∧ (engineOp (.copy 0x20000 0x30000 64) []).status ≠ 1 := by decide +kernel

/-- A chain's records: one whose own bit is clear, and one that is to move 64 bytes. -/
def chained (flag : BitVec 8) : State :=
  { engineState (.chain 0x20000) [] with
    mem := (booted []).mem.write 0x20000 [128, 0, 3, 0, 0, 0, 0, 0, 0, 1, 4, 0, 0, 0, 0, 0, 64, 0, 0, 0, flag, 0, 0, 0] }

/-- Whether a chain's record is there, with its own bit, its ranges not shot down, and, if the bit is set, its move lands. -/
def moves (flag : Nat) (e : EngineOp) (s0 : State) : Bool :=
  match s0.chainRecord e 0x20000 with
  | some (r, view, s2) => decide (r.flags % 2 = flag) && !s0.opShot 0 e 0x20000 32 && !s0.opShot 0 e r.src r.len
      && !s0.opShot 0 e r.dst r.len && (decide (flag = 0) || okWith (s2.recordData e r view) fun v =>
        let t := v.2.2.2.engineTurn 0 0 (v.2.2.2.globalLines 0 0x20000 32 ++ v.2.2.2.globalLines 0 r.src r.len)
        let s5 : State := { t.2 with free := t.2.free + 1 }
        t.1 && (movedTo (s5.moveOp 0 v.2.2.1 r.dst (s5.copyBytes 0 t.2.free r.dst r.src v.1) v.2.1)).isSome)
  | none => false

theorem witness_EngineEvents_chain :
    (((chained 0).landDue 0).engine 0 0 = some (engineOp (.chain 0x20000) [])
      ∧ moves 0 (engineOp (.chain 0x20000) []) ((chained 0).landDue 0) = true)
    ∧ ((chained 1).landDue 0).engine 0 0 = some (engineOp (.chain 0x20000) [])
      ∧ moves 1 (engineOp (.chain 0x20000) []) ((chained 1).landDue 0) = true := by decide +kernel

/-- Whether a load-block of two lines is translated, finds room, and memory serves its lines at once. -/
def fills (s0 : State) (e : EngineOp) : Bool :=
  !s0.opShot 0 e 0x1FFFF00 256 && okWith (s0.translateRange 0 (State.partOf s0 0) 0x1FFFF00 256 .read) fun v =>
    let pas := (List.range 2).map fun i => physOf v.1 (0x1FFFF00 + 128 * i) / 128
    v.2.blockRoom (v.2.homeSlice (pas.headD 0)) pas && decide (v.2.blocks = []) && (v.2.memoryTurn 8000 0 pas).1
      && decide ((v.2.memoryTurn 8000 0 pas).2.poison = [])

/-- The descriptor of a barrier among package 0 alone. -/
def barrierDesc : List (BitVec 8) := [1, 0, 0, 0, 0, 0, 0, 0] ++ List.replicate 16 0 ++ [1]

/-- A cancelled operation, a load-block at the last mapped lines, a deck of one card, a collective of this package alone. -/
theorem witness_EngineEvents_units :
    ((((engineState (.copy 0 0 64) []).modCore 0 fun c => { c with engines := c.engines.map fun e => { e with cancel := true } }).landDue
        0).engine 0 0).any (fun e => e.cancel) = true
    ∧ (((engineState (.block 0x1FFFF00 2) []).landDue 0).engine 0 0 = some (engineOp (.block 0x1FFFF00 2) [])
      ∧ fills ((engineState (.block 0x1FFFF00 2) []).landDue 0) (engineOp (.block 0x1FFFF00 2) []) = true)
    ∧ servedEngine (engineState (.deck 0x20000 1) (List.replicate 64 1)) (engineOp (.deck 0x20000 1) (List.replicate 64 1))
      (fun _ => true) = true
    ∧ servedEngine (engineState (.coll 0x20000) barrierDesc) (engineOp (.coll 0x20000) barrierDesc) (fun s1 =>
      !s1.opShot 0 (engineOp (.coll 0x20000) barrierDesc) 0x20000 64 && !landsLocal 0 [(0x20028, bytesLE 8 0, [])]
      && (movedTo (movePieces 0 (engineOp (.coll 0x20000) barrierDesc) [(0, 0x20028, bytesLE 8 0, [])] s1)).isSome) = true
    ∧ landsLocal 0 [(windowBase + 0x100000, [1], []), (0x20028, bytesLE 8 0, [])] = true
    ∧ (let e : EngineOp := { engineOp (.coll 0x20000) barrierDesc with
          result := some (0, [(windowBase + 0x100000, [1], []), (0x20028, bytesLE 8 0, [])]) }
       let s0 := ((booted []).modCore 0 fun c => { c with engines := [e] }).landDue 0
       s0.engine 0 0 = some e ∧ s0.opShot 0 e 0x20000 64 = false)
    ∧ ((engineOp (.coll 0x20000) barrierDesc).result = none ∧ (movedTo (movePieces 0 (engineOp (.coll 0x20000) barrierDesc)
      [(0, windowBase + 0x100000, [1], []), (1, 0x20028, bytesLE 8 0, [])]
        ((engineState (.coll 0x20000) barrierDesc).landDue 0))).isSome = true)
    ∧ ((collDesc barrierDesc).op = 0 ∧ (collDesc barrierDesc).group = 2 ^ 0) := by decide +kernel

/-- A stream with a row asked for, and the last piece of a multicast to quad index 3. -/
def streaming : State :=
  (booted []).setStream 0 1 { resetStream with opened := true, count := 1, lines := [0x20000 / 128], rows := [(0, 0)], asked := [5] }
def multicasting : State := ((engineState (.multicast 0x5FF80 128 8 0 0 []) []).landDue 0).landDue 3

theorem witness_EngineEvents_rows :
    ((streaming.stream 0 1).opened = true ∧ (streaming.stream 0 1).asked = 5 :: []
      ∧ (streaming.memoryTurn 10000 1 [(streaming.stream 0 1).lines.getD 0 0]).1 = true)
    ∧ multicasting.engine 0 0 = some (engineOp (.multicast 0x5FF80 128 8 0 0 []) [])
      ∧ badOffsets (multicasting.core 0).st.xpoison 0x5FF80 128 = []
      ∧ (multicasting.landPiece 0 3 0 0x5FF80 128 0 ((multicasting.core 0).st.xstore.read 0x5FF80 128) [] ⟨0, [], [], none, none, []⟩).1.done = 128 := by decide +kernel

/-- Ring 15 of core 0 in a booted state. -/
def ringed (r : Ring) : State := (booted []).setRing 0 15 r

/-- One row of 128 bytes in each of two tiles at the last mapped bytes. -/
def tileRing : Ring :=
  { resetRing with
    owner := some 0, base := 0x5FF00, count := 2, ssize := 128, read := true, vbase := 0x1FFFF00, rstride := 0, tstride := 128
    rowb := 128, rows := 1, tiles := 2, moved := 1 }

def pullRing : Ring := { tileRing with output := true, queued := [(List.replicate 128 7, [])] }

/-- Whether a ring's next tile is read, and memory serves its lines at once. -/
def fillable (s0 : State) : Bool :=
  okWith (s0.startFill 0 15 0) fun v => decide (v.2.1 = []) && (v.2.2.memoryTurn 9000 15
    ((tileRows tileRing tileRing.moved).flatMap fun va => v.2.2.globalLines 0 va tileRing.rowb)).1

theorem witness_RingAndDeckEvents_rings :
    (∀ out : Bool, (((ringed { tileRing with read := false, output := out }).landDue 0).ring 0 15)
        = { tileRing with read := false, output := out })
    ∧ (((ringed tileRing).landDue 0).ring 0 15 = tileRing ∧ tileRing.moved < tileRing.tiles
      ∧ tileRing.moved - tileRing.head < tileRing.count ∧ State.rowsShot ((ringed tileRing).landDue 0) 0 15 tileRing = false
      ∧ ((ringed tileRing).landDue 0).shooting (State.partOf ((ringed tileRing).landDue 0) 0) tileRing.recAddr 64 = false
      ∧ fillable ((ringed tileRing).landDue 0) = true)
    ∧ (((ringed pullRing).landDue 0).ring 0 15 = pullRing ∧ pullRing.held = false ∧ pullRing.moved < pullRing.tiles
      ∧ State.rowsShot ((ringed pullRing).landDue 0) 0 15 pullRing = false
      ∧ okWith (rowLines 0 pullRing (List.replicate 128 7) [] (tileRows pullRing pullRing.moved) 0 ((ringed pullRing).landDue 0))
        (fun v => (v.2.memoryTurn 9000 15 (distinct (v.1.map (·.line)))).1) = true) := by decide +kernel

/-- Core 0's sequencer at its only card, in a cycle for which the core has chosen. -/
def decked (card : BitVec 512) : State :=
  (booted []).modCore 0 fun c => { c with
    seq := { resetSequencer with cards := [card], usable := true, running := true }, iss := { c.iss with tried := some 1 } }

/-- A flip; a copy of 64 bytes; the end of the deck. -/
def flipCard : BitVec 512 := BitVec.ofNat 512 (0x08000000 + 2 ^ 32)
def copyCard : BitVec 512 := BitVec.ofNat 512 (2 * 2 ^ 32 + 0x20000 * 2 ^ 256 + 0x30000 * 2 ^ 320 + 64 * 2 ^ 384)
def lastCard : BitVec 512 := BitVec.ofNat 512 (8 * 2 ^ 32)

theorem witness_RingAndDeckEvents_decks :
    (let g := State.landDue ((decked flipCard).landDue 0) 0
     g.gangCores 0 = [0] ∧ g.liveCores 0 = [0] ∧ g.deckReady 0 = true ∧ g.stepOwed 0 = true ∧ g.stepOf 0 = .step .mxflip
      ∧ g.stepFree 0 .mxflip = true ∧ g.rowReady 0 .mxflip = true ∧ (emitAll [0] g).1 = [])
    ∧ (let g := (decked copyCard).landDue 0
      g.liveCores 0 = [0] ∧ g.gangCores 0 = [0] ∧ g.deckReady 0 = true ∧ g.stepOwed 0 = false ∧ g.copyOwed 0 = true
      ∧ g.visitFaults [0] = [] ∧ g.copyFree 0 = true ∧ (g.usedNow 0).copy = false)
    ∧ let v := ((decked lastCard).landDue 0).arriveDue 0
      v.liveCores 0 = [0] ∧ v.gangCores 0 = [0] ∧ v.deckReady 0 = true ∧ v.stepOwed 0 = false ∧ v.visitFaults [0] = []
      ∧ v.copyOwed 0 = false ∧ (v.advance 0 (v.nextOf 0)).gangCores 0 = [0]
      ∧ ((v.advance 0 (v.nextOf 0)).seqOf 0).fin = true := by decide +kernel

/-- Cores 0 and 1 in a gang at its only card, whose save is pending after so many visits. -/
def gangDecked (card : BitVec 512) (visits : Nat) : State :=
  let q : Sequencer := { resetSequencer with
    cards := [card], usable := true, running := true, gang := 3, leader := 0, visits := visits, savePending := decide (visits ≠ 0) }
  ((booted []).modCore 0 fun c => { c with seq := q, iss := { c.iss with tried := some 1 } }).modCore 1 fun c => { c with
    seq := { q with owner := 8 }, iss := { c.iss with tried := some 1 } }

/-- The same with core 1's array, or its copy engine, used in this cycle. -/
def gangBusy (card : BitVec 512) : State :=
  (gangDecked card 0).modCore 1 fun c => { c with iss := { c.iss with lastIssue := some 1, used := ⟨true, 0, 0, [], true⟩ } }

/-- A card with a slot M word that names no operation. -/
def badCard : BitVec 512 := BitVec.ofNat 512 (0xFFFFFFFF + 2 ^ 32)

/-- What a card's step, its copy and its visit see of the gang. -/
def stepView (s : State) : State := ([0, 1] : List Nat).foldl (fun (u : State) m => u.landDue m) (s.landDue 0)
def stepsAre (s : State) (faulty : Bool) : Bool :=
  (stepView s).gangCores 0 == [0, 1] && (stepView s).liveCores 0 == [0, 1] && (stepView s).deckReady 0 && (stepView s).stepOwed 0
    && (stepView s).stepOwed 1 && ((emitAll [0, 1] (stepView s)).1.isEmpty != faulty)

theorem witness_RingAndDeckEvents_gangSteps :
    (stepsAre (gangDecked flipCard 0) false = true ∧ (stepView (gangDecked flipCard 0)).stepOf 1 = .step .mxflip
      ∧ (stepView (gangDecked flipCard 0)).stepFree 0 .mxflip = true ∧ (stepView (gangDecked flipCard 0)).stepFree 1 .mxflip = true
      ∧ (stepView (gangDecked flipCard 0)).rowReady 1 .mxflip = true)
    ∧ (stepView (gangBusy flipCard)).deckReady 0 = true ∧ (stepView (gangBusy flipCard)).stepFree 1 .mxflip = false
    ∧ stepsAre (gangDecked badCard 0) true = true ∧ (stepView (gangDecked badCard 0)).stepOf 1 = .bad := by decide +kernel

theorem witness_RingAndDeckEvents_gangVisits :
    (let g := (gangDecked copyCard 0).landDue 0
     g.liveCores 0 = [0, 1] ∧ g.gangCores 0 = [0, 1] ∧ g.deckReady 0 = true ∧ g.stepOwed 0 = false ∧ g.stepOwed 1 = false
      ∧ g.copyOwed 0 = true ∧ g.copyOwed 1 = true ∧ g.visitFaults [0, 1] = [] ∧ g.copyFree 0 = true ∧ g.copyFree 1 = true
      ∧ (g.usedNow 0).copy = false ∧ (g.usedNow 1).copy = false)
    ∧ (((gangBusy copyCard).landDue 0).deckReady 0 = true ∧ (((gangBusy copyCard).landDue 0).usedNow 1).copy = true)
    ∧ (((gangDecked copyCard 65536).landDue 0).deckReady 0 = true ∧ ((gangDecked copyCard 65536).landDue 0).visitFaults [0, 1] ≠ [])
    ∧ (let v := ((gangDecked lastCard 0).landDue 0).arriveDue 0
      v.liveCores 0 = [0, 1] ∧ v.gangCores 0 = [0, 1] ∧ v.deckReady 0 = true ∧ v.stepOwed 1 = false ∧ v.copyOwed 1 = false
      ∧ v.visitFaults [0, 1] = [])
    ∧ (((gangDecked lastCard 65536).landDue 0).arriveDue 0).visitFaults [0, 1] ≠ [] := by decide +kernel

/-! ### Witnesses for the events of tasks and stream front ends -/

theorem some_with {α : Type} {o : Option α} (f : α → Bool) (h : o.any f = true) : ∃ v, o = some v ∧ f v = true := by
  cases o with
  | none => simp at h
  | some v => exact ⟨v, rfl, h⟩

/-- Template 0 asks for 64 registers and one member; slot 0 stands in level 15 of die 0. -/
def queuedState : State :=
  ({ tasked [] with mem := (tasked []).mem.write 0x30808 [64, 8] } : State).modPart 0 fun p => { p with
    ent := { p.ent with tmplBase := 0x30800 }, queues := [(15, [⟨0, 0⟩])] }

/-- A deferred task; a record in the overflow ring. -/
def deferredState : State := (tasked []).modPart 0 fun p => { p with deferred := [⟨0, 0⟩] }
def spilledState : State :=
  ({ tasked [] with mem := (tasked []).mem.write 0x40000 [2] } : State).modPart 0 fun p => { p with ent := { p.ent with ringTail := 8 } }

/-- Context 0 saved alone, and with its core. -/
def savedState (alone : Bool) : State :=
  let s := (running []).setCtx 0 resetCtx
  { s with recs := { s.recs with saves := [(running []).recordOf 0 alone 0x800000] } }

/-- Of an event whose unit reads ranges for partition 0: the memory serves them at once, and its effect is there before and after
that, and changes the state. -/
def afterReading (unit : Nat) (rs : List (Nat × Nat)) (_ : Instr) (s : State) (effect : State → Option State) : Bool :=
  let q := s.hwReads unit 0 0 rs
  q.1 && (effect s).any (fun t => decide (t ≠ s)) && (effect q.2).isSome

/-- The head that die 0 places for partition 0, none aged. -/
def placed (w : State) : Option State :=
  if (w.candidates 0 0).any fun c => (w.part 0).pass.get 0 c.1 = 256 then none
  else match (w.candidates 0 0).getLast? with
    | some (l, _, some (k, cs)) => some ((((w.setLevel 0 0 l ((w.level 0 0 l).drop 1)).place 0 k cs).passOthers 0 0 l).modDie 0
        fun v => { v with placedCyc := some (w.die 0).cyc })
    | _ => none

theorem witness_TaskEvents_place :
    queuedState.serves 0 0 = true ∧ (queuedState.part 0).handlers = [] ∧ (queuedState.die 0).placedCyc ≠ some (queuedState.die 0).cyc
    ∧ afterReading 14000 (queuedState.headReads 0 0) (.dispatch 0 0) queuedState placed = true := by decide +kernel

/-- The oldest record of the ring of partition 0 enters die 0. -/
def refilled (w : State) : Option State :=
  let f := (w.part 0).ent
  match w.hwNat 0 (f.ringBase + f.ringHead) 4 with
  | some h => if w.stale 0 h = false ∧ w.slotState 0 (h % 2 ^ 20) = 2 then
      some ((w.modPart 0 fun u => { u with ent := { u.ent with ringHead := (f.ringHead + 8) % f.ringSize } }).enqueue 0 0
        ⟨h % 2 ^ 20, h / 2 ^ 24⟩) else none
  | none => none

/-- Whether a saved context fits on its core. -/
def resumable (s : State) (rec : SaveRecord) : Bool :=
  rec.alone && s.serves rec.part (dieOf rec.core) && s.canTake rec.core rec && decide (s.placeOnCore rec.core rec = some 0)

theorem witness_TaskEvents :
    ((deferredState.part 0).ent.state = 2 ∧ deferredState.roomFrom 0 0 = some 0 ∧ (deferredState.part 0).deferred = ⟨0, 0⟩ :: [])
    ∧ ((spilledState.part 0).ent.state = 2 ∧ spilledState.roomFrom 0 0 = some 0 ∧ (spilledState.part 0).deferred = []
      ∧ spilledState.ringEmpty 0 = false ∧ spilledState.pkg.hostRefill = false
      ∧ afterReading 14015 [(0x50000, 4)] (.ringRefill 0) spilledState refilled = true)
    ∧ ((((running []).landDue 0).ctx 0).iss.phase ≠ .free ∧ (((running []).landDue 0).ctx 0).iss.saving = none
      ∧ ((((running []).beginSave 0 true).landDue 0).ctx 0).iss.saving = some true
      ∧ (((running []).beginSave 0 true).landDue 0).saveReady 0 = true)
    ∧ ((savedState true).recs.saves[0]?).any (resumable ((savedState true).landDue 0)) = true
    ∧ ((savedState false).recs.saves[0]?).any (fun rec => !rec.alone) = true := by decide +kernel

/-- Front end 0 of the partition with one packet, whose area is 0x60400 and whose control block is at 0x5F000. -/
def streamed (packet : List (BitVec 8)) : State :=
  let m := ((tasked []).mem.write 0x5F000 (bytesLE 8 0x60400 ++ bytesLE 4 0x1000 ++ bytesLE 4 0 ++ bytesLE 8 packet.length)).write 0x60400 packet
  { tasked [] with mem := m, fronts := [(0, { resetFront with block := 0x5F000, bound := true, tail := packet.length })] }

/-- Whether the packet at the head of front end 0, its only one, is one of its stream's and may run. -/
def onePacket (s : State) (packet : List (BitVec 8)) : Bool :=
  decide ((s.part (s.front 0).part).ent.state = 2) && s.frontRuns 0
    && (match s.sources 0 with | [(.stream, .ok b)] => decide (b = packet) | _ => false)
    && kindAllowed .stream (packetKind packet)

/-- What a packet does once front end 0 has read all it needs: it still stands at the head, and has the effect. -/
def packetDoes (i : Instr) (s : State) (packet : List (BitVec 8)) (effect : State → Option State) : Bool :=
  onePacket s packet && onePacket (s.hwReads 13000 0 0 (s.frontReads 0)).2 packet && decide ((s.front 0).part = 0)
    && afterReading 13000 (s.frontReads 0) i s effect

/-- The same of a packet that has executed. -/
def packetRuns (i : Instr) (s : State) (packet : List (BitVec 8)) (effect : State → Option State) : Bool :=
  !reservedSet packet && packetDoes i s packet fun w => (effect w).map fun u => u.consume 0 .stream packet.length

/-- Two 32-byte units: the kind, byte 1, and doublewords at 8 and 16. -/
def packetOf (kind b1 a v : Nat) : List (BitVec 8) :=
  [BitVec.ofNat 8 (8 * kind + 1), BitVec.ofNat 8 b1, 0, 0, 0, 0, 0, 0] ++ bytesLE 8 a ++ bytesLE 8 v ++ List.replicate 40 0

/-- Bit 7 of byte 1 of a LAUNCH; an unlisted byte of the other kinds. -/
theorem witness_StreamEvents_reserved :
    [(Instr.launchPacket 0, packetOf 1 0x80 0 0), (.waitsemPacket 0, (packetOf 2 0 0x61400 0).set 4 1),
      (.sigsemPacket 0, (packetOf 3 1 0x61400 5).set 4 1), (.patchPacket 0, (packetOf 4 0 0x61400 32).set 4 1),
      (.replayPacket 0, (packetOf 5 0 0x62400 0).set 4 1), (.fencePacket 0, (packetOf 6 0 0 0).set 4 1)].all (fun q =>
        reservedSet q.2 && packetDoes q.1 (streamed q.2) q.2 fun w => some (w.haltFront 0 0x02)) = true := by decide +kernel

/-- What a read or a write gives. -/
def okOf {α : Type} : Except Nat α → Option α
  | .ok v => some v
  | .error _ => none

/-- A SIGSEM that adds 5, with or without its fence flag. -/
def signals (flag : Bool) (w : State) : Option State :=
  if w.packetOff 0 (packetOf 3 1 0x61400 5) then none
  else (okOf (w.frontRead 0 0x61400 8)).bind fun old =>
    okOf (((if flag then w.joinView 0 else w).releaseView 0).frontWrite 0 0x61400 (bytesLE 8 ((ofBytesLE old + 5) % 2 ^ 64)))

/-- A task of the stream whose slot has not ended. -/
def owing (packet : List (BitVec 8)) : State := (streamed packet).modFront 0 fun v => { v with tasks := [⟨0, 0⟩] }

theorem witness_StreamEvents_semaphores :
    packetRuns (.waitsemPacket 0) (streamed (packetOf 2 0 0x61400 0)) (packetOf 2 0 0x61400 0) (fun w =>
      (okOf (w.frontRead 0 0x61400 8)).map fun _ => w.joinView 0) = true
    ∧ packetRuns (.sigsemPacket 0) (streamed (packetOf 3 1 0x61400 5)) (packetOf 3 1 0x61400 5) (signals false) = true
    ∧ packetRuns (.sigsemPacket 0) (streamed (packetOf 3 5 0x61400 5)) (packetOf 3 5 0x61400 5) (signals true) = true
    ∧ (streamed (packetOf 3 5 0x61400 5)).fencePasses 0 .stream = true
    ∧ packetRuns (.patchPacket 0) (streamed (packetOf 4 0 0x61400 32)) (packetOf 4 0 0x61400 32) (fun w =>
      if w.packetOff 0 (packetOf 4 0 0x61400 32) then none
      else okOf (w.frontWrite 0 0x61400 (((packetOf 4 0 0x61400 32).drop 32).take 32))) = true
    ∧ packetRuns (.fencePacket 0) (streamed (packetOf 6 0 0 0)) (packetOf 6 0 0 0) (fun w =>
      if w.fencePasses 0 .stream then some ((w.modFront 0 fun v => { v with tasks := [] }).joinView 0) else none) = true := by
  decide +kernel

/-- A FENCE, and a SIGSEM with its fence flag, that wait for a task. -/
theorem witness_StreamEvents_waits :
    ({ owing (packetOf 6 0 0 0) with mem := (owing (packetOf 6 0 0 0)).mem.write 0x40000 [2] } : State).fencePasses 0 .stream = false
    ∧ onePacket (owing (packetOf 6 0 0 0)) (packetOf 6 0 0 0) = true ∧ onePacket (owing (packetOf 3 5 0x61400 5)) (packetOf 3 5 0x61400 5) = true
    ∧ reservedSet (packetOf 6 0 0 0) = false ∧ reservedSet (packetOf 3 5 0x61400 5) = false := by decide +kernel

/-- A launch of n by 1 by 1 tiles at template 0. -/
def launchOf (n : Nat) : List (BitVec 8) :=
  [9, 0, 0, 0] ++ bytesLE 8 0 ++ bytesLE 8 (if n = 0 then 0 else n + 2 ^ 21 + 2 ^ 42) ++ List.replicate 44 0

/-- Template 0 has a kind with its fields, template 1 the kind 0; dies have room. -/
def launching (n : Nat) (kind : BitVec 8) (fields : List (BitVec 8)) : State :=
  let s := streamed (launchOf n)
  ({ s with mem := s.mem.write 0x3080B ([kind] ++ fields) } : State).modPart 0 fun p => { p with ent := { p.ent with
    tmplBase := 0x30800, tmplCount := 2, shares := [(0, 8)] } }

/-- The launch that a packet starts, with a weft's stage table at 0x66000 and a shed of 2. -/
def weftBytes : List (BitVec 8) := [1, 0, 0, 0] ++ bytesLE 8 0x66000
def begun (n : Nat) (kind : BitVec 8) (fields : List (BitVec 8)) : Launch :=
  { tmpl := 0, origin := 0, extent := n + 2 ^ 21 + 2 ^ 42, next := 0, prio := 0, hflag := false, kind := kind.toNat
    fields := fields ++ List.replicate (20 - fields.length) 0, payload := List.replicate 32 0, weft := none }

theorem witness_StreamEvents_starts :
    packetRuns (.launchPacket 0) (launching 0 0 []) (launchOf 0) some = true
    ∧ packetDoes (.launchPacket 0) (launching 2 0 []) (launchOf 2) (fun w => some (w.setLaunch 0 .stream (begun 2 0 []))) = true := by
  decide +kernel

theorem witness_StreamEvents_kinds :
    packetDoes (.launchPacket 0) (launching 2 1 weftBytes) (launchOf 2) (fun w =>
      (okOf (w.startWeft 0 2 (begun 2 1 weftBytes).fields)).map fun q =>
        q.2.setLaunch 0 .stream { begun 2 1 weftBytes with weft := some q.1 }) = true
    ∧ packetDoes (.launchPacket 0) (launching 2 2 [1, 0, 1, 0]) (launchOf 2) (fun w =>
      some (w.setLaunch 0 .stream (begun 2 2 [1, 0, 1, 0]))) = true
    ∧ (launching 2 2 [1, 0, 1, 0]).plainTemplate 0 1 = true := by decide +kernel

/-- A launch in progress: before its task number `next`. -/
def launched (kind : BitVec 8) (fields : List (BitVec 8)) (next : Nat) : State :=
  (launching 2 kind fields).setLaunch 0 .stream { begun 2 kind fields with next := next }

/-- The launch of a weft of two picks before its pick of number n; pick 0 runs in slot 0 on core 0. -/
def wefted (n : Nat) : State :=
  let s := (launching 2 1 weftBytes).modPart 0 fun p => { p with
    wefts := [⟨0, 0x66000, 2, 2, false, [], if n = 0 then [] else [(0, 0)], if n = 0 then none else some 0, false⟩] }
  ({ s with mem := if n = 0 then s.mem else s.mem.write 0x40000 [3] } : State).setLaunch 0 .stream
    { begun 2 1 weftBytes with next := n, weft := some 0 }

/-- The next task of a launch, in slot i, at the tile of number n. -/
def doneOf : Ran → Option State
  | .done u => some u
  | _ => none
def tileTask (n : Nat) (h : Bool) (deps : Nat) (tmpl : Nat) : List (BitVec 8) :=
  taskPacket 0 tmpl (tileCoord 0 (2 + 2 ^ 21 + 2 ^ 42) n) h deps (List.replicate 32 0)

/-- The pick of number n of the weft of the partition's only launch, which runs in slot n. -/
def picks (n : Nat) (w : State) : Option State :=
  (w.part 0).wefts.head?.bind fun wf =>
    if wf.stopped ∨ w.freeSlot 0 ≠ some n ∨ wf.shed ≤ n then none
    else ((if n = 0 then doneOf (w.produce 0 0 (tileTask 0 false 0 0))
        else (w.weftDie 0 wf).bind fun d => if w.shareRoom 0 d && w.ringEmpty 0 then
          some ((w.fillSlot 0 n (tileTask n false 0 0) 0).enqueue 0 d ⟨n, w.slotGen 0 n⟩) else none).map fun u =>
      ((u.setWeft 0 { wf with live := wf.live ++ [(n, n)] }).addTasks 0 .stream [⟨n, w.slotGen 0 n⟩]).setLaunch 0 .stream
        { begun 2 1 weftBytes with next := n + 1, weft := some wf.id })

theorem witness_StreamEvents_tasks :
    packetRuns (.launchPacket 0) (launched 0 [] 2) (launchOf 2) some = true
    ∧ packetDoes (.launchPacket 0) (launched 0 [] 0) (launchOf 2) (fun w =>
      (doneOf (w.produce 0 0 (tileTask 0 false 0 0))).map fun u =>
        (u.addTasks 0 .stream [⟨0, w.slotGen 0 0⟩]).setLaunch 0 .stream { begun 2 0 [] with next := 1 }) = true := by decide +kernel

theorem witness_StreamEvents_picks :
    packetDoes (.launchPacket 0) (wefted 0) (launchOf 2) (picks 0) = true
    ∧ packetDoes (.launchPacket 0) (wefted 1) (launchOf 2) (picks 1) = true := by decide +kernel

theorem witness_StreamEvents_pairs :
    packetDoes (.launchPacket 0) (launched 2 [1, 0, 1, 0] 1) (launchOf 2) (fun w =>
      (doneOf (((w.fillSlot 0 1 (tileTask 1 true 1 1) 1).modPart 0 fun r => { r with pairs := r.pairs ++
        [{ surrogate := 0, check := 1, scope := 0, exact := 1, tol := 0 }] }).produce 0 0 (tileTask 1 true 0 0))).map fun u =>
        (u.addTasks 0 .stream [⟨0, w.slotGen 0 0⟩, ⟨1, w.slotGen 0 1⟩]).setLaunch 0 .stream
          { begun 2 2 [1, 0, 1, 0] with next := 2 }) = true := by decide +kernel

/-- A graph object at 0x62400 with an 8-byte parameter block, whose sequence is empty. -/
def graphed (packet : List (BitVec 8)) (rs : List Replay) (st : Nat) : State :=
  let header := bytesLE 8 0x63400 ++ bytesLE 4 0 ++ bytesLE 4 8 ++ bytesLE 8 0x64000 ++ bytesLE 8 0x65000 ++ bytesLE 8 st
  ({ streamed packet with mem := (streamed packet).mem.write 0x62400 header } : State).modFront 0 fun v => { v with replays := rs }

/-- A REPLAY of it with a patch of 8 bytes, which starts on block 0, or is left pending on block 1. -/
def replayPacket : List (BitVec 8) := packetOf 5 0 0x62400 (8 * 2 ^ 32)
def replays (pending : Bool) (w : State) : Option State :=
  (if pending then (okOf (w.frontRead 0 0x64000 8)).bind fun block => (okOf (w.frontWrite 0 0x65000 block)).bind fun u =>
      okOf (u.frontWrite 0 0x65000 (List.replicate 8 0))
    else okOf (w.frontWrite 0 0x64000 (List.replicate 8 0))).map fun u =>
  (u.hwWrite 0 0x62420 (bytesLE 8 (gstateWord true pending 0 0))).modFront 0 fun v => { v with
    replays := v.replays ++ [⟨0x62400, 0, 0, if pending then 1 else 0, [], none, pending⟩] }

/-- The end of its replay, with none or one pending. -/
def replayEnds (pend : Bool) (w : State) : Option State :=
  (okOf (w.graphHeader 0 0x62400)).map fun h =>
    let t := (w.hwWrite 0 0x62420 (bytesLE 8 (gstateWord pend false (if pend then 1 else 0) (h.getD 5 0 / 2 ^ 32 + 1)))).modFront 0 fun v =>
      { v with replays := v.replays.eraseIdx 0 }
    if pend then t.startPending 0 0x62400 else t

theorem witness_StreamEvents_replay :
    packetRuns (.replayPacket 0) (graphed replayPacket [] 0) replayPacket (replays false) = true
    ∧ packetRuns (.replayPacket 0) (graphed replayPacket [] 1) replayPacket (replays true) = true
    ∧ onePacket (graphed replayPacket [] 3) replayPacket = true
    ∧ ((graphed [] [⟨0x62400, 0, 0, 0, [], none, false⟩] 1).completeReplay 0 = some 0
      ∧ afterReading 13000 ((graphed [] [⟨0x62400, 0, 0, 0, [], none, false⟩] 1).frontReads 0) (.replayComplete 0)
        (graphed [] [⟨0x62400, 0, 0, 0, [], none, false⟩] 1) (replayEnds false) = true)
    ∧ afterReading 13000 ((graphed [] [⟨0x62400, 0, 0, 0, [], none, false⟩, ⟨0x62400, 0, 0, 1, [], none, true⟩] 3).frontReads 0)
        (.replayComplete 0) (graphed [] [⟨0x62400, 0, 0, 0, [], none, false⟩, ⟨0x62400, 0, 0, 1, [], none, true⟩] 3)
        (replayEnds true) = true := by decide +kernel

/-- The tail of a stream, with a packet of an allowed kind, of a reserved kind, or a TASK packet before it. -/
def tailRead (halts : Bool) (w : State) : Option State :=
  (okOf (w.frontRead 0 0x5F010 8)).map fun tail =>
    let u := (w.setFront 0 { w.front 0 with tail := ofBytesLE tail }).putStatus 0 (if (w.front 0).head < ofBytesLE tail then 0 else 2)
    if halts then u.haltFront 0 0x02 else u
def unread (packet : List (BitVec 8)) : State := (streamed packet).modFront 0 fun v => { v with tail := 0 }

theorem witness_StreamEvents_tail :
    [(packetOf 6 0 0 0, false), (packetOf 7 0 0 0, true), (packetOf 0 0 0 0, true)].all (fun q =>
      afterReading 13000 (((unread q.1).tailSeen 0).frontReads 0) (.streamTailRead 0) (unread q.1) (tailRead q.2)) = true := by
  decide +kernel

/-! ### Witnesses for the events of the package -/

/-- The translation memory of partition 0 holds its tables; master 1 is of partition 0, master 0 the owner. -/
def owned : State :=
  let s := (booted []).modPart 0 fun p => { p with ent := { p.ent with state := 2, tmem := [(0x1000, 0x3000)] } }
  let s := (s.modMaster 1 fun q => { q with part := some 0, size := 2 ^ 36 }).modMaster 0 fun q => { q with part := some 0 }
  { s with pkg := { s.pkg with owner := some 0 } }

theorem witness_TranslationAndMasters :
    (owned.shooting 0 0x1FFFFFF 1 = false
      ∧ ∃ l, owned.dieWalk 0 0 0x1FFFFFF = some l ∧ owned.entryAllows 0 0x1FFFFFF .write l = true)
    ∧ (let h : ShootDown := ⟨0, 0, 4096, 7, 0, [], []⟩
      ({ owned with shoots := [h] } : State).shoots[0]? = some h ∧ ({ owned with shoots := [h] } : State).shotDone h = true)
    ∧ ((0x3FF8 : Nat) % 8 = 0 ∧ owned.inTmem 0 0x3FF8 8 = true)
    ∧ ((owned.master 1).frozen = false ∧ (owned.master 1).requests = [] ∧ 0x20000 < 2 ^ 52 ∧ owned.checkpointed 0x20000 = false ∧ owned.mayReach 1 0x20000 32 false = true
      ∧ owned.mayReach 1 0x20000 32 true = true
      ∧ (let q := owned.memoryTurn 11001 0 (physLines 0x20000 32)
        q.1 = true ∧ q.2.mayReach 1 0x20000 32 false = true ∧ firstPoison q.2.poison 0x20000 32 = none
          ∧ q.2.mayReach 1 0x20000 32 true = true ∧ q.2.tmemOf 0x20000 32 = none)
      ∧ owned.mayReach 1 (2 ^ 33) 32 false = false
      ∧ owned.linesOff 8000 (physLines 0x20000 32) = false
      ∧ owned.readsLog 0x20000 32 none = false ∧ owned.inAperture 1 0x20000 32 = true ∧ owned.inAperture 1 (2 ^ 33) 32 = true
      ∧ (owned.master 1).base + (owned.master 1).size < 2 ^ 51 + 32)
    ∧ (let s : State := { owned with pkg := { owned.pkg with logBase := 0x40000, logSize := 64 } }
      s.pkg.logBase ≤ 0x40000 ∧ 0x40000 + 64 ≤ s.pkg.logBase + s.pkg.logSize / 32 * 32 ∧ s.checkpointed 0x40000 = false)
    ∧ (owned.pkg.owner = some 0 ∧ ((owned.freeze 1 true).master 1).frozen = true ∧ (owned.freeze 1 true).pkg.owner = some 0)
    ∧ owned.pkg.owner ≠ some 1 := by
  obtain ⟨l, hl, hf⟩ := some_with (o := owned.dieWalk 0 0 0x1FFFFFF) (owned.entryAllows 0 0x1FFFFFF .write) (by decide +kernel)
  exact ⟨⟨by decide +kernel, l, hl, hf⟩, by decide +kernel, by decide +kernel, by decide +kernel, by decide +kernel, by decide +kernel,
    by decide +kernel⟩

/-- Three prior versions of line 0x400, which context 8's snapshot keeps: a master's write of it waits. -/
theorem witness_TranslationAndMasters_held :
    ({ owned.modMem 8 (fun m => { m with view := some 1 }) with
      versions := [4, 3, 2, 1].map fun k => ⟨k, 0, [⟨1, 3, 0⟩], [], [(0x20000, 0)]⟩ } : State).linesOff 8000 (physLines 0x20000 32) = true := by
  decide +kernel

/-- The channel status and the entry of a running partition as the control window shows them (22 R381, 24 R402, R403). -/
theorem test_window_reads :
    (({ State.reset with channels := [(5, { resetChannel with temp := 2, rate := 2, cap := 1, owed := 3, abr := 7 })] } : State).readWindow
        0x300028 8 = [0x32, 3, 7, 0, 0, 0, 0, 0])
    ∧ owned.readWindow 0x100000 1 = [BitVec.ofNat 8 (owned.part 0).ent.state]
    ∧ owned.readWindow 0x0FFFF8 8 = List.replicate 8 0 := by decide +kernel

/-- Channel 0 at the end of an interval, with one refresh owed, with nine. -/
def channelState (owed : Nat) : State :=
  ({ State.reset with pkg := { State.reset.pkg with now := 122000 } } : State).setChannel 0 { resetChannel with owed := owed }

/-- A channel a temperature period on, and a die with a line at its scrubber's place. -/
def hotState : State := { State.reset with pkg := { State.reset.pkg with now := 100000000 } }
def cachedState : State :=
  ({ State.reset with l2 := [⟨512, 0, false⟩] } : State).modDie 0 fun v => { v with cyc := 4096 }

theorem witness_MemoryEvents :
    ((channelState 0).channel 0).interval + refreshTime ((channelState 0).channel 0).rate ≤ (channelState 0).pkg.now
    ∧ (channelState 1).mayRefreshBank 0 = true
    ∧ ((channelState 9).channel 0).owed = 9 ∧ ((channelState 9).channel 0).blocked ≤ (channelState 9).pkg.now
    ∧ ¬(tempCode ((channelState 0).channel 0).temp 95 = 4 ∧ ((channelState 0).channel 0).temp ≠ 4)
    ∧ (((hotState.channel 0).tempAt / 100000000 < hotState.pkg.now / 100000000 ∧ (hotState.channel 0).cap ≠ 3)
      ∧ (hotState.channel 0).scrub / 2000000 < hotState.pkg.now / 2000000)
    ∧ ((cachedState.die 0).gated = false ∧ (cachedState.die 0).sliceScrub / 4096 < (cachedState.die 0).cyc / 4096
      ∧ cachedState.sliceLine 0 = some 512)
    ∧ (((booted []).die (dieOf 0)).gated = false ∧ ((booted []).core 0).bobbinCyc < (booted []).cyc 0
      ∧ ((booted []).core 0).bobbinPause = none ∧ ((booted []).core 0).bobbin.length < 64)
    ∧ ((((booted []).modCore 0 fun v => { v with bobbinPause := some 1 }).core 0).bobbinPause = some 1
      ∧ 1 ≤ ((booted []).modCore 0 fun v => { v with bobbinPause := some 1 }).cyc 0) := by decide +kernel

/-- A die with a second entry and a paused clock, at the end of an epoch; context 0's step is past its deadline. -/
def clocked : State :=
  let s := (running []).modDie 0 fun v => { v with
    table := v.table.put 1 (BitVec.ofNat 64 (2000 + 900 * 2 ^ 16 + 420 * 2 ^ 26)), pauseEnd := some 1
    steps := [⟨0, 0, 0, 0, 1, 0, 0, 0, 100, true, false⟩] }
  { s with pkg := { s.pkg with now := 100000000, hostGovernor := true } }

theorem witness_ClockEvents :
    ((clocked.pkg.epoch + 1) * 100000000 ≤ clocked.pkg.now ∧ (List.replicate 8 1).length = 8 ∧ (List.replicate 13 1).length = 13)
    ∧ (clocked.governing = true ∧ clocked.mayClock 0 1 = true ∧ clocked.pkg.hostGovernor = true ∧ capped clocked 0 1 = true
      ∧ clocked.withinCaps [] 0 1 = true ∧ (clocked.entryAt 0 0).fmhz ≤ (clocked.die 0).mhz)
    ∧ ({ clocked with pkg := { clocked.pkg with hostGovernor := false } } : State).governing = true
    ∧ ((clocked.die 0).pauseEnd = some 1 ∧ 1 ≤ (clocked.die 0).cyc)
    ∧ ∃ q, (clocked.die 0).steps[0]? = some q ∧ clocked.stepCtx q = some 0 ∧ clocked.atRisk 0 q = true := by
  obtain ⟨q, hq, hf⟩ := some_with (o := (clocked.die 0).steps[0]?) (fun q => decide (clocked.stepCtx q = some 0 ∧ clocked.atRisk 0 q = true))
    (by decide +kernel)
  exact ⟨by decide +kernel, by decide +kernel, by decide +kernel, by decide +kernel, q, hq, of_decide_eq_true hf⟩

/-- A core whose weights fell faster than its slew limit, in a cycle for which it has chosen. -/
def slewed : State :=
  ((booted []).modDie 0 fun v => { v with cyc := 200 }).modCore 0 fun c => { c with iss := { c.iss with
    tried := some 200, slew := 10, weights := [(100, 50)] } }

theorem witness_StepRunsDecoded_late :
    slewed.agenda = [] ∧ slewed.nextEvent = none ∧ slewed.nextIssue = none ∧ slewed.nextLate = some (.ballastBundle 0) := by
  decide +kernel

theorem witness_PowerEvents :
    (((clocked.die 0).gated = false ∧ clocked.governing = true
      ∧ (clocked.die 0).trimAt.get 0 11 + (if (clocked.entryAt 0 (clocked.die 0).entry).nt then 40000000 else 10000000) ≤ clocked.pkg.now)
      ∧ (clocked.modDie 0 fun v => { v with supply := v.supply.put 11 900 }).supplyOf 0 11
        < Min.min (clocked.entryAt 0 (clocked.die 0).entry).vmax 950)
    ∧ slewed.ballastWeight 0 ≠ 0
    ∧ (((clocked.modDie 0 fun u => { u with tripped := true, disturbed := true }).usableEntries 0).head?).isSome = true
    ∧ ((clocked.modDie 0 fun u => { u with tripped := true }).die 0).tripped = true
    ∧ ((clocked.modDie 0 fun u => { u with tripped := true }).modDie 0 fun u => { u with tripped := false }).governing = true := by
  decide +kernel

/-- Partition 0 on dies 0 and 1; die 1 asked to ungate. -/
def spread : State := owned.modPart 0 fun p => { p with ent := { p.ent with quads := BitVec.ofNat 192 (1 + 2 ^ 24) } }

theorem witness_DieEvents :
    State.reset.mayGate 7 = true
    ∧ (let s := State.reset.modDie 7 fun v => { v with gated := true }
      (s.die 7).gated = true ∧ (s.die 7).ungateAt = none)
    ∧ (let s := State.reset.modDie 7 fun v => { v with gated := true, ungateAt := some 0 }
      (s.die 7).ungateAt = some 0 ∧ 0 ≤ s.pkg.now ∧ (s.die 7).tripped = false ∧ s.governing = true
      ∧ ({ s with pkg := { s.pkg with watchdog := true } } : State).governing = false)
    ∧ mayShrink spread (some 0) 0 = true
    ∧ 1 ∈ spread.partDies 0 ∧ 2 ≤ (spread.partDies 0).length
    ∧ (1 ∉ (spread.part 0).shrunk ∧ ((spread.modPart 0 fun q => { q with shrunk := q.shrunk.filter (· ≠ 1) }).die 1).gated = false)
    ∧ (let s := spread.modDie 1 fun v => { v with gated := true }
      (s.die 1).gated = true ∧ (s.die 1).ungateAt = none)
    ∧ ¬(0 ∉ ((spread.modPart 0 fun q => { q with shrunk := [0] }).part 0).shrunk
      ∨ ∀ x ∈ (spread.modPart 0 fun q => { q with shrunk := [0] }).contextsIn 0, dieOf (coreOf x) ≠ 0) := by decide +kernel

/-- A partition entry that may start. -/
def startableState (st : Nat) : State :=
  owned.modPart 0 fun p => { p with ent := { p.ent with
    state := st, taskBase := 0x40000, taskN := 6, tmplBase := 0x30000, tmplCount := 1, ringBase := 0x50000, ringSize := 0x10000 } }

/-- Whether the quads, groups and front ends of an entry stay. -/
def keptUnits (e w : PartEntry) : Bool := decide (w.quads = e.quads ∧ w.groups = e.groups ∧ w.fronts = e.fronts)

theorem witness_OwnerEvents :
    ({ State.reset with pkg := { State.reset.pkg with open_ := true } } : State).pkg.owner = none
    ∧ owned.pkg.owner = some 0
    ∧ (let s : State := { owned with pkg := { owned.pkg with target := some (1, 5) } }
      s.pkg.target = some (1, 5) ∧ s.pkg.now ≤ 5 ∧ 5 < ({ s with pkg := { s.pkg with now := 6 } } : State).pkg.now)
    ∧ (let e := ((startableState 1).part 0).ent
      (startableState 1).pkg.owner = some 0 ∧ ((startableState 1).master 0).frozen = false
      ∧ keptUnits e (e.ofImage (patchBytes e.image 0 [2])) = true ∧ e.state = 1
      ∧ startable (e.ofImage (patchBytes e.image 0 [2])) = true)
    ∧ (let e := ((owned.modPart 0 fun p => { p with ent := { p.ent with state := 1 } }).part 0).ent
      keptUnits e (e.ofImage (patchBytes e.image 0 [2])) = true ∧ startable (e.ofImage (patchBytes e.image 0 [2])) = false)
    ∧ (let e := ((startableState 2).part 0).ent
      keptUnits e (e.ofImage (patchBytes e.image 0 [1])) = true ∧ e.state = 2
      ∧ (((startableState 2).stopPart 0).setEntry 0 (e.ofImage (patchBytes e.image 0 [1]))).pkg.hostRefill = false) := by
  decide +kernel

theorem witness_TraceAndFirmware :
    (owned.pkg.owner = some 0 ∧ (owned.master 0).frozen = false ∧ (3 ||| 0x80) % 2 ^ 28 % 128 < 96
      ∧ ∃ q ∈ owned.parts, q.2.ent.quads.getLsbD (24 * 0 + (3 ||| 0x80) % 2 ^ 28 % 128 / 4) = true)
    ∧ ((owned.modDie 0 fun v => { v with traceLeft := some 0 }).die 0).traceLeft = some 0
    ∧ (owned.pkg.checkpoints = [] ∧ owned.pkg.hostCheckpoint = false ∧ (owned.part 0).ent.state = 2)
    ∧ (let s : State := { State.reset with pkg := { State.reset.pkg with checkpoints := [0] } }
      0 ∈ s.pkg.checkpoints ∧ s.partBusy 0 = false ∧ (s.part 0).ent.state ≠ 2)
    ∧ (let s : State := { owned with pkg := { owned.pkg with checkpoints := [0], hostUpdate := true, pushed := some 5 } }
      0 ∈ s.pkg.checkpoints ∧ (s.part 0).ent.state = 2 ∧ s.partBusy 0 = true ∧ s.pkg.hostUpdate = true ∧ s.pkg.pushed = some 5
        ∧ s.pkg.pushed ≠ some 6)
    ∧ owned.pkg.updating = false ∧ ({ owned with pkg := { owned.pkg with updating := true } } : State).pkg.updating = true := by
  decide +kernel

theorem witness_StepKeepsForm :
    (State.reset.mem.wf = true ∧ State.reset.poison.wf = true) ∧ ∃ t, step State.reset = .next t := ⟨by decide, _, rfl⟩

/-! ### Witnesses for traps, barriers in global memory, streams, multicasts, collectives and trees -/

/-- Addresses that are misaligned, end beyond the stores, or meet a poisoned sector. -/
def trapping : State :=
  (withRegs [(2, 8), (3, 0x5FF80), (4, 0x7FF80), (5, 0x20), (6, 0x60000), (7, 1), (9, 0x5FFF8)]).modStore 0 fun st => { st with
    xpoison := [(3, 1)], wpoison := [(3, 3)] }

theorem witness_LocalAccesses_traps :
    ((63 : BitVec 6).toNat < trapping.grant 0 ∧ trapping.addrOf 2 128 (0 : BitVec 10) % 16 ≠ 0)
    ∧ (trapping.addrOf 3 128 (0 : BitVec 10) % 16 = 0 ∧ xstoreSize < trapping.addrOf 3 128 (0 : BitVec 10) + 1 * xstride trapping + 128
      ∧ ∀ e < 1, trapping.addrOf 3 128 (0 : BitVec 10) + e * xstride trapping + 128 ≤ xstoreSize)
    ∧ (trapping.addrOf 4 128 (0 : BitVec 10) % 16 = 0 ∧ wstoreSize < trapping.addrOf 4 128 (0 : BitVec 10) + 1 * 128 + 128
      ∧ ∀ e < 1, trapping.addrOf 4 128 (0 : BitVec 10) + e * 128 + 128 ≤ wstoreSize)
    ∧ (trapping.addrOf 5 128 (0 : BitVec 10) % 16 = 0
      ∧ (∀ c < 8, trapping.addrOf 5 128 (0 : BitVec 10) + c * xstride trapping + 128 ≤ xstoreSize)
      ∧ (∃ c < 8, firstPoison (trapping.core 0).st.xpoison (trapping.addrOf 5 128 (0 : BitVec 10) + c * xstride trapping) 128 = some 3)
      ∧ (∃ c < 8, firstPoison (trapping.core 0).st.wpoison (trapping.addrOf 5 128 (0 : BitVec 10) + c * 128) 128 = some 3))
    ∧ (accRowOf trapping 7 0 % 4 ≠ 0 ∧ trapping.addrOf 7 2 (0 : BitVec 10) % 2 ≠ 0
      ∧ xstoreSize < trapping.addrOf 6 8 (0 : BitVec 10) + 8 ∧ trapping.addrOf 6 8 (0 : BitVec 10) % 8 = 0
      ∧ firstPoison (trapping.core 0).st.xpoison (trapping.addrOf 5 32 (0 : BitVec 10)) 128 = some 3)
    ∧ (trapping.readS 7 ≠ 0 ∧ ((trapping.readS 6).toNat / 2048 : Nat) + lendImm (0 : BitVec 10).toNat 10 trapping.cur.lend
      = 192) := by decide +kernel

/-- Whether an access fails, with its code. -/
def failsWith {α : Type} (e : Except (Nat × Nat) α) (code : Nat) : Bool :=
  match e with
  | .error r => decide (r.1 = code)
  | .ok _ => false

theorem fails_with {α : Type} {e : Except (Nat × Nat) α} {code : Nat} (h : failsWith e code = true) : ∃ va, e = .error (code, va) := by
  cases e with
  | error r => exact ⟨r.2, by simp [failsWith] at h; rw [← h]⟩
  | ok _ => simp [failsWith] at h

/-- The page of the booted state without the right to be read. -/
def unreadable : State :=
  let s := booted [(2, 0x20000), (3, 0x2000000), (4, 0xFFFFFE0000000000), (5, 0x20004)]
  { s with mem := putWord8 s.mem 0x3000 0x7B }

theorem witness_HomeOperations_traps :
    ((unreadable.readS 5).toNat % 8 ≠ 0 ∧ unreadable.isHeld unreadable.cur.ctx = false
      ∧ unreadable.homeAhead [((unreadable.readS 3).toNat, 8, 0)] = false ∧ inWindow (unreadable.readS 4).toNat = true
      ∧ ¬(inWindow (unreadable.readS 3).toNat = true ∨ inWindow ((unreadable.readS 3).toNat + 8 - 1) = true)
      ∧ unreadable.shooting (State.partOf unreadable unreadable.cur.ctx) (unreadable.readS 3).toNat 8 = false)
    ∧ (∃ va, placeAll .read false [((unreadable.readS 3).toNat, 8, 0)] unreadable = .error (0x06, va))
    ∧ (∃ va, placeAll .read false [((unreadable.readS 2).toNat, 8, 0)] unreadable = .error (0x07, va))
    ∧ ∃ p s1, (unreadable.readS 2).toNat % 32 = 0 ∧ unreadable.reaches .write false [((unreadable.readS 2).toNat, 32, 0)] [p] s1
      ∧ readable s1 p.va = false := by
  obtain ⟨p, s1, h, hf⟩ := one_piece (e := placeAll .write false [((unreadable.readS 2).toNat, 32, 0)] unreadable)
    (fun p s1 => !readable s1 p.va) (by decide +kernel)
  exact ⟨by decide +kernel, fails_with (by decide +kernel), fails_with (by decide +kernel), p, s1, by decide +kernel,
    ⟨by decide +kernel, by decide +kernel, h⟩, by simpa using hf⟩

/-- An armed barrier of 3 in global memory, which `arrived` meets or not. -/
def globalBarrier (arrived : Nat) : State :=
  let s := booted [(2, 0x20000), (3, 3)]
  { s with mem := s.mem.write 0x20000 (bytesLE 4 (2 ^ 31) ++ bytesLE 4 3 ++ bytesLE 4 arrived) }

theorem witness_TagsAndBarriers_global (arrived : Nat) (h : arrived = 2 ∨ arrived = 3) :
    ∃ q t, let s := globalBarrier arrived
      (s.readS 2).toNat % 16 = 0 ∧ placeOf s.cur.core (s.readS 2).toNat 16 = .global ∧ s.fenced s.cur.ctx = false
      ∧ s.reaches .write false [((s.readS 2).toNat, 16, 0)] [q] t ∧ readable t (s.readS 2).toNat = true
      ∧ s.isHeld s.cur.ctx = false ∧ (t.ctx s.cur.ctx).iss.wait = none ∧ t.outOfTurn = false
      ∧ (t.barrierAt (.memory q.pa)).armed = true ∧ (t.barrierAt (.memory q.pa)).expected = 3
      ∧ (t.barrierAt (.memory q.pa)).arrived = arrived := by
  obtain ⟨q, t, hq, hf⟩ := one_piece (e := placeAll .write false [(((globalBarrier arrived).readS 2).toNat, 16, 0)] (globalBarrier arrived))
    (fun q t => readable t ((globalBarrier arrived).readS 2).toNat && decide ((t.ctx 0).iss.wait = none ∧ t.outOfTurn = false
      ∧ (t.barrierAt (.memory q.pa)).armed = true ∧ (t.barrierAt (.memory q.pa)).expected = 3
      ∧ (t.barrierAt (.memory q.pa)).arrived = arrived)) (by rcases h with rfl | rfl <;> decide +kernel)
  rw [Bool.and_eq_true] at hf
  have hd := of_decide_eq_true hf.2
  have hs : ((globalBarrier arrived).readS 2).toNat % 16 = 0 ∧ placeOf (globalBarrier arrived).cur.core ((globalBarrier arrived).readS 2).toNat 16
      = .global ∧ (globalBarrier arrived).fenced (globalBarrier arrived).cur.ctx = false
      ∧ (globalBarrier arrived).isHeld (globalBarrier arrived).cur.ctx = false
      ∧ (globalBarrier arrived).homeAhead [(((globalBarrier arrived).readS 2).toNat, 16, 0)] = false := by
    rcases h with rfl | rfl <;> decide +kernel
  refine ⟨q, t, hs.1, hs.2.1, hs.2.2.1, ⟨hs.2.2.2.2, ?_, hq⟩, hf.1, hs.2.2.2.1, hd⟩
  rcases h with rfl | rfl <;> decide +kernel

/-- A global barrier at which context 0 has read the phase 1 before, or whose turn is behind a publication. -/
def globalLater (turned : Bool) : State :=
  if turned then (globalBarrier 3).modIss 0 fun i => { i with wait := some ⟨4, 0x0B, 0x20000, some true⟩ }
  else ((globalBarrier 3).modMem 0 fun m => { m with pubs := [pending] }).modCur fun c => { c with posted := 1 }

theorem witness_TagsAndBarriers_later (turned : Bool) :
    ∃ q t, (globalLater turned).reaches .write false [(((globalLater turned).readS 2).toNat, 16, 0)] [q] t
      ∧ readable t ((globalLater turned).readS 2).toNat = true
      ∧ if turned then (t.barrierAt (.memory q.pa)).phase ≠ (((t.ctx 0).iss.wait).bind (·.phase)).getD false ∧ t.outOfTurn = false
        else t.outOfTurn = true := by
  obtain ⟨q, t, hq, hf⟩ := one_piece (e := placeAll .write false [(((globalLater turned).readS 2).toNat, 16, 0)] (globalLater turned))
    (fun q t => readable t ((globalLater turned).readS 2).toNat && decide (if turned then
      (t.barrierAt (.memory q.pa)).phase ≠ (((t.ctx 0).iss.wait).bind (·.phase)).getD false ∧ t.outOfTurn = false
      else t.outOfTurn = true)) (by cases turned <;> decide +kernel)
  rw [Bool.and_eq_true] at hf
  exact ⟨q, t, ⟨by cases turned <;> decide +kernel, by cases turned <;> decide +kernel, hq⟩, hf.1, of_decide_eq_true hf.2⟩

theorem witness_HeddleStreams_waits :
    (((withRegs []).setStream 0 3 { resetStream with opened := true, arrived := 1, pos := 1 }).stream 0 3).opened = true
    ∧ (((withRegs []).setStream 0 3 { resetStream with opened := true, arrived := 1, pos := 1 }).stream 0 3).arrived
      ≤ (((withRegs []).setStream 0 3 { resetStream with opened := true, arrived := 1, pos := 1 }).stream 0 3).pos
    ∧ ((withRegs []).stream 0 3).opened = false := by decide +kernel

/-- A multicast of 256 bytes to quad index 3, whose first piece has landed and whose second is due, or is the last of two. -/
def pieceState (done : Nat) : State :=
  ((engineState (.multicast 0x5FF00 256 12 0 0 [(2, ⟨256, [], [], some true, some 0, []⟩), (3, ⟨done, [], [], none, none, []⟩)]) []).landDue
    0).landDue 3

theorem witness_EngineEvents_pieces :
    (12 / 2 ^ 3 % 2 = 1 ∧ (0 : Nat) < 256 ∧ (128 : Nat) < 256 ∧ (0 : BitVec 64).toNat ≤ (pieceState 0).cyc 0)
    ∧ (pieceState 0).engine 0 0 = some (engineOp (.multicast 0x5FF00 256 12 0 0 [(2, ⟨256, [], [], some true, some 0, []⟩),
        (3, ⟨0, [], [], none, none, []⟩)]) [])
    ∧ ((pieceState 0).landPiece 0 3 0 0x5FF00 256 0 (((pieceState 0).core 0).st.xstore.read 0x5FF00 256) []
        ⟨0, [], [], none, none, []⟩).1.done = 128
    ∧ ((pieceState 128).landPiece 0 3 0 0x5FF00 256 0 (((pieceState 128).core 0).st.xstore.read 0x5FF00 256) []
        ⟨128, [], [], none, none, []⟩).1.done = 256 := by decide +kernel

/-- A sum of one word over packages 0, 1 and 2, the parts in the order 2, 0, 1 of their arrival. -/
def sumDesc : List (BitVec 8) := [3, 0, 0, 0, 7, 0, 0, 0] ++ List.replicate 16 0 ++ [1]
def partOfPackage (g arrival : Nat) : PeerPart := ⟨g, 3, 1, 7, false, bytesLE 4 g, arrival⟩

theorem witness_EngineEvents_coll :
    ((([partOfPackage 1 9, partOfPackage 2 0].map (·.pkg)).Nodup))
    ∧ (∀ g, g ∈ [partOfPackage 1 9, partOfPackage 2 0].map (·.pkg) ↔ g < 64 ∧ g ≠ 0 ∧ 7 / 2 ^ g % 2 = 1)
    ∧ ([⟨2, 0, bytesLE 4 2⟩, ⟨0, 5, bytesLE 4 0⟩, ⟨1, 9, bytesLE 4 1⟩] : List State.Part).Perm
        (⟨0, 5, bytesLE 4 0⟩ :: [partOfPackage 1 9, partOfPackage 2 0].map fun q => ⟨q.pkg, q.arrival, q.data⟩)
    ∧ ([⟨2, 0, bytesLE 4 2⟩, ⟨0, 5, bytesLE 4 0⟩, ⟨1, 9, bytesLE 4 1⟩] : List State.Part).Pairwise
        (fun a b => a.arrival < b.arrival ∨ (a.arrival = b.arrival ∧ a.pkg < b.pkg)) := by
  refine ⟨by decide, fun g => ?_, by decide, by decide⟩
  constructor
  · intro h
    simp [partOfPackage] at h
    rcases h with rfl | rfl <;> decide
  · rintro ⟨h, h0, h7⟩
    have : g < 3 := by
      rcases Nat.lt_or_ge g 3 with h3 | h3
      · exact h3
      · have : 7 / 2 ^ g = 0 := Nat.div_eq_of_lt (Nat.lt_of_lt_of_le (by decide : 7 < 2 ^ 3) (Nat.pow_le_pow_right (by decide) h3))
        rw [this] at h7; cases h7
    simp [partOfPackage]; omega

/-- The words of a tree bundle of shape 7 with tests of s0 by the relations of a list, test 0 first. -/
def treeWords (rels : List Nat) : List Nat :=
  let h := 2 ^ 124 + 7 * 2 ^ 55 + rels.getD 0 0 * 2 ^ 88 + rels.getD 1 0 * 2 ^ 78 + rels.getD 2 0 * 2 ^ 68 + rels.getD 3 0 * 2 ^ 58
  (List.range 4).map (fun i => h / 2 ^ (32 * i) % 2 ^ 32) ++ List.replicate 10 0 ++ [0xFFFF0003, 0x80000001]

/-- 04 R94, R95: shape 7 with t0 and not t3 ends at leaf 0, with t0 and t2 at leaf 2; 02 R32: the offsets of leaves 2 and 4. -/
theorem test_tree :
    (withRegs []).treeLeaf 0 (decodeBundle (treeWords [1, 0, 0, 2])) = some 0
    ∧ (withRegs []).treeLeaf 0 (decodeBundle (treeWords [0, 1, 8, 0])) = some 2
    ∧ (withRegs []).treeLeaf 0 (decodeBundle (treeWords [0, 1, 9, 0])) = none
    ∧ (withRegs []).leafNext 0 (decodeBundle (treeWords [])) 2 = ((withRegs []).ctx 0).pc - 1
    ∧ (withRegs []).leafNext 0 (decodeBundle (treeWords [])) 4 = ((withRegs []).ctx 0).pc - 32768 := by decide +kernel

theorem witness_BundleIssue_trees :
    headerOf (treeWords [0, 1, 8, 0]) / 2 ^ 124 % 2 ^ 4 = 1
    ∧ (∀ k < 4, headerOf (treeWords [0, 1, 8, 0]) / 2 ^ (88 - 10 * k) % 2 ^ 4 ≤ 8)
    ∧ 9 ≤ headerOf (treeWords [0, 1, 8, 15]) / 2 ^ (88 - 10 * 3) % 2 ^ 4 := by decide +kernel

theorem witness_Forks_blocks : (booted []).cur.live = true ∧ State.reset.cur.live = false := by decide +kernel

end Sys2Proof.Tests
end

/-! SUPPORT. What the events of a die's gating do (01 R20, 21 R370 to R372), and O58. -/

namespace Sys2Proof.Machine

namespace State

/-! ### What a chain of updates leaves alone -/

theorem foldl_keeps {α β : Type} (view : State → β) (f : State → α → State) (hf : ∀ s a, view (f s a) = view s)
    (l : List α) (s : State) : view (l.foldl f s) = view s := by
  induction l generalizing s with
  | nil => rfl
  | cons a l ih => exact (ih (f s a)).trans (hf s a)

/-! ### Lines written back: dies and contexts stay (22 R380, R382) -/

/-- A line written back waits there already, or its channel alone changes. -/
theorem queueBack_cases (s : State) (l : Nat) :
    s.queueBack l = s ∨ ∃ v, s.queueBack l = s.setChannel (channelOf (128 * l)) v := by
  simp only [queueBack, queueLine]
  split
  · exact .inl rfl
  · exact .inr ⟨_, rfl⟩

@[simp] theorem queueBack_dies (s : State) (l : Nat) : (s.queueBack l).dies = s.dies := by
  obtain h | ⟨v, h⟩ := s.queueBack_cases l <;> simp [h]

@[simp] theorem queueBack_ctxs (s : State) (l : Nat) : (s.queueBack l).ctxs = s.ctxs := by
  obtain h | ⟨v, h⟩ := s.queueBack_cases l <;> simp [h]

@[simp] theorem rehash_dies (s : State) : s.rehash.dies = s.dies := foldl_keeps (·.dies) queueBack queueBack_dies _ _

@[simp] theorem rehash_ctxs (s : State) : s.rehash.ctxs = s.ctxs := foldl_keeps (·.ctxs) queueBack queueBack_ctxs _ _

@[simp] theorem rehash_mem (s : State) : s.rehash.mem = s.mem :=
  foldl_keeps (·.mem) queueBack (fun s l => (queueBack_same s l).1) _ _

/-! ### A gated die (01 R20, 07 R159, 21 R371) -/

/-- The generator's queue of a core whose die gates is lost, with what it has pushed by then (07 R159). -/
def dropBobbin (s : State) (n : Nat) : State := (s.fillBobbin n).modCore n fun c => { c with bobbin := [] }

theorem gateDie_eq (s : State) (d : Nat) : s.gateDie d =
    ((((s.cores.map (·.1)).filter fun n => dieOf n = d).foldl dropBobbin s).modDie d fun v =>
      { v with gated := true, ungateAt := none, drained := v.cyc }).rehash := rfl

theorem gateDie_die (s : State) (d : Nat) :
    (s.gateDie d).die d = { s.die d with gated := true, ungateAt := none, drained := (s.die d).cyc } := by
  have h (ns : List Nat) : (ns.foldl dropBobbin s).die d = s.die d := foldl_keeps (·.die d) dropBobbin (fun _ _ => rfl) ns s
  rw [gateDie_eq, die, rehash_dies, ← die, die_modDie, h]

theorem gateDie_ctx (s : State) (d x : Nat) : (s.gateDie d).ctx x = s.ctx x := by
  rw [gateDie_eq, ctx, rehash_ctxs, modDie_ctxs, foldl_keeps (·.ctxs) dropBobbin (fun _ _ => rfl), ← ctx]

theorem gateDie_mem (s : State) (d : Nat) : (s.gateDie d).mem = s.mem := by
  rw [gateDie_eq, rehash_mem, modDie_mem, foldl_keeps (·.mem) dropBobbin fun _ _ => rfl]

/-- Nothing of partition p is still to be saved on die d since p shrank off it (log entry 4). -/
def isAway (s : State) (p d : Nat) : Prop := d ∉ (s.part p).shrunk ∨ ∀ x ∈ s.contextsIn p, dieOf (coreOf x) ≠ d

theorem saving_iff_not_isAway (s : State) (p d : Nat) :
    ((s.part p).shrunk.contains d && (s.contextsIn p).any fun x => decide (dieOf (coreOf x) = d)) = true ↔ ¬s.isAway p d := by
  simp [isAway]

end State

open State

/-! ### The events of gating (21 R371) -/

theorem exec_dieGate {s : State} {d : Nat} (h : s.mayGate d = true) : exec (.dieGate d) s = .next (s.gateDie d) :=
  congrArg _ (if_pos h)

theorem exec_dieUngate {s : State} {d : Nat} (hg : (s.die d).gated = true) (hu : (s.die d).ungateAt = none) :
    exec (.dieUngate d) s = .next (s.modDie d fun v => { v with ungateAt := some (s.pkg.now + 20000000) }) :=
  congrArg _ (if_pos ⟨hg, hu⟩)

/-- The state in which die d is clocked again and its slices are back in the hash, before its entry is looked at. -/
def State.reclocked (s : State) (d : Nat) : State :=
  (s.modDie d fun v => { v with gated := false, ungateAt := none }).rehash

/-- Die d at the entry that its limits ask for as it is clocked again (21 R370). -/
def State.atLimits (s : State) (d : Nat) : State :=
  if (s.die d).tripped then s.toLowest d else if s.governing then s else s.force d (s.die d).lastSafe

theorem State.atLimits_tripped {s : State} {d : Nat} (h : (s.die d).tripped = true) : s.atLimits d = s.toLowest d := if_pos h

theorem State.atLimits_governed {s : State} {d : Nat} (h : (s.die d).tripped = false) (hg : s.governing = true) :
    s.atLimits d = s := by simp [atLimits, h, hg]

theorem State.atLimits_ungoverned {s : State} {d : Nat} (h : (s.die d).tripped = false) (hg : s.governing = false) :
    s.atLimits d = s.force d (s.die d).lastSafe := by simp [atLimits, h, hg]

/-- The profiles of the entry at which die d stands are granted to it. -/
def State.profiled (s : State) (d : Nat) : State := s.grantProfiles d (s.entryAt d (s.die d).entry)

theorem exec_ungateComplete {s u : State} {d t : Nat} (hu : (s.die d).ungateAt = some t) (ht : t ≤ s.pkg.now)
    (hl : (s.reclocked d).atLimits d = u) : exec (.ungateComplete d) s = .next (u.profiled d) := by
  subst hl
  change execUngateComplete d s = _
  simp only [execUngateComplete, hu, if_neg (Nat.not_lt.mpr ht)]
  rfl

/-! ### Shrinking and growing (21 R372) -/

theorem exec_shrink {s : State} {req : Option Nat} {p d : Nat} (hm : mayShrink s req p = true) (hd : d ∈ s.partDies p)
    (hl : 2 ≤ (s.partDies p).length) : exec (.shrink ⟨req, p⟩ d) s = .next
      (((s.modPart p fun q => { q with shrunk := d :: q.shrunk }).requeue p d).saveCores p fun e => decide (e = d)) := by
  refine congrArg Host.Outcome.next (if_neg ?_)
  simp [hm, hd, Nat.not_lt.mpr hl]

/-- Partition p after it has taken die d back. -/
def State.regrown (s : State) (p d : Nat) : State :=
  s.modPart p fun q => { q with shrunk := q.shrunk.filter (· ≠ d) }

theorem exec_grow_saving {s : State} {p d : Nat} (h : ¬s.isAway p d) : exec (.grow p d) s = .next s :=
  congrArg _ (if_pos ((s.saving_iff_not_isAway p d).mpr h))

/-- A grow whose saves are done asks for the ungating of a gated die as a DIE_UNGATE does. -/
theorem exec_grow_isAway {s : State} {p d : Nat} (h : s.isAway p d) :
    exec (.grow p d) s = exec (.dieUngate d) (s.regrown p d) :=
  congrArg _ (if_neg fun k => (s.saving_iff_not_isAway p d).mp k h)

theorem exec_dieUngate_clocked {s : State} {d : Nat} (h : (s.die d).gated = false) : exec (.dieUngate d) s = .next s :=
  congrArg _ (if_neg fun k => Bool.false_ne_true (h.symm.trans k.1))

/-- Settles O58: each event by its equation, for an ungating after the limits of the die, for a grow after the saves. -/
theorem dieEvents : Obligations.DieEvents := by
  intro s d p t
  refine ⟨fun h => ?gate, exec_dieUngate, fun hu ht => ?complete, fun req => exec_shrink, exec_grow_saving, fun ha hg => ?grow,
    fun ha hg hu => ?ungate⟩
  case gate =>
    have hd := s.gateDie_die d
    exact ⟨s.gateDie d, exec_dieGate h, by rw [hd], by rw [hd], by rw [hd], s.gateDie_ctx d, s.gateDie_mem d⟩
  case complete =>
    exact ⟨fun hr => exec_ungateComplete hu ht (atLimits_tripped hr), fun hr =>
      ⟨fun hg => exec_ungateComplete hu ht (atLimits_governed hr hg),
        fun hg => exec_ungateComplete hu ht (atLimits_ungoverned hr hg)⟩⟩
  case grow => exact (exec_grow_isAway ha).trans (exec_dieUngate_clocked hg)
  case ungate => exact (exec_grow_isAway ha).trans (exec_dieUngate hg hu)

end Sys2Proof.Machine

/-! SUPPORT. Words of slots: what a packed word's fields and opcode read as (03 R55 to R71), and O3. -/

namespace Sys2Proof

/-! ### Packed words -/

theorem packWord_eq_add (op : Nat) (fs : List (Nat × Nat)) : packWord op fs = op + packWord 0 fs := by
  induction fs generalizing op with
  | nil => rfl
  | cons f fs ih => rw [packWord, packWord, ih, ih (0 + _)]; omega

theorem packWord_cons (op v lo : Nat) (fs : List (Nat × Nat)) :
    packWord op ((v, lo) :: fs) = op + v * 2 ^ lo + packWord 0 fs := packWord_eq_add _ fs

/-- A select bit or mode that the opcode's number holds is a field of the word like the others. -/
theorem packWord_of_select {op op' v lo : Nat} (h : op' = op + v * 2 ^ lo) (f : Nat × Nat) (fs : List (Nat × Nat)) :
    packWord op' (f :: fs) = packWord op (f :: (v, lo) :: fs) := by
  rw [h, packWord, packWord, packWord, Nat.add_right_comm]

/-- The value `v` at bit `lo` of a word ends below bit `hi`. -/
def EndsBelow (hi v lo : Nat) : Prop := (v + 1) * 2 ^ lo ≤ 2 ^ hi

@[simp] theorem endsBelow_toNat {n hi lo : Nat} (v : BitVec n) (h : lo + n ≤ hi) : EndsBelow hi v.toNat lo :=
  calc (v.toNat + 1) * 2 ^ lo ≤ 2 ^ n * 2 ^ lo := Nat.mul_le_mul_right _ v.isLt
    _ = 2 ^ (lo + n) := by rw [← Nat.pow_add, Nat.add_comm]
    _ ≤ 2 ^ hi := Nat.pow_le_pow_right (by decide) h

/-- The fields of a word lie in falling order, without overlap, in the bits below `hi`. -/
def FieldsBelow : Nat → List (Nat × Nat) → Prop
  | _, [] => True
  | hi, (v, lo) :: fs => EndsBelow hi v lo ∧ FieldsBelow lo fs

@[simp] theorem fieldsBelow_nil (hi : Nat) : FieldsBelow hi [] := trivial

@[simp] theorem fieldsBelow_cons {hi v lo : Nat} {fs : List (Nat × Nat)} :
    FieldsBelow hi ((v, lo) :: fs) ↔ EndsBelow hi v lo ∧ FieldsBelow lo fs := Iff.rfl

theorem packWord_zero_lt {hi : Nat} {fs : List (Nat × Nat)} (h : FieldsBelow hi fs) : packWord 0 fs < 2 ^ hi := by
  induction fs generalizing hi with
  | nil => exact Nat.two_pow_pos hi
  | cons f fs ih =>
    obtain ⟨v, lo⟩ := f
    obtain ⟨hv, hf⟩ := h
    have hlo := ih hf
    rw [EndsBelow, Nat.succ_mul] at hv
    rw [packWord_cons]
    omega

theorem packWord_lt {op hi k : Nat} {fs : List (Nat × Nat)} (hf : FieldsBelow hi fs) (h : op + 2 ^ hi ≤ k) :
    packWord op fs < k := by
  have := packWord_zero_lt hf
  rw [packWord_eq_add]
  omega

/-- Fields below bit `hi` leave an opcode at `hi` as it is. -/
theorem packWord_div {op hi : Nat} {fs : List (Nat × Nat)} (hf : FieldsBelow hi fs) (ho : 2 ^ hi ∣ op) :
    packWord op fs / 2 ^ hi = op / 2 ^ hi := by
  obtain ⟨c, rfl⟩ := ho
  rw [packWord_eq_add, Nat.mul_add_div (Nat.two_pow_pos hi), Nat.div_eq_of_lt (packWord_zero_lt hf),
    Nat.mul_div_cancel_left _ (Nat.two_pow_pos hi), Nat.add_zero]

/-! ### Reading a field back -/

theorem div_mod_of_field {w lo n : Nat} {v : BitVec n} (h : field w lo n = v) : w / 2 ^ lo % 2 ^ n = v.toNat := by
  rw [← h, field, BitVec.toNat_ofNat]

@[simp] theorem field_packWord_head {op lo n : Nat} {fs : List (Nat × Nat)} (v : BitVec n) (hf : FieldsBelow lo fs)
    (ho : op % 2 ^ (lo + n) = 0) : field (packWord op ((v.toNat, lo) :: fs)) lo n = v := by
  obtain ⟨c, rfl⟩ := Nat.dvd_of_mod_eq_zero ho
  have hop : 2 ^ (lo + n) * c + v.toNat * 2 ^ lo = 2 ^ lo * (2 ^ n * c + v.toNat) := by
    rw [Nat.pow_add, Nat.mul_add, Nat.mul_assoc, Nat.mul_comm v.toNat]
  rw [field, packWord, hop, packWord_div hf (Nat.dvd_mul_right ..), Nat.mul_div_cancel_left _ (Nat.two_pow_pos lo)]
  exact BitVec.eq_of_toNat_eq (by simp [Nat.mod_eq_of_lt v.isLt])

theorem field_add_mul (w v : Nat) {lo lo' n : Nat} (h : lo + n ≤ lo') : field (w + v * 2 ^ lo') lo n = field w lo n := by
  obtain ⟨k, rfl⟩ := Nat.exists_eq_add_of_le h
  have hv : v * 2 ^ (lo + n + k) = 2 ^ lo * (2 ^ n * (2 ^ k * v)) := by
    rw [Nat.mul_comm v, Nat.pow_add, Nat.pow_add, Nat.mul_assoc, Nat.mul_assoc]
  rw [field, hv, Nat.add_mul_div_left _ _ (Nat.two_pow_pos lo)]
  exact BitVec.eq_of_toNat_eq (by simp [field])

@[simp] theorem field_packWord_skip {op v lo lo' n : Nat} {fs : List (Nat × Nat)} (h : lo + n ≤ lo') :
    field (packWord op ((v, lo') :: fs)) lo n = field (packWord op fs) lo n := by
  rw [packWord_cons, Nat.add_right_comm, ← packWord_eq_add, field_add_mul _ _ h]

/-! ### Opcodes with several forms -/

/-- rett's mode, bits 17:16, and its handle say which form a word of control opcode 8 is (14 R291). -/
theorem decodeControl_rett (a : BitVec 6) (k : BitVec 2) :
    decodeControl (packWord 0x08000000 [(a.toNat, 18), (k.toNat, 16)]) =
      if k = 0 then if a = 0 then .op .rett else .op (.rettResume a)
      else if k = 1 then .op (.rettSkip a) else if k = 2 then .op (.rettEnd a) else .bad := by
  have ho := packWord_div (op := 0x08000000) (hi := 24) (fs := [(a.toNat, 18), (k.toNat, 16)]) (by simp) (by decide)
  have ha := field_packWord_head (op := 0x08000000) (lo := 18) (fs := [(k.toNat, 16)]) a (by simp) rfl
  have hk : field (packWord 0x08000000 [(a.toNat, 18), (k.toNat, 16)]) 16 2 = k := by simp
  generalize packWord 0x08000000 [(a.toNat, 18), (k.toNat, 16)] = w at ho ha hk ⊢
  have handle : w / 2 ^ 18 % 64 = a.toNat := div_mod_of_field ha
  have mode : w / 2 ^ 16 % 4 = k.toNat := div_mod_of_field hk
  have modes : ∀ k : BitVec 2, k = 0 ∨ k = 1 ∨ k = 2 ∨ k = 3 := by decide
  rw [decodeControl, ho, mode, handle, ha]
  obtain rfl | rfl | rfl | rfl := modes k
  · simp [← BitVec.toNat_inj]
  · rfl
  · rfl
  · rfl

/-- Bit 19 of a word of matrix opcode 1 says whether the plane comes from the W-store or from a stream (09 R204). -/
theorem decodeMatrix_mxpush {fs : List (Nat × Nat)} (q : BitVec 6) (k : BitVec 1) (hf : FieldsBelow 19 fs) :
    let w := packWord 0x04000000 ((q.toNat, 20) :: (k.toNat, 19) :: fs)
    decodeMatrix w = if k = 0 then .op (.mxpushWstore q (field w 10 6) (field w 0 6))
      else .op (.mxpushStream q (field w 8 2)) := by
  intro w
  have ho : w / 2 ^ 26 = 0x04000000 / 2 ^ 26 := packWord_div (by simp [hf]) (by decide)
  have hq : field w 20 6 = q := field_packWord_head q (by simp [hf]) rfl
  have hk : field w 19 1 = k := by simp [w, hf]
  have source : w / 2 ^ 19 % 2 = k.toNat := div_mod_of_field hk
  rw [decodeMatrix, ho, source, hq]
  simp [← BitVec.toNat_inj]

theorem decodeMatrix_mxpushWstore (q a o : BitVec 6) :
    decodeMatrix (packWord 0x04000000 [(q.toNat, 20), (a.toNat, 10), (o.toNat, 0)]) = .op (.mxpushWstore q a o) := by
  rw [packWord_of_select (op' := 0x04000000) (op := 0x04000000) (v := (0 : BitVec 1).toNat) (lo := 19) rfl,
    decodeMatrix_mxpush q 0 (by simp)]
  simp

theorem decodeMatrix_mxpushStream (q : BitVec 6) (h : BitVec 2) :
    decodeMatrix (packWord 0x04080000 [(q.toNat, 20), (h.toNat, 8)]) = .op (.mxpushStream q h) := by
  rw [packWord_of_select (op' := 0x04080000) (op := 0x04000000) (v := (1 : BitVec 1).toNat) (lo := 19) rfl,
    decodeMatrix_mxpush q 1 (by simp)]
  simp

/-! ### Decoding what `encode` gives, class by class

In each class `cases he` leaves the instructions of the class: the fields of their words lie below the opcode, so the opcode
selects their arm and each field reads back. -/

/-- No class has a field at or above bit 26, and no opcode reaches beyond the word. -/
theorem encode_lt {i : Instr} {c : SlotClass} {w : Nat} (he : encode i = some (c, w)) : w < 2 ^ 32 := by
  cases i <;> cases he
  all_goals exact packWord_lt (hi := 26) (by simp) (by decide)

theorem decodeScalar_encode {i : Instr} {w : Nat} (he : encode i = some (.scalar, w)) : decodeScalar w = .op i := by
  cases i <;> cases he
  all_goals
    rw [decodeScalar, packWord_div (by simp) (by decide)]
    simp

theorem decodeVector_encode {i : Instr} {w : Nat} (he : encode i = some (.vector, w)) : decodeVector w = .op i := by
  cases i <;> cases he
  all_goals
    rw [decodeVector, packWord_div (by simp) (by decide)]
    simp

theorem decodeSpecial_encode {i : Instr} {w : Nat} (he : encode i = some (.special, w)) : decodeSpecial w = .op i := by
  cases i <;> cases he
  all_goals
    rw [decodeSpecial, packWord_div (by simp) (by decide)]
    simp

theorem decodeMemory_encode {i : Instr} {w : Nat} (he : encode i = some (.memory, w)) : decodeMemory w = .op i := by
  cases i <;> cases he
  all_goals
    rw [decodeMemory, packWord_div (by simp) (by decide)]
    simp

theorem decodeMatrix_encode {i : Instr} {w : Nat} (he : encode i = some (.matrix, w)) : decodeMatrix w = .op i := by
  cases i <;> cases he
  case mxpushWstore q a o => exact decodeMatrix_mxpushWstore q a o
  case mxpushStream q h => exact decodeMatrix_mxpushStream q h
  all_goals
    rw [decodeMatrix, packWord_div (by simp) (by decide)]
    simp

/-- A rett with a handle of s0 is no rettResume: the form without a handle has that word (14 R291). -/
theorem decodeControl_encode {i : Instr} {w : Nat} (hi : i.wellFormed = true) (he : encode i = some (.control, w)) :
    decodeControl w = .op i := by
  cases i <;> cases he
  case rett => exact decodeControl_rett 0 0
  case rettResume a =>
    have ha : a ≠ 0 := by simpa [Instr.wellFormed] using hi
    exact (decodeControl_rett a 0).trans ((if_pos rfl).trans (if_neg ha))
  case rettSkip a => exact (congrArg _ (packWord_of_select rfl (a.toNat, 18) [])).trans (decodeControl_rett a 1)
  case rettEnd a => exact (congrArg _ (packWord_of_select rfl (a.toNat, 18) [])).trans (decodeControl_rett a 2)
  all_goals
    rw [decodeControl, packWord_div (by simp) (by decide)]
    simp

/-- Settles O3, class by class. -/
theorem encodeDecodes : Obligations.EncodeDecodes := by
  intro i c w hi he
  refine ⟨encode_lt he, ?_⟩
  cases c with
  | scalar => exact decodeScalar_encode he
  | vector => exact decodeVector_encode he
  | special => exact decodeSpecial_encode he
  | memory => exact decodeMemory_encode he
  | matrix => exact decodeMatrix_encode he
  | control => exact decodeControl_encode hi he

/-- Settles O2: the twelve words are decoded. -/
theorem decodeWords : Obligations.DecodeWords := by
  unfold Obligations.DecodeWords
  decide

end Sys2Proof

/-! SUPPORT. O14, and the immediate forms of the scalar slots (03 R56, 05 R121 to R124), O18. -/

namespace Sys2Proof.Machine

/-- Settles O14: the branches of every meaning lie inside the one state it gives, so the arm of each constructor is a next
state as it stands. -/
theorem noStop : Obligations.NoStop := by
  intro i s
  cases i <;> exact ⟨_, rfl⟩

/-! ### Shifts as arithmetic -/

theorem shiftLeft_eq_ofNat (v : BitVec 64) (n : Nat) : v <<< n = BitVec.ofNat 64 (v.toNat * 2 ^ n) :=
  BitVec.eq_of_toNat_eq (by simp [Nat.shiftLeft_eq])

theorem shiftRight_eq_ofNat (v : BitVec 64) (n : Nat) : v >>> n = BitVec.ofNat 64 (v.toNat / 2 ^ n) := by
  rw [← Nat.shiftRight_eq_div_pow, ← BitVec.toNat_ushiftRight, BitVec.ofNat_toNat, BitVec.setWidth_eq]

theorem sshiftRight_eq_ofInt (v : BitVec 64) (n : Nat) : v.sshiftRight n = BitVec.ofInt 64 (v.toInt / 2 ^ n) := by
  rw [BitVec.sshiftRight, Int.shiftRight_eq_div_pow]
  norm_cast

/-- A value moved up by n bits, with another put in below. -/
theorem shiftLeft_add_eq_ofNat (v : BitVec 64) (n m : Nat) :
    v <<< n + BitVec.ofNat 64 m = BitVec.ofNat 64 (v.toNat * 2 ^ n + m) := by
  rw [shiftLeft_eq_ofNat, BitVec.ofNat_add]

/-! ### Immediate shifts and movk (05 R122, R124) -/

theorem exec_shli (s : State) (d a n : BitVec 6) :
    exec (.shli d a n) s = .next (s.writeS d 1 (BitVec.ofNat 64 ((s.readS a).toNat * 2 ^ n.toNat))) := by
  rw [← shiftLeft_eq_ofNat]
  rfl

theorem exec_shri (s : State) (d a n : BitVec 6) :
    exec (.shri d a n) s = .next (s.writeS d 1 (BitVec.ofNat 64 ((s.readS a).toNat / 2 ^ n.toNat))) := by
  rw [← shiftRight_eq_ofNat]
  rfl

theorem exec_srai (s : State) (d a n : BitVec 6) :
    exec (.srai d a n) s = .next (s.writeS d 1 (BitVec.ofInt 64 ((s.readS a).toInt / 2 ^ n.toNat))) := by
  rw [← sshiftRight_eq_ofInt]
  rfl

theorem exec_movk_tree {s : State} (h : s.cur.kind = .tree) (d : BitVec 6) (j : BitVec 18) :
    exec (.movk d j) s = .next (s.writeS d 1 (BitVec.ofNat 64 ((s.readS d).toNat * 2 ^ 18 + j.toNat))) := by
  rw [← shiftLeft_add_eq_ofNat, BitVec.ofNat_toNat]
  change execMovk d j s = _
  rw [execMovk, h]

theorem exec_movk_of_ne_tree {s : State} (h : s.cur.kind ≠ .tree) (d : BitVec 6) (j : BitVec 18) :
    exec (.movk d j) s = .next (s.writeS d 1 (BitVec.ofNat 64
      ((s.readS d).toNat * 2 ^ 26 + (s.cur.lend.toNat * 2 ^ 18 + j.toNat)))) := by
  rw [← shiftLeft_add_eq_ofNat]
  change execMovk d j s = _
  rw [execMovk]
  split
  · contradiction
  · rfl

/-- Settles O18: the widened immediates are the model's own, and the shifts and movk are their arithmetic. -/
theorem scalarImmediates : Obligations.ScalarImmediates := by
  intro s d a n i j A imm
  refine ⟨rfl, rfl, rfl, rfl, exec_shli s d a n, exec_shri s d a n, exec_srai s d a n, rfl, ?movk⟩
  case movk =>
    split
    case isTrue h => exact exec_movk_tree h d j
    case isFalse h => exact exec_movk_of_ne_tree h d j

end Sys2Proof.Machine

/-! SUPPORT. Control registers and transfers of slot C (02 R46, 04 R96 to R106, 07 R157, R158, 14 R288, R290), and O7, O33,
O35. -/

namespace Sys2Proof.Machine

open State

/-! ### The map of the control registers (04 R106) -/

/-- The registers that are read only. -/
def readOnlyCtls : List Nat :=
  [0x000, 0x001, 0x002, 0x003, 0x008, 0x009, 0x00A, 0x00B, 0x00C, 0x024, 0x038, 0x039, 0x03A, 0x03B, 0x03C]

/-- The registers that a wrctl writes at its issue and does nothing else, each with the bits it has. -/
def plainCtls : List (Nat × BitVec 64) :=
  [(0x011, 1), (0x012, 0x3FFF), (0x018, 7), (0x020, 0x7FFF0), (0x021, 0xFFFFFF), (0x022, 0xFFFF000F),
    (0x023, 0xFFFFFFFFFF), (0x028, 0xFFFFFFFF), (0x029, 0xFFFF), (0x031, 1), (0x03D, 0xFFFFFFFFFFFFFFC0),
    (0x03E, 0xFFFFFFFFFFFFFFC1)]

/-- The registers whose wrctl has a rule of its own. -/
def specialCtls : List Nat := [0x010, 0x019, 0x025, 0x030, 0x032, 0x03F]

theorem ctlAccess_of_readOnly : ∀ num ∈ readOnlyCtls, ctlAccess num = some none := by decide

theorem ctlAccess_of_plain : ∀ p ∈ plainCtls, ctlAccess p.1 = some (some p.2) := by decide

theorem ctlAccess_of_unassigned {num : Nat} (h : num ∉ readOnlyCtls ++ plainCtls.map (·.1) ++ specialCtls) :
    ctlAccess num = none := by
  unfold ctlAccess
  split
  case h_34 => rfl
  all_goals exact absurd (by decide) h

/-! ### What a rdctl gives, what a wrctl does -/

/-- The registers whose reading has a rule of its own: clocks, counters, ctl.repc, ctl.ab, ctl.stray. -/
def computedCtls : List Nat := [0x008, 0x009, 0x00A, 0x00B, 0x00C, 0x010, 0x024, 0x025]

theorem ctlRead_of_stored (s : State) (x : Nat) {num : Nat} (h : num ∉ computedCtls) : ctlRead s x num = s.ctl x num := by
  unfold ctlRead
  split
  case h_9 => rfl
  all_goals exact absurd (by decide) h

theorem ctlWrite_of_not_special (s : State) (x : Nat) {num : Nat} (v : BitVec 64) (h : num ∉ specialCtls) :
    ctlWrite s x num v = s.setCtl x num v := by
  unfold ctlWrite
  split
  case h_7 => rfl
  all_goals exact absurd (by decide) h

/-- The registers that a rdctl gives as they are kept. -/
def storedCtls : List Nat :=
  [0x000, 0x001, 0x002, 0x003, 0x019, 0x030, 0x032, 0x038, 0x039, 0x03A, 0x03B, 0x03C, 0x03F] ++ plainCtls.map (·.1)

theorem assigned_of_stored : ∀ num ∈ storedCtls, ctlAccess num ≠ none ∧ num ∉ computedCtls := by decide

theorem plain_not_special : ∀ p ∈ plainCtls, p.1 ∉ specialCtls := by decide

section
variable {s : State} {d a : BitVec 6} {n : BitVec 12} {num : Nat} (hn : n.toNat = num)
include hn

theorem exec_rdctl_of_unassigned (h : ctlAccess num = none) : exec (.rdctl d n) s = .next s.trapReserved := by
  subst hn
  change execRdctl d n s = _
  simp only [execRdctl, h]

theorem exec_rdctl_of_assigned (h : ctlAccess num ≠ none) (hab : num ≠ 0x024) :
    exec (.rdctl d n) s = .next (s.writeS d 2 (ctlRead s s.cur.ctx num)) := by
  subst hn
  obtain ⟨m, hm⟩ := Option.ne_none_iff_exists'.mp h
  have other : n ≠ 0x024 := fun e => hab (e ▸ rfl)
  change execRdctl d n s = _
  simp only [execRdctl, hm, if_neg other]

theorem exec_rdctl_of_stored (h : ctlAccess num ≠ none) (hc : num ∉ computedCtls) :
    exec (.rdctl d n) s = .next (s.writeS d 2 (s.ctl s.cur.ctx num)) := by
  rw [exec_rdctl_of_assigned hn h fun e => hc (e ▸ by decide), ctlRead_of_stored _ _ hc]

theorem exec_wrctl_of_unassigned (h : ctlAccess num = none) : exec (.wrctl a n) s = .next s.trapReserved := by
  subst hn
  change execWrctl a n s = _
  simp only [execWrctl, h]

theorem exec_wrctl_of_readOnly (h : ctlAccess num = some none) : exec (.wrctl a n) s = .next (s.trapHere 0x07 0 0) := by
  subst hn
  change execWrctl a n s = _
  simp only [execWrctl, h]

theorem exec_wrctl_of_writable {m : BitVec 64} (h : ctlAccess num = some (some m))
    (hrm : num = 0x018 → (s.readS a).toNat % 8 < 6) :
    exec (.wrctl a n) s = .next (ctlWrite s s.cur.ctx num (s.readS a &&& m)) := by
  subst hn
  have mode : ¬(n = 0x018 ∧ 6 ≤ bits (s.readS a) 2 0) := by
    rintro ⟨rfl, hv⟩
    have := hrm rfl
    simp only [bits, Nat.pow_zero, Nat.div_one] at hv
    omega
  change execWrctl a n s = _
  simp only [execWrctl, h, if_neg mode]

end

/-- The modes 6 and 7 of ctl.rm are reserved (07 R157). -/
theorem exec_wrctl_rm_of_reserved {s : State} {a : BitVec 6} (h : 6 ≤ (s.readS a).toNat % 8) :
    exec (.wrctl a 0x018) s = .next s.trapReserved := by
  have mode : 6 ≤ bits (s.readS a) 2 0 := by simpa [bits] using h
  exact congrArg _ (if_pos ⟨rfl, mode⟩)

/-- A read of ctl.ab joins the tags that it shows ready (10 R235). -/
theorem exec_rdctl_ab (s : State) (d : BitVec 6) :
    exec (.rdctl d 0x024) s = .next ((s.joinTags s.cur.ctx (s.arrivals s.cur.ctx)).writeS d 2 (s.arrivals s.cur.ctx)) := rfl

/-! ### Traps of rdctl and wrctl (04 R105) -/

/-- Inside a bundle a slot's trap waits for the end of the bundle (14 R286). -/
theorem trapHere_live {s : State} (h : s.cur.live = true) (code fa info : Nat) :
    s.trapHere code fa info = s.modCur fun c => { c with
      faults := c.faults ++ [⟨code, s.cur.slot, BitVec.ofNat 64 fa, BitVec.ofNat 64 info, .precise⟩] } :=
  raise_live s _ h

/-- Settles O7: both traps are the slot's own, which a bundle that issues notes. -/
theorem unassignedControlRegisters : Obligations.UnassignedControlRegisters := by
  intro s d a n live noted
  have reserved : s.trapReserved = noted 0x02 0 (BitVec.ofNat 64 s.cur.word) := trapHere_live live ..
  refine ⟨fun h => ?unassigned, fun h => ⟨0, 0, ?readOnly⟩⟩
  case unassigned => exact ⟨reserved ▸ exec_rdctl_of_unassigned rfl h, reserved ▸ exec_wrctl_of_unassigned rfl h⟩
  case readOnly => rw [exec_wrctl_of_readOnly rfl h, trapHere_live live]; rfl

/-! ### The registers whose wrctl has a rule of its own -/

/-- A wrctl of ctl.fpf is one result more on the way (log entry 75). -/
theorem writeFpf_landings (s : State) (v : BitVec 64) :
    ∃ ls, (∀ l, l ∈ ls ↔ l ∈ (s.core s.cur.core).landings
        ∨ l = ⟨s.cyc s.cur.core + 1, (s.core s.cur.core).iss.seq, s.cur.ctx % 8, 0, .ctl 0x019 v⟩)
      ∧ writeFpf s v = s.modCore s.cur.core fun k => { k with landings := ls } := by
  refine ⟨_, fun l => ?_, rfl⟩
  simp only [List.mem_append, List.mem_filter, List.mem_singleton, decide_eq_true_eq]
  by_cases h : l.cycle < s.cyc s.cur.core + 1
  · simp only [h, and_true, not_true, and_false, or_false]
  · simp only [h, and_false, false_or, not_false_eq_true, and_true, or_comm]

/-- ctl.stray has the low 32 bits. -/
theorem setWidth_and_stray (v : BitVec 64) : (v &&& 0xFFFFFFFF).setWidth 32 = v.setWidth 32 := by
  rw [BitVec.setWidth_and]; exact BitVec.and_allOnes

/-- ctl.repc has the low 24 bits. -/
theorem bits_and_repc (v : BitVec 64) : bits (v &&& 0xFFFFFF) 23 0 = v.toNat % 2 ^ 24 := by
  have low : v.toNat &&& 0xFFFFFF = v.toNat % 2 ^ 24 := Nat.and_two_pow_sub_one_eq_mod v.toNat 24
  simp [bits, low]

/-- ctl.lpend has the bits of the two light traps. -/
theorem getLsbD_and_lpend (v : BitVec 64) :
    (v &&& 3).getLsbD 0 = v.getLsbD 0 ∧ (v &&& 3).getLsbD 1 = v.getLsbD 1 := by
  constructor <;> simp

/-- Settles O35: a number that the map assigns is read only, plain or special, so each clause is a case of `ctlRead` or of
`ctlWrite` at the bits that the register has. -/
theorem controlRegisters : Obligations.ControlRegisters := by
  intro s d a n x c A num readOnly kept special reads writes hc
  have reading {k : Nat} (hk : num = k) (ha : ctlAccess k ≠ none) (hab : k ≠ 0x024) : reads (ctlRead s x k) :=
    exec_rdctl_of_assigned hk ha hab
  have stored {k : Nat} (hk : num = k) (h : ctlAccess k ≠ none ∧ k ∉ computedCtls) : reads (s.ctl x k) :=
    exec_rdctl_of_stored hk h.1 h.2
  have writing {k : Nat} {m : BitVec 64} (hk : num = k) (ha : ctlAccess k = some (some m)) (hrm : k ≠ 0x018) :
      writes (ctlWrite s x k (A &&& m)) := exec_wrctl_of_writable hk ha fun e => absurd e hrm
  refine ⟨?ccyc, ?icyc, ?dtime, ?ptime, ?strayRead, ?ab, ?repcRead, ?storedRead, ?plain, ?reservedMode, ?repc, ?stray,
    ?symhys, ?drift, ?lpend, ?fpf, ?readOnly, ?unassigned⟩
  case ccyc =>
    rw [hc]
    rintro (h | h)
    · exact reading h (by decide) (by decide)
    · exact reading h (by decide) (by decide)
  case icyc => exact fun h => reading h (by decide) (by decide)
  case dtime => exact fun h => reading h (by decide) (by decide)
  case ptime => exact fun h => reading h (by decide) (by decide)
  case strayRead =>
    rw [hc]
    exact fun h => reading h (by decide) (by decide)
  case ab =>
    intro h
    obtain rfl : n = 0x024 := BitVec.eq_of_toNat_eq h
    exact exec_rdctl_ab s d
  case repcRead => exact fun h => reading h (by decide) (by decide)
  case storedRead => exact fun h => stored rfl (assigned_of_stored _ h)
  case plain =>
    intro p hp h hrm
    have hw := exec_wrctl_of_writable (s := s) (a := a) h (ctlAccess_of_plain p hp) fun e => hrm (h.trans e)
    rwa [ctlWrite_of_not_special _ _ _ (plain_not_special p hp), ← h] at hw
  case reservedMode =>
    intro h hv
    obtain rfl : n = 0x018 := BitVec.eq_of_toNat_eq h
    exact exec_wrctl_rm_of_reserved hv
  case repc =>
    intro h
    rw [← bits_and_repc]
    exact writing h rfl (by decide)
  case stray =>
    intro h
    rw [hc, ← setWidth_and_stray]
    exact writing h rfl (by decide)
  case symhys => exact fun h => writing h rfl (by decide)
  case drift => exact fun h => writing h rfl (by decide)
  case lpend =>
    intro h
    refine ⟨_, ?_, rfl⟩
    obtain ⟨light, risk⟩ := getLsbD_and_lpend A
    rw [← light, ← risk]
    exact writing h rfl (by decide)
  case fpf =>
    intro h
    obtain ⟨ls, mem, eq⟩ := writeFpf_landings s (A &&& 0x1F)
    exact ⟨ls, mem, eq ▸ writing h rfl (by decide)⟩
  case readOnly => exact fun h => exec_wrctl_of_readOnly rfl (ctlAccess_of_readOnly num h)
  case unassigned =>
    intro h
    have access := ctlAccess_of_unassigned h
    exact ⟨exec_wrctl_of_unassigned rfl access, exec_rdctl_of_unassigned rfl access⟩

/-! ### Transfers, rep, yield and trap (04 R99 to R103, 14 R290) -/

theorem jumpAddr_of_misaligned {s : State} {v : BitVec 64} (d : BitVec 6) (h : v.toNat % 64 ≠ 0) :
    jumpAddr s d v = s.trapHere 0x04 v.toNat 0 := if_pos h

theorem jumpAddr_of_aligned {s : State} {v : BitVec 64} (d : BitVec 6) (h : v.toNat % 64 = 0) :
    jumpAddr s d v = jump (s.writeS d 1 (linkAddr s)) (BitVec.ofNat 58 (v.toNat / 64)) := if_neg fun k => k h

theorem exec_jmpi (s : State) (a d : BitVec 6) : exec (.jmpi a d) s = .next (jumpAddr s d (s.readS a)) := rfl

theorem exec_ret (s : State) : exec .ret s = exec (.jmpi 62 0) s := rfl

/-- No bit below ret's opcode counts. -/
theorem decodeSlot_ret {w : Nat} (h : w < 2 ^ 24) : decodeSlot .control (0x04 * 2 ^ 24 + w) = .op .ret := by
  have : (0x04 * 2 ^ 24 + w) / 2 ^ 24 % 256 = 4 := by omega
  simp only [decodeSlot, decodeControl, this]

/-- Settles O33: a transfer to a register's address is `jumpAddr`, with its two cases; the rest are the model's own. -/
theorem transfers : Obligations.Transfers := by
  refine ⟨fun s o a d => ?_, fun s a i j => ⟨rfl, rfl, rfl⟩⟩
  intro goes there link
  have jmpi (a d : BitVec 6) (h : (s.readS a).toNat % 64 = 0) :
      exec (.jmpi a d) s = .next (goes (s.writeS d 1 link) (BitVec.ofNat 58 ((s.readS a).toNat / 64))) :=
    (exec_jmpi s a d).trans (congrArg _ (jumpAddr_of_aligned d h))
  have misaligned (a d : BitVec 6) (h : (s.readS a).toNat % 64 ≠ 0) :
      exec (.jmpi a d) s = .next (s.trapHere 0x04 (s.readS a).toNat 0) :=
    (exec_jmpi s a d).trans (congrArg _ (jumpAddr_of_misaligned d h))
  exact ⟨rfl, rfl, jmpi a d, misaligned a d, misaligned 62 0, jmpi 62 0, exec_ret s, fun _ => decodeSlot_ret⟩

end Sys2Proof.Machine

/-! SUPPORT. The scalar slots' results as arithmetic, and the bits of a number (05 R113 to R127), and O4, O15, O16, O17. -/

namespace Sys2Proof

/-! ### Words of the scalar slots (03 R55, R65) -/

/-- Below an opcode of the scalar slots stand the fields of a word of 24 bits. -/
theorem field_add_opcode (op w : Nat) {lo n : Nat} (h : lo + n ≤ 24) : field (op * 2 ^ 24 + w) lo n = field w lo n := by
  rw [Nat.add_comm, field_add_mul w op h]

theorem opcode_add_fields {op w : Nat} (ho : op < 256) (hw : w < 2 ^ 24) : (op * 2 ^ 24 + w) / 2 ^ 24 % 256 = op := by
  omega

/-- sel has all 24 bits below its opcode (05 R125). -/
theorem decodeSlot_sel {w : Nat} (hw : w < 2 ^ 24) : decodeSlot .scalar (0x15 * 2 ^ 24 + w) =
    .op (.sel (field w 18 6) (field w 12 6) (field w 6 6) (field w 0 6)) := by
  rw [decodeSlot, decodeScalar, opcode_add_fields (by decide) hw]
  simp only [field_add_opcode, Nat.reduceAdd, Nat.reduceLeDiff]

/-- The counts, indexes and the reversal: fnsb reads a second source, the others leave those bits aside (05 R126). -/
theorem decodeSlot_scalarBits {w : Nat} (hw : w < 2 ^ 24) :
    let d := field w 18 6
    let a := field w 12 6
    decodeSlot .scalar (0x17 * 2 ^ 24 + w) = .op (.popc d a) ∧ decodeSlot .scalar (0x18 * 2 ^ 24 + w) = .op (.clz d a)
    ∧ decodeSlot .scalar (0x19 * 2 ^ 24 + w) = .op (.ctz d a) ∧ decodeSlot .scalar (0x1B * 2 ^ 24 + w) = .op (.brev d a)
    ∧ decodeSlot .scalar (0x1A * 2 ^ 24 + w) = .op (.fnsb d a (field w 6 6)) := by
  refine ⟨?popc, ?clz, ?ctz, ?brev, ?fnsb⟩
  all_goals
    rw [decodeSlot, decodeScalar, opcode_add_fields (by decide) hw]
    simp only [field_add_opcode, Nat.reduceAdd, Nat.reduceLeDiff]

end Sys2Proof

namespace Sys2Proof.Machine

open State

/-! ### s0 (05 R113) -/

@[simp] theorem readS_zero (s : State) : s.readS 0 = 0 := rfl

@[simp] theorem setRegS_zero (s : State) (x : Nat) (v : BitVec 64) : s.setRegS x 0 v = s := rfl

theorem popBobbin_of_cons {s : State} {n : Nat} {v : BitVec 64} {vs : List (BitVec 64)}
    (h : ((s.fillBobbin n).core n).bobbin = v :: vs) :
    s.popBobbin n = (v, (s.fillBobbin n).modCore n fun c => { c with bobbin := vs }) := by
  simp only [popBobbin, h]

theorem exec_bobpop_of_cons {s : State} {v : BitVec 64} {vs : List (BitVec 64)} (d : BitVec 6)
    (h : ((s.fillBobbin s.cur.core).core s.cur.core).bobbin = v :: vs) :
    exec (.bobpop d) s = .next
      (((s.fillBobbin s.cur.core).modCore s.cur.core fun c => { c with bobbin := vs }).writeS d 8 v) := by
  change execBobpop d s = _
  simp only [execBobpop, popBobbin_of_cons h]

theorem shortRead_zero (board : List DraftWrite) (dt : Nat) : shortRead board dt 0 = false := rfl

theorem ne_zero_of_pendingReg {s : State} {x r : Nat} {regs : List Nat} (h : s.pendingReg x regs = some r) : r ≠ 0 := by
  have pending := List.find?_some h
  simp only [Bool.and_eq_true, decide_eq_true_eq] at pending
  exact pending.1

theorem ne_zero_of_mem_writesAt {s : State} {b : Bundle} {i : Nat} {p : Nat × Option Nat} (h : p ∈ s.writesAt b i) :
    p.1 ≠ 0 := by
  unfold writesAt at h
  split at h
  · exact of_decide_eq_true (List.mem_filter.mp h).2
  · exact absurd h List.not_mem_nil

/-- Settles O4: a write of s0 leaves the state as it is, so each result is discarded by computation; the rest are the rules
of s0 above. -/
theorem zeroRegister : Obligations.ZeroRegister := by
  intro s a b i j n h k w
  refine ⟨readS_zero s, setRegS_zero s, regS_zero s, rfl, rfl, rfl, rfl, rfl, rfl, rfl, rfl, rfl, rfl, ?rdctl, ?bobpop,
    shortRead_zero, fun x rs hp => ne_zero_of_pendingReg hp rfl, fun bu slot p => ne_zero_of_mem_writesAt⟩
  case rdctl =>
    intro assigned hab
    rw [exec_rdctl_of_assigned rfl assigned fun e => hab (BitVec.eq_of_toNat_eq e), writeS_zero]
  case bobpop =>
    intro v vs hv
    rw [exec_bobpop_of_cons 0 hv, writeS_zero]

/-! ### Sums, products and quotients as arithmetic (05 R118 to R120) -/

/-- Equal values give equal results. -/
theorem next_writeS_congr {s : State} {d : BitVec 6} {lat : Nat} {v w : BitVec 64} (h : v = w) :
    (.next (s.writeS d lat v) : Out) = .next (s.writeS d lat w) := by rw [h]

theorem sub_eq_ofInt (x y : BitVec 64) : x - y = BitVec.ofInt 64 ((x.toNat : Int) - y.toNat) := by
  rw [Int.sub_eq_add_neg, BitVec.ofInt_add, BitVec.ofInt_neg, BitVec.ofInt_natCast, BitVec.ofInt_natCast,
    BitVec.ofNat_toNat, BitVec.ofNat_toNat, BitVec.setWidth_eq, BitVec.setWidth_eq, BitVec.sub_eq_add_neg]

theorem mul_eq_ofNat (x y : BitVec 64) : x * y = BitVec.ofNat 64 (x.toNat * y.toNat) := by
  simp [BitVec.ofNat_mul]

theorem eq_zero_iff_toNat (x : BitVec 64) : x = 0 ↔ x.toNat = 0 := BitVec.toNat_inj.symm

theorem quotient_eq_ofNat (x y : BitVec 64) : (if y = 0 then BitVec.allOnes 64 else x / y) =
    BitVec.ofNat 64 (if y.toNat = 0 then 2 ^ 64 - 1 else x.toNat / y.toNat) := by
  simp only [eq_zero_iff_toNat, apply_ite (BitVec.ofNat 64), ← BitVec.udiv_def]
  rfl

theorem remainder_eq_ofNat (x y : BitVec 64) : (if y = 0 then x else x % y) =
    BitVec.ofNat 64 (if y.toNat = 0 then x.toNat else x.toNat % y.toNat) := by
  simp only [eq_zero_iff_toNat, apply_ite (BitVec.ofNat 64), ← BitVec.umod_def, BitVec.ofNat_toNat, BitVec.setWidth_eq]

/-- Settles O15: each result is that of its operation on the numbers; the high halves are the model's own. -/
theorem scalarArithmetic : Obligations.ScalarArithmetic := by
  intro s d a b A B
  exact ⟨next_writeS_congr (BitVec.add_def A B), next_writeS_congr (sub_eq_ofInt A B), next_writeS_congr (mul_eq_ofNat A B),
    rfl, rfl, next_writeS_congr (quotient_eq_ofNat A B), next_writeS_congr (remainder_eq_ofNat A B)⟩

/-! ### Logic, minima, maxima and comparisons as arithmetic (05 R118) -/

theorem and_eq_ofNat (x y : BitVec 64) : x &&& y = BitVec.ofNat 64 (Nat.land x.toNat y.toNat) :=
  BitVec.eq_of_toNat_eq (by simp)

theorem or_eq_ofNat (x y : BitVec 64) : x ||| y = BitVec.ofNat 64 (Nat.lor x.toNat y.toNat) :=
  BitVec.eq_of_toNat_eq (by simp)

theorem xor_eq_ofNat (x y : BitVec 64) : x ^^^ y = BitVec.ofNat 64 (Nat.xor x.toNat y.toNat) :=
  BitVec.eq_of_toNat_eq (by simp)

theorem ite_slt_eq_ofInt_min (x y : BitVec 64) : (if x.slt y then x else y) = BitVec.ofInt 64 (min x.toInt y.toInt) := by
  have least : min x.toInt y.toInt = if x.toInt < y.toInt then x.toInt else y.toInt := by split <;> omega
  simp only [BitVec.slt_iff_toInt_lt, least, apply_ite (BitVec.ofInt 64), BitVec.ofInt_toInt]

theorem ite_slt_eq_ofInt_max (x y : BitVec 64) : (if x.slt y then y else x) = BitVec.ofInt 64 (max x.toInt y.toInt) := by
  have most : max x.toInt y.toInt = if x.toInt < y.toInt then y.toInt else x.toInt := by split <;> omega
  simp only [BitVec.slt_iff_toInt_lt, most, apply_ite (BitVec.ofInt 64), BitVec.ofInt_toInt]

theorem ite_ult_eq_ofNat_min (x y : BitVec 64) : (if x.ult y then x else y) = BitVec.ofNat 64 (min x.toNat y.toNat) := by
  have least : min x.toNat y.toNat = if x.toNat < y.toNat then x.toNat else y.toNat := by split <;> omega
  simp only [BitVec.ult_iff_toNat_lt, least, apply_ite (BitVec.ofNat 64), BitVec.ofNat_toNat, BitVec.setWidth_eq]

theorem ite_ult_eq_ofNat_max (x y : BitVec 64) : (if x.ult y then y else x) = BitVec.ofNat 64 (max x.toNat y.toNat) := by
  have most : max x.toNat y.toNat = if x.toNat < y.toNat then y.toNat else x.toNat := by split <;> omega
  simp only [BitVec.ult_iff_toNat_lt, most, apply_ite (BitVec.ofNat 64), BitVec.ofNat_toNat, BitVec.setWidth_eq]

theorem boolWord_of_iff {b : Bool} {p : Prop} [Decidable p] (h : b = true ↔ p) : boolWord b = if p then 1 else 0 := by
  simp only [boolWord, h]

/-- Settles O16: each result is that of its operation on the numbers, sel and mov are the model's own, and sel is read from
its word. -/
theorem scalarLogic : Obligations.ScalarLogic := by
  intro s d c a b A B n
  exact ⟨next_writeS_congr (and_eq_ofNat A B), next_writeS_congr (or_eq_ofNat A B), next_writeS_congr (xor_eq_ofNat A B),
    next_writeS_congr (shiftLeft_eq_ofNat A n), next_writeS_congr (shiftRight_eq_ofNat A n),
    next_writeS_congr (sshiftRight_eq_ofInt A n),
    next_writeS_congr (ite_slt_eq_ofInt_min A B), next_writeS_congr (ite_slt_eq_ofInt_max A B),
    next_writeS_congr (ite_ult_eq_ofNat_min A B), next_writeS_congr (ite_ult_eq_ofNat_max A B),
    next_writeS_congr (boolWord_of_iff BitVec.slt_iff_toInt_lt), next_writeS_congr (boolWord_of_iff BitVec.ult_iff_toNat_lt),
    next_writeS_congr (boolWord_of_iff beq_iff_eq), rfl, rfl, fun w hw => decodeSlot_sel hw⟩

/-! ### Counts and indexes of set bits (05 R126) -/

theorem setBits_eq_filter_testBit (w v : Nat) : setBits w v = (List.range w).filter v.testBit := by
  simp only [setBits, ← Nat.testBit_eq_decide_div_mod_eq]

theorem length_setBits (w v : Nat) : (setBits w v).length = popCount w v := rfl

theorem popCount_eq_length_filter (w v : Nat) : popCount w v = ((List.range w).filter v.testBit).length := by
  rw [← setBits_eq_filter_testBit, length_setBits]

theorem setBits_succ (w v : Nat) : setBits (w + 1) v = setBits w v ++ if v.testBit w then [w] else [] := by
  rw [setBits_eq_filter_testBit, setBits_eq_filter_testBit, List.range_succ, List.filter_append, List.filter_cons,
    List.filter_nil]

/-- The set bit listed at place k has k set bits below it. -/
theorem popCount_of_getElem?_setBits {w v k r : Nat} (h : (setBits w v)[k]? = some r) :
    r < w ∧ v.testBit r = true ∧ popCount r v = k := by
  induction w with
  | zero => simp [setBits] at h
  | succ w ih =>
    rw [setBits_succ, List.getElem?_append, length_setBits] at h
    split at h
    case isTrue =>
      obtain ⟨below, bit, count⟩ := ih h
      exact ⟨Nat.lt_succ_of_lt below, bit, count⟩
    case isFalse past =>
      split at h
      case isTrue bit =>
        obtain ⟨place, rfl⟩ : k - popCount w v = 0 ∧ w = r := by simpa [List.getElem?_singleton] using h
        exact ⟨Nat.lt_succ_self w, bit, by omega⟩
      case isFalse => simp at h

theorem nthSet_cases (w v k : Nat) :
    nthSet w v k = w ∧ popCount w v ≤ k
    ∨ nthSet w v k < w ∧ v.testBit (nthSet w v k) = true ∧ popCount (nthSet w v k) v = k := by
  rw [nthSet, List.getD_eq_getElem?_getD]
  cases h : (setBits w v)[k]? with
  | none => exact .inl ⟨rfl, List.getElem?_eq_none_iff.mp h⟩
  | some r => exact .inr (popCount_of_getElem?_setBits h)

theorem nthSet_le (w v k : Nat) : nthSet w v k ≤ w := by
  obtain ⟨none, -⟩ | ⟨below, -⟩ := nthSet_cases w v k
  · exact Nat.le_of_eq none
  · exact Nat.le_of_lt below

theorem nthSet_of_lt {w v k : Nat} (h : nthSet w v k < w) :
    v.testBit (nthSet w v k) = true ∧ popCount (nthSet w v k) v = k := by
  obtain ⟨none, -⟩ | ⟨-, spec⟩ := nthSet_cases w v k
  · exact absurd none (Nat.ne_of_lt h)
  · exact spec

/-- Up to the place that is given, which is w when no bit is found, at most k bits are set. -/
theorem popCount_nthSet_le (w v k : Nat) : popCount (nthSet w v k) v ≤ k := by
  obtain ⟨none, count⟩ | ⟨-, -, count⟩ := nthSet_cases w v k
  · rwa [none]
  · exact Nat.le_of_eq count

theorem testBit_of_popCount_eq_zero {w v i : Nat} (h : popCount w v = 0) (hi : i < w) : v.testBit i = false := by
  rw [popCount_eq_length_filter, List.length_eq_zero_iff, List.filter_eq_nil_iff] at h
  exact Bool.eq_false_iff.mpr (h i (List.mem_range.mpr hi))

/-! ### Leading zeros (05 R126) -/

theorem leadingZeros_le (w v : Nat) : leadingZeros w v ≤ w := by
  unfold leadingZeros
  split <;> omega

theorem testBit_of_lt_leadingZeros {w v i : Nat} (h : i < leadingZeros w v) : v.testBit (w - 1 - i) = false := by
  unfold leadingZeros at h
  split at h
  case isTrue hv => simp [hv]
  case isFalse hv => exact Nat.testBit_lt_two_pow ((Nat.log2_lt hv).mp (by simp only [ilog2] at h; omega))

theorem testBit_leadingZeros {w v : Nat} (hv : v < 2 ^ w) (h : leadingZeros w v < w) :
    v.testBit (w - 1 - leadingZeros w v) = true := by
  unfold leadingZeros at h ⊢
  split at h
  case isTrue => omega
  case isFalse hz =>
    have top : v.log2 < w := (Nat.log2_lt hz).mpr hv
    have place : w - 1 - (w - 1 - ilog2 v) = v.log2 := by simp only [ilog2]; omega
    rw [if_neg hz, place, Nat.testBit_log2 hz]

/-! ### Reversal (05 R126) -/

/-- The low k bits of v in reverse order. -/
def reversedPrefix (v : Nat) : Nat → Nat
  | 0 => 0
  | k + 1 => 2 * reversedPrefix v k + v / 2 ^ k % 2

theorem testBit_reversedPrefix (v : Nat) {k i : Nat} (h : i < k) :
    (reversedPrefix v k).testBit i = v.testBit (k - 1 - i) := by
  induction k generalizing i with
  | zero => exact absurd h (Nat.not_lt_zero i)
  | succ k ih =>
    rw [reversedPrefix]
    cases i with
    | zero =>
      have low : (2 * reversedPrefix v k + v / 2 ^ k % 2) % 2 = v / 2 ^ k % 2 := by omega
      rw [Nat.testBit_zero, low, Nat.add_sub_cancel, Nat.sub_zero, Nat.testBit_eq_decide_div_mod_eq]
    | succ i =>
      have rest : (2 * reversedPrefix v k + v / 2 ^ k % 2) / 2 = reversedPrefix v k := by omega
      have place : k + 1 - 1 - (i + 1) = k - 1 - i := by omega
      rw [Nat.testBit_succ, rest, place, ih (Nat.lt_of_succ_lt_succ h)]

theorem reverse_foldl_eq (v : Nat) {w k : Nat} (h : k ≤ w) :
    (List.range k).foldl (fun acc i => acc + v / 2 ^ i % 2 * 2 ^ (w - 1 - i)) 0 = reversedPrefix v k * 2 ^ (w - k) := by
  induction k with
  | zero => simp [reversedPrefix]
  | succ k ih =>
    obtain ⟨m, rfl⟩ := Nat.exists_eq_add_of_le h
    have rest : k + 1 + m - k = m + 1 := by omega
    have place : k + 1 + m - 1 - k = m := by omega
    have left : k + 1 + m - (k + 1) = m := by omega
    rw [List.range_succ, List.foldl_append, ih (Nat.le_of_succ_le h), List.foldl_cons, List.foldl_nil, reversedPrefix,
      rest, place, left, Nat.pow_succ', Nat.add_mul, ← Nat.mul_assoc, Nat.mul_comm (reversedPrefix v k) 2]

theorem reverseBits_eq_reversedPrefix (w v : Nat) : reverseBits w v = reversedPrefix v w := by
  rw [reverseBits, reverse_foldl_eq v (Nat.le_refl w), Nat.sub_self, Nat.pow_zero, Nat.mul_one]

theorem testBit_reverseBits {w i : Nat} (v : Nat) (h : i < w) : (reverseBits w v).testBit i = v.testBit (w - 1 - i) := by
  rw [reverseBits_eq_reversedPrefix, testBit_reversedPrefix v h]

/-! ### Fields (05 R127) -/

theorem getLsbD_extract (x : BitVec 64) (p n : Nat) {i : Nat} (h : i < 64) :
    (BitVec.ofNat 64 (x.toNat / 2 ^ p % 2 ^ n)).getLsbD i = (decide (i < n) && x.getLsbD (p + i)) := by
  rw [BitVec.getLsbD_ofNat, Nat.testBit_mod_two_pow, Nat.testBit_div_two_pow, BitVec.testBit_toNat, decide_eq_true h,
    Bool.true_and, Nat.add_comm]

/-- The bits of a deposit's mask. -/
theorem testBit_fieldMask (p n i : Nat) : ((2 ^ n - 1) * 2 ^ p).testBit i = decide (p ≤ i ∧ i < p + n) := by
  rw [Nat.testBit_mul_two_pow, Nat.testBit_two_pow_sub_one, ← Bool.decide_and]
  congr 1
  apply propext
  omega

theorem getLsbD_deposit (x y : BitVec 64) (p n : Nat) {i : Nat} (h : i < 64) :
    (deposit x y p n).getLsbD i = if p ≤ i ∧ i < p + n then y.getLsbD (i - p) else x.getLsbD i := by
  simp only [deposit, BitVec.getLsbD_or, BitVec.getLsbD_and, BitVec.getLsbD_not, BitVec.getLsbD_shiftLeft,
    BitVec.getLsbD_ofNat, testBit_fieldMask, h]
  split
  case isTrue inside => simp [inside]
  case isFalse outside => simp [outside]

/-- Settles O17: each result by the facts above about the bits of its source's number. -/
theorem scalarBits : Obligations.ScalarBits := by
  intro s d a b p l A B
  have sameBit (i : Nat) : A.toNat.testBit i = A.getLsbD i := BitVec.testBit_toNat A
  have count (n : Nat) : popCount n A.toNat = ((List.range n).filter fun i => A.getLsbD i).length := by
    simp only [popCount_eq_length_filter, ← sameBit]
  refine ⟨fun w hw => decodeSlot_scalarBits hw, rfl, rfl, ⟨_, rfl, count 64⟩, ?clz, ?ctz, ?fnsb, ?brev, ?extr, ?depo⟩
  case clz =>
    refine ⟨_, rfl, leadingZeros_le 64 A.toNat, fun i hi => ?zeros, fun h => ?one⟩
    case zeros => rw [← sameBit]; exact testBit_of_lt_leadingZeros hi
    case one => rw [← sameBit]; exact testBit_leadingZeros A.isLt h
  case ctz =>
    refine ⟨_, rfl, nthSet_le 64 A.toNat 0, fun i hi => ?zeros, fun h => ?one⟩
    case zeros => rw [← sameBit]; exact testBit_of_popCount_eq_zero (Nat.le_zero.mp (popCount_nthSet_le 64 A.toNat 0)) hi
    case one => rw [← sameBit]; exact (nthSet_of_lt h).1
  case fnsb =>
    refine ⟨_, rfl, nthSet_le 64 A.toNat B.toNat, fun h => ?found, fun h => ?none⟩
    case found => rw [← sameBit, ← count]; exact nthSet_of_lt h
    case none =>
      have few := popCount_nthSet_le 64 A.toNat B.toNat
      rwa [h, count] at few
  case brev =>
    refine ⟨_, rfl, fun i hi => ?_⟩
    rw [BitVec.getLsbD_ofNat, testBit_reverseBits A.toNat hi, sameBit, decide_eq_true hi, Bool.true_and]
  case extr =>
    refine ⟨_, rfl, fun i hi => (getLsbD_extract A _ _ hi).trans ?_⟩
    simp only [Nat.lt_succ_iff]
  case depo => exact ⟨_, rfl, fun i hi => getLsbD_deposit (s.readS d) A _ _ hi⟩

end Sys2Proof.Machine

/-! SUPPORT. The vector slots (06): elements of a register image and of a mask, what each shared loop gives, and O5, O19 to
O23. -/

namespace Sys2Proof.Machine

namespace State

/-! ### Numbers put together of fields that do not meet -/

/-- Where no bit meets another, a sum has the bits of both numbers. -/
theorem getLsbD_ofNat_add {N x y : Nat} (apart : ∀ i, (BitVec.ofNat N x).getLsbD i = true → y.testBit i = false) (j : Nat) :
    (BitVec.ofNat N (x + y)).getLsbD j = ((BitVec.ofNat N x).getLsbD j || (decide (j < N) && y.testBit j)) := by
  have right (i : Nat) : (BitVec.ofNat N y).getLsbD i = (decide (i < N) && y.testBit i) := BitVec.getLsbD_ofNat ..
  have disjoint : BitVec.ofNat N x &&& BitVec.ofNat N y = 0#N := by
    refine BitVec.eq_of_getLsbD_eq fun i hi => ?_
    rw [BitVec.getLsbD_and, right, BitVec.getLsbD_zero]
    cases bit : (BitVec.ofNat N x).getLsbD i with
    | false => rfl
    | true => rw [apart i bit, Bool.and_false, Bool.and_false]
  rw [BitVec.ofNat_add, BitVec.add_eq_or_of_and_eq_zero _ _ disjoint, BitVec.getLsbD_or, right]

/-- A number and a list of others, each with bits in a field of its own, add up to one with the bits of them all. -/
theorem getLsbD_ofNat_foldl_add_from {α : Type} {N B : Nat} {l : List α} {key f : α → Nat} (hk : (l.map key).Nodup)
    (hf : ∀ a ∈ l, ∀ j, (f a).testBit j = true → j / B = key a) {acc : Nat}
    (hacc : ∀ a ∈ l, ∀ j, (BitVec.ofNat N acc).getLsbD j = true → j / B ≠ key a) (j : Nat) :
    (BitVec.ofNat N (l.foldl (fun acc a => acc + f a) acc)).getLsbD j
      = ((BitVec.ofNat N acc).getLsbD j || (decide (j < N) && l.any fun a => (f a).testBit j)) := by
  induction l generalizing acc with
  | nil => rw [List.foldl_nil, List.any_nil, Bool.and_false, Bool.or_false]
  | cons a l ih =>
    obtain ⟨alone, hl⟩ := List.nodup_cons.mp hk
    have first (i : Nat) := hf a List.mem_cons_self i
    have sum := getLsbD_ofNat_add (N := N) (x := acc) (y := f a) fun i bit =>
      Bool.eq_false_iff.mpr fun bit' => hacc a List.mem_cons_self i bit (first i bit')
    have apart : ∀ b ∈ l, ∀ i, (BitVec.ofNat N (acc + f a)).getLsbD i = true → i / B ≠ key b := by
      intro b hb i bit place
      rw [sum, Bool.or_eq_true, Bool.and_eq_true] at bit
      obtain old | ⟨-, new⟩ := bit
      · exact hacc b (List.mem_cons_of_mem a hb) i old place
      · exact alone ((first i new).symm.trans place ▸ List.mem_map_of_mem hb)
    rw [List.foldl_cons, ih hl (fun b hb => hf b (List.mem_cons_of_mem a hb)) apart, sum, List.any_cons,
      Bool.and_or_distrib_left, Bool.or_assoc]

theorem getLsbD_ofNat_foldl_add {α : Type} {N B : Nat} {l : List α} {key f : α → Nat} (hk : (l.map key).Nodup)
    (hf : ∀ a ∈ l, ∀ j, (f a).testBit j = true → j / B = key a) (j : Nat) :
    (BitVec.ofNat N (l.foldl (fun acc a => acc + f a) 0)).getLsbD j
      = (decide (j < N) && l.any fun a => (f a).testBit j) := by
  have empty (i : Nat) : (BitVec.ofNat N 0).getLsbD i = false := BitVec.getLsbD_zero
  rw [getLsbD_ofNat_foldl_add_from hk hf fun a _ i bit => absurd bit (by rw [empty]; exact Bool.false_ne_true), empty,
    Bool.false_or]

theorem mul_add_div_of_lt {n r : Nat} (q : Nat) (h : r < n) : (n * q + r) / n = q := by
  rw [Nat.mul_add_div (Nat.zero_lt_of_lt h), Nat.div_eq_of_lt h, Nat.add_zero]

/-- The bits of a value in field i of fields of B bits. -/
theorem testBit_mod_mul_two_pow {B : Nat} (hB : 0 < B) (v i j : Nat) :
    (v % 2 ^ B * 2 ^ (B * i)).testBit j = (decide (j / B = i) && v.testBit (j % B)) := by
  rw [Nat.testBit_mul_two_pow, Nat.testBit_mod_two_pow]
  by_cases place : j / B = i
  · subst place
    have split := Nat.div_add_mod j B
    have rest := Nat.mod_lt j hB
    rw [show j - B * (j / B) = j % B by omega]
    simp [rest, Nat.mul_div_le]
  · by_cases low : B * i ≤ j
    · have past : ¬ j - B * i < B := fun h => place (by
        rw [show j = B * i + (j - B * i) by omega, mul_add_div_of_lt i h])
      simp [place, past]
    · simp [place, low]

/-! ### Elements (06 R128) -/

theorem elem_lt (w : Nat) (v : BitVec 8192) (i : Nat) : elem w v i < 2 ^ (8 * w) := Nat.mod_lt _ (Nat.two_pow_pos _)

@[simp] theorem elem_mod (w : Nat) (v : BitVec 8192) (i : Nat) : elem w v i % 2 ^ (8 * w) = elem w v i :=
  Nat.mod_eq_of_lt (elem_lt w v i)

theorem testBit_elem (w : Nat) (v : BitVec 8192) (i j : Nat) :
    (elem w v i).testBit j = (decide (j < 8 * w) && v.getLsbD (8 * w * i + j)) := by
  rw [elem, Nat.testBit_mod_two_pow, Nat.testBit_div_two_pow, BitVec.testBit_toNat, Nat.add_comm]

/-- An element is known by its bits. -/
theorem elem_eq_mod {w i x : Nat} {v : BitVec 8192} (h : ∀ j < 8 * w, v.getLsbD (8 * w * i + j) = x.testBit j) :
    elem w v i = x % 2 ^ (8 * w) := by
  refine Nat.eq_of_testBit_eq fun j => ?_
  rw [testBit_elem, Nat.testBit_mod_two_pow]
  by_cases hj : j < 8 * w
  · rw [h j hj]
  · simp [hj]

/-- Two images with the same bits in the places of two elements. -/
theorem elem_congr {w i k : Nat} {u v : BitVec 8192}
    (h : ∀ j < 8 * w, u.getLsbD (8 * w * i + j) = v.getLsbD (8 * w * k + j)) : elem w u i = elem w v k := by
  rw [← elem_mod w v k]
  refine elem_eq_mod fun j hj => ?_
  rw [h j hj, testBit_elem, decide_eq_true hj, Bool.true_and]

/-- The widths of the vector types divide a cluster's 128 bytes. -/
theorem vwidth_dvd (t : Nat) : vwidth t ∣ 128 := by
  unfold vwidth
  split <;> decide

section
variable {w : Nat} (hw : w ∣ 128)
include hw

theorem width_pos : 0 < w := Nat.pos_of_dvd_of_pos hw (by decide)

theorem width_dvd_1024 : w ∣ 1024 := Nat.dvd_trans hw (by decide)

theorem div_width_lt {b : Nat} (hb : b < 1024) : b / w < 1024 / w := Nat.div_lt_div_of_lt_of_dvd (width_dvd_1024 hw) hb

/-- The bits of an element lie in the register. -/
theorem elem_bit_lt {i j : Nat} (hi : i < 1024 / w) (hj : j < 8 * w) : 8 * w * i + j < 8192 := by
  obtain ⟨n, hn⟩ := width_dvd_1024 hw
  have elements : 1024 / w = n := by rw [hn, Nat.mul_div_cancel_left n (width_pos hw)]
  calc 8 * w * i + j < 8 * w * (i + 1) := by rw [Nat.mul_succ]; omega
    _ ≤ 8 * w * n := Nat.mul_le_mul_left _ (by omega)
    _ = 8192 := by rw [Nat.mul_assoc, ← hn]

/-! ### Images and masks of listed elements (06 R132, R133) -/

theorem getLsbD_elemData {l : List (Nat × Nat)} (hl : (l.map (·.1)).Nodup) (j : Nat) :
    (elemData w l).getLsbD j =
      (decide (j < 8192) && l.any fun p => decide (j / (8 * w) = p.1) && p.2.testBit (j % (8 * w))) := by
  have pos : 0 < 8 * w := Nat.mul_pos (by decide) (width_pos hw)
  have bits (p : Nat × Nat) (j : Nat) := testBit_mod_mul_two_pow pos p.2 p.1 j
  rw [elemData, getLsbD_ofNat_foldl_add (B := 8 * w) hl]
  · simp only [bits]
  · intro p _ j bit
    rw [bits, Bool.and_eq_true] at bit
    exact of_decide_eq_true bit.1

omit hw in
theorem value_unique {l : List (Nat × Nat)} {i x y : Nat} (hl : (l.map (·.1)).Nodup) (hx : (i, x) ∈ l) (hy : (i, y) ∈ l) :
    x = y := by
  induction l with
  | nil => exact absurd hx List.not_mem_nil
  | cons p l ih =>
    obtain ⟨alone, rest⟩ := List.nodup_cons.mp hl
    have other {z : Nat} (hz : (i, z) ∈ l) : p.1 ≠ i := fun h => alone (List.mem_map.mpr ⟨(i, z), hz, h.symm⟩)
    obtain hx | hx := List.mem_cons.mp hx
    · obtain hy | hy := List.mem_cons.mp hy
      · exact congrArg Prod.snd (hx.trans hy.symm)
      · exact absurd (congrArg Prod.fst hx).symm (other hy)
    · obtain hy | hy := List.mem_cons.mp hy
      · exact absurd (congrArg Prod.fst hy).symm (other hx)
      · exact ih rest hx hy

/-- A listed element holds its value. -/
theorem elem_elemData {l : List (Nat × Nat)} {i x : Nat} (hl : (l.map (·.1)).Nodup) (hi : i < 1024 / w) (hx : (i, x) ∈ l) :
    elem w (elemData w l) i = x % 2 ^ (8 * w) := by
  refine elem_eq_mod fun j hj => ?_
  have rest : (8 * w * i + j) % (8 * w) = j := by rw [Nat.mul_add_mod, Nat.mod_eq_of_lt hj]
  rw [getLsbD_elemData hw hl, mul_add_div_of_lt i hj, rest, decide_eq_true (elem_bit_lt hw hi hj), Bool.true_and,
    Bool.eq_iff_iff, List.any_eq_true]
  constructor
  · rintro ⟨⟨k, y⟩, hy, h⟩
    obtain ⟨rfl, bit⟩ : i = k ∧ y.testBit j = true := by simpa using h
    rwa [value_unique hl hx hy]
  · exact fun bit => ⟨(i, x), hx, by simpa using bit⟩

/-- An element that is not listed holds 0. -/
theorem elem_elemData_of_not_mem {l : List (Nat × Nat)} {i : Nat} (hl : (l.map (·.1)).Nodup) (hi : i ∉ l.map (·.1)) :
    elem w (elemData w l) i = 0 := by
  rw [← Nat.zero_mod (2 ^ (8 * w))]
  refine elem_eq_mod fun j hj => ?_
  rw [getLsbD_elemData hw hl, mul_add_div_of_lt i hj, Nat.zero_testBit, Bool.and_eq_false_iff, List.any_eq_false]
  refine .inr fun p hp h => hi ?_
  simp only [Bool.and_eq_true, decide_eq_true_eq] at h
  exact h.1 ▸ List.mem_map_of_mem hp

/-- The byte mask has the bytes of the listed elements. -/
theorem getLsbD_elemMask {is : List Nat} (his : is.Nodup) {b : Nat} (hb : b < 1024) :
    (elemMask w is).getLsbD b = decide (b / w ∈ is) := by
  have bits (i j : Nat) : ((2 ^ w - 1) * 2 ^ (w * i)).testBit j = decide (j / w = i) := by
    have ones : (2 ^ w - 1) % 2 ^ w = 2 ^ w - 1 := Nat.mod_eq_of_lt (Nat.sub_lt (Nat.two_pow_pos w) Nat.one_pos)
    rw [← ones, testBit_mod_mul_two_pow (width_pos hw), Nat.testBit_two_pow_sub_one,
      decide_eq_true (Nat.mod_lt j (width_pos hw)), Bool.and_true]
  rw [elemMask, getLsbD_ofNat_foldl_add (B := w) (key := id) (by rwa [List.map_id])]
  · simp [bits, hb, List.any_eq]
  · intro i _ j bit
    rw [bits] at bit
    exact of_decide_eq_true bit

/-- A list that gives each of some elements a value holds it there. -/
theorem elem_elemData_map {is : List Nat} (g : Nat → Nat) {i : Nat} (his : is.Nodup) (hi : i < 1024 / w) (hm : i ∈ is) :
    elem w (elemData w (is.map fun i => (i, g i))) i = g i % 2 ^ (8 * w) :=
  elem_elemData hw (by simpa [Function.comp_def] using his) hi (List.mem_map.mpr ⟨i, hm, rfl⟩)

/-! ### Active elements (06 R132) -/

omit hw in
theorem mem_actives {k : BitVec 1024} {i : Nat} : i ∈ actives w k ↔ i < 1024 / w ∧ active w k i = true := by
  simp [actives]

omit hw in
theorem nodup_actives (w : Nat) (k : BitVec 1024) : (actives w k).Nodup := List.nodup_range.filter _

theorem getLsbD_elemMask_actives (k : BitVec 1024) {b : Nat} (hb : b < 1024) :
    (elemMask w (actives w k)).getLsbD b = active w k (b / w) := by
  rw [getLsbD_elemMask hw (nodup_actives w k) hb]
  simp [mem_actives, div_width_lt hw hb]

/-! ### Clusters (06 R128) -/

theorem elements_eq : 1024 / w = 8 * (128 / w) := Nat.mul_div_assoc 8 hw

theorem cluster_pos : 0 < 128 / w := Nat.div_pos (Nat.le_of_dvd (by decide) hw) (width_pos hw)

/-- Bit j of element r of cluster q. -/
theorem cluster_bit (q r j : Nat) : 8 * w * (q * (128 / w) + r) + j = 1024 * q + (8 * w * r + j) := by
  have bytes : w * (128 / w) = 128 := Nat.mul_div_cancel' hw
  have cluster : 8 * w * (q * (128 / w)) = 1024 * q := by
    rw [Nat.mul_comm q, ← Nat.mul_assoc, Nat.mul_assoc 8, bytes]
  rw [Nat.mul_add, cluster, Nat.add_assoc]

/-! ### Merging and rotating images (06 R140, R144) -/

omit hw in
/-- A merge takes the bytes of the mask from the new image, and the others from the old one. -/
theorem getLsbD_mergeBytes (m : BitVec 1024) (old data : BitVec 8192) {j : Nat} (hj : j < 8192) :
    (mergeBytes m old data).getLsbD j = if m.getLsbD (j / 8) = true then data.getLsbD j else old.getLsbD j := by
  have byte : j / 8 < 1024 := by omega
  unfold mergeBytes
  split
  case isTrue all => rw [all, BitVec.getLsbD_allOnes, decide_eq_true byte, if_pos rfl]
  case isFalse =>
    have bits (i j : Nat) : (if m.getLsbD i = true then 255 * 2 ^ (8 * i) else 0).testBit j
        = (decide (j / 8 = i) && m.getLsbD i) := by
      have ones : (255 : Nat).testBit (j % 8) = true := by
        rw [show (255 : Nat) = 2 ^ 8 - 1 by rfl, Nat.testBit_two_pow_sub_one, decide_eq_true (Nat.mod_lt j (by decide))]
      have field := testBit_mod_mul_two_pow (B := 8) (by decide) 255 i j
      rw [show 255 % 2 ^ 8 = 255 by rfl, ones, Bool.and_true] at field
      cases m.getLsbD i <;> simp [field]
    have step : (fun (acc i : Nat) => if m.getLsbD i = true then acc + 255 * 2 ^ (8 * i) else acc)
        = fun acc i => acc + if m.getLsbD i = true then 255 * 2 ^ (8 * i) else 0 := by
      funext acc i
      split <;> rfl
    have spread : (BitVec.ofNat 8192 ((List.range 1024).foldl
        (fun acc i => if m.getLsbD i = true then acc + 255 * 2 ^ (8 * i) else acc) 0)).getLsbD j = m.getLsbD (j / 8) := by
      rw [step, getLsbD_ofNat_foldl_add (B := 8) (key := id) (by simpa using List.nodup_range)]
      · rw [decide_eq_true hj, Bool.true_and, Bool.eq_iff_iff, List.any_eq_true]
        simp only [bits, Bool.and_eq_true, decide_eq_true_eq]
        exact ⟨fun ⟨_, _, place, bit⟩ => place ▸ bit, fun bit => ⟨j / 8, List.mem_range.mpr byte, rfl, bit⟩⟩
      · intro i _ j bit
        rw [bits, Bool.and_eq_true] at bit
        exact of_decide_eq_true bit.1
    simp only [BitVec.getLsbD_or, BitVec.getLsbD_and, BitVec.getLsbD_not, spread, hj]
    cases m.getLsbD (j / 8) <;> simp

theorem elem_mergeBytes (k : BitVec 1024) (old data : BitVec 8192) {e : Nat} (he : e < 1024 / w) :
    elem w (mergeBytes (elemMask w (actives w k)) old data) e
      = if active w k e = true then elem w data e else elem w old e := by
  have pos := width_pos hw
  have bit (j : Nat) (hj : j < 8 * w) : (mergeBytes (elemMask w (actives w k)) old data).getLsbD (8 * w * e + j)
      = if active w k e = true then data.getLsbD (8 * w * e + j) else old.getLsbD (8 * w * e + j) := by
    have inside := elem_bit_lt hw he hj
    have byte : (8 * w * e + j) / 8 / w = e := by rw [Nat.div_div_eq_div_mul, mul_add_div_of_lt e hj]
    rw [getLsbD_mergeBytes _ old data inside, getLsbD_elemMask_actives hw k (by omega), byte]
  split
  case isTrue on => exact elem_congr fun j hj => by rw [bit j hj, if_pos on]
  case isFalse off => exact elem_congr fun j hj => by rw [bit j hj, if_neg off]

omit hw in
/-- A rotation by n clusters brings cluster q + n to cluster q. -/
theorem getLsbD_rotateRight_clusters (v : BitVec 8192) {n q t : Nat} (hn : n < 8) (hq : q < 8) (ht : t < 1024) :
    (v.rotateRight (1024 * n)).getLsbD (1024 * q + t) = v.getLsbD (1024 * ((q + n) % 8) + t) := by
  rw [BitVec.getLsbD_rotateRight, Nat.mod_eq_of_lt (by omega : 1024 * n < 8192)]
  by_cases within : q + n < 8
  · rw [decide_eq_true (by omega : 1024 * q + t < 8192 - 1024 * n), cond_true, Nat.mod_eq_of_lt within]
    congr 1
    omega
  · have wrap : (q + n) % 8 = q + n - 8 := by omega
    rw [decide_eq_false (by omega : ¬ 1024 * q + t < 8192 - 1024 * n), cond_false,
      decide_eq_true (by omega : 1024 * q + t < 8192), Bool.true_and, wrap]
    congr 1
    omega

theorem elem_rotateRight_clusters (v : BitVec 8192) {n e : Nat} (hn : n < 8) (he : e < 1024 / w) :
    elem w (v.rotateRight (1024 * n)) e = elem w v ((e / (128 / w) + n) % 8 * (128 / w) + e % (128 / w)) := by
  have hq : e / (128 / w) < 8 := Nat.div_lt_of_lt_mul (by rw [Nat.mul_comm, ← elements_eq hw]; exact he)
  have hr := Nat.mod_lt e (cluster_pos hw)
  refine elem_congr fun j hj => ?_
  have inside : 8 * w * (e % (128 / w)) + j < 1024 := by
    have bound := elem_bit_lt hw (i := 7 * (128 / w) + e % (128 / w)) (by rw [elements_eq hw]; omega) hj
    rw [cluster_bit hw] at bound
    omega
  have place := cluster_bit hw (e / (128 / w)) (e % (128 / w)) j
  rw [Nat.div_add_mod'] at place
  rw [place, cluster_bit hw, getLsbD_rotateRight_clusters v hn hq inside]

end

/-! ### The grant (06 R131) -/

theorem needGrant_of_not_grants {s : State} {rs : List Nat} (h : ¬ s.grants rs) (ok : State) :
    ∃ q ∈ rs, s.grant s.cur.ctx ≤ q ∧ s.needGrant rs ok = s.trapGrant q := by
  cases hb : s.beyondGrant rs with
  | none => exact absurd (fun r hr => by simpa [granted] using List.find?_eq_none.mp hb r hr) h
  | some q => exact ⟨q, List.mem_of_find?_eq_some hb, by simpa [granted] using List.find?_some hb, by simp [needGrant, hb]⟩

theorem grants_singleton {s : State} {r : Nat} : s.grants [r] ↔ r < s.grant s.cur.ctx := List.forall_mem_singleton

theorem grants_cons {s : State} {r : Nat} {rs : List Nat} :
    s.grants (r :: rs) ↔ r < s.grant s.cur.ctx ∧ s.grants rs := List.forall_mem_cons

end State

open State

/-! ### Results of the shared loops (06 R133) -/

theorem writeElems_map (s : State) (d w lat : Nat) (fl : BitVec 5) (is : List Nat) (g : Nat → Nat) :
    s.writeElems d w lat fl (is.map fun i => (i, g i))
      = s.schedule lat fl (.vector d (elemMask w is) (elemData w (is.map fun i => (i, g i)))) := by
  simp [writeElems, Function.comp_def]

section
variable {s : State} {t w d lat k : Nat}

theorem vecResult_schedule (hw : w ∣ 128) {data : BitVec 8192} {f : Nat → Nat}
    (h : ∀ i < 1024 / w, active w (s.readK k) i = true → elem w data i = f i % 2 ^ (8 * w)) :
    VecResult s (s.schedule lat 0 (.vector d (elemMask w (actives w (s.readK k))) data)) d w lat k f :=
  ⟨_, _, rfl, fun _ hb => getLsbD_elemMask_actives hw (s.readK k) hb, h⟩

theorem vecResult_writeElems (hw : w ∣ 128) {f g : Nat → Nat} (h : ∀ i, g i % 2 ^ (8 * w) = f i % 2 ^ (8 * w)) :
    VecResult s (s.writeElems d w lat 0 ((actives w (s.readK k)).map fun i => (i, g i))) d w lat k f := by
  rw [writeElems_map]
  refine vecResult_schedule hw fun i hi on => ?_
  rw [elem_elemData_map hw g (nodup_actives w _) hi (mem_actives.mpr ⟨hi, on⟩), h i]

theorem floatResult_writeElems (hw : w ∣ 128) {flags : BitVec 5} {g : Nat → Nat} {f : Nat → Nat × BitVec 5}
    (hv : ∀ i, g i % 2 ^ (8 * w) = (f i).1 % 2 ^ (8 * w))
    (hf : ∀ b, flags.getLsbD b = (actives w (s.readK k)).any fun i => (f i).2.getLsbD b) :
    FloatResult s (s.writeElems d w lat flags ((actives w (s.readK k)).map fun i => (i, g i))) d w lat k
      (fun e => some (f e)) := by
  rw [writeElems_map]
  refine ⟨_, _, _, rfl, fun b hb => ?mask, fun i hi v on hx => ?values, fun b _ => ?flags⟩
  case mask => rw [getLsbD_elemMask_actives hw (s.readK k) hb, Option.isSome_some, Bool.and_true]
  case values =>
    obtain rfl := Option.some.inj hx
    rw [elem_elemData_map hw g (nodup_actives w _) hi (mem_actives.mpr ⟨hi, on⟩), hv i]
  case flags => simp [hf, mem_actives, and_assoc]

theorem maskResult_writeK (hw : w ∣ 128) {p : Nat → Bool} {holds : Nat → Prop} (h : ∀ i, p i = true ↔ holds i) :
    MaskResult s (s.writeK d lat (elemMask w (actives w (s.readK k))) (elemMask w ((actives w (s.readK k)).filter p)))
      d lat w k holds := by
  refine ⟨_, _, rfl, fun b hb => ?_⟩
  have sel := getLsbD_elemMask_actives hw (s.readK k) hb
  refine ⟨sel, fun on => ?_⟩
  have member : b / w ∈ actives w (s.readK k) := mem_actives.mpr ⟨div_width_lt hw hb, sel ▸ on⟩
  rw [getLsbD_elemMask hw ((nodup_actives w _).filter p) hb, decide_eq_true_iff, List.mem_filter, h]
  simp [member]

/-- Flags of a list of results taken together. -/
theorem getLsbD_foldl_or {α : Type} (f : α → BitVec 5) (l : List α) (acc : BitVec 5) (b : Nat) :
    (l.foldl (fun acc a => acc ||| f a) acc).getLsbD b = (acc.getLsbD b || l.any fun a => (f a).getLsbD b) := by
  induction l generalizing acc with
  | nil => simp
  | cons a l ih => rw [List.foldl_cons, ih, BitVec.getLsbD_or, List.any_cons, Bool.or_assoc]

theorem getLsbD_foldl_or_zero {α : Type} (f : α → BitVec 5) (l : List α) (b : Nat) :
    (l.foldl (fun acc a => acc ||| f a) 0).getLsbD b = l.any fun a => (f a).getLsbD b := by
  simp [getLsbD_foldl_or]

/-! ### The shared loops within the grant (06 R133, R136 to R138, R146) -/

theorem vecInt_result {a b : Nat} {g : Nat → Nat → Nat → Nat} {f : Nat → Nat} (ht : t ≤ 3) (hg : s.grants [a, b, d])
    (h : ∀ i, g (8 * vwidth t) (elem (vwidth t) (s.readV a) i) (elem (vwidth t) (s.readV b) i) % 2 ^ (8 * vwidth t)
      = f i % 2 ^ (8 * vwidth t)) :
    VecResult s (vecInt t d a b k g s) d (vwidth t) 2 k f := by
  rw [vecInt, needGrant_ok s _ _ hg, if_neg (by omega)]
  exact vecResult_writeElems (vwidth_dvd t) h

theorem vecInt1_result {a : Nat} {g : Nat → Nat → Nat} {f : Nat → Nat} (ht : t ≤ 3) (hg : s.grants [a, d])
    (h : ∀ i, g (8 * vwidth t) (elem (vwidth t) (s.readV a) i) % 2 ^ (8 * vwidth t) = f i % 2 ^ (8 * vwidth t)) :
    VecResult s (vecInt1 t d a k g s) d (vwidth t) 2 k f := by
  rw [vecInt1, needGrant_ok s _ _ hg, if_neg (by omega)]
  exact vecResult_writeElems (vwidth_dvd t) h

theorem vecShift_result {a b : Nat} {u : BitVec 1} {g : Nat → Nat → Nat → Nat} {f : Nat → Nat} (ht : t ≤ 3)
    (hg : s.grants (if u = 1 then [a, d] else [a, b, d]))
    (h : ∀ i, g (8 * vwidth t) (elem (vwidth t) (s.readV a) i) (if u = 1 then b else elem (vwidth t) (s.readV b) i % 64)
      % 2 ^ (8 * vwidth t) = f i % 2 ^ (8 * vwidth t)) :
    VecResult s (vecShift t d a b k u g s) d (vwidth t) 2 k f := by
  rw [vecShift, needGrant_ok s _ _ hg, if_neg (by omega)]
  exact vecResult_writeElems (vwidth_dvd t) h

theorem vecFloat_result {rs : List Nat} {mode : Rounding} (f : Fmt → Rounding → Nat → Exact × BitVec 5) (ht : 4 ≤ t ∧ t ≤ 6)
    (hg : s.grants rs) (hm : s.overrideMode = some mode) :
    FloatResult s (vecFloat t d k rs f s) d (vwidth t) 4 k (fun i => some
      (((vfmt t).round mode (f (vfmt t) mode i).1).1,
        (f (vfmt t) mode i).2 ||| ((vfmt t).round mode (f (vfmt t) mode i).1).2)) := by
  rw [vecFloat, needGrant_ok s _ _ hg, if_neg (by omega)]
  simp only [hm, List.map_map, Function.comp_def]
  refine floatResult_writeElems (vwidth_dvd t) (fun _ => rfl) fun b => ?_
  rw [getLsbD_foldl_or_zero, List.any_map]
  rfl

theorem vecPick_result {a b : Nat} (larger : Bool) (ht : 4 ≤ t ∧ t ≤ 6) (hg : s.grants [a, b, d]) :
    FloatResult s (vecPick larger t d a b k s) d (vwidth t) 4 k (fun i => some
      (floatPick (vfmt t) larger (elem (vwidth t) (s.readV a) i) (elem (vwidth t) (s.readV b) i),
        sigFlag (vfmt t) (elem (vwidth t) (s.readV a) i) ||| sigFlag (vfmt t) (elem (vwidth t) (s.readV b) i))) := by
  rw [vecPick, needGrant_ok s _ _ hg, if_neg (by omega)]
  refine floatResult_writeElems (vwidth_dvd t) (fun _ => rfl) fun b => ?_
  simp only [BitVec.or_assoc]
  exact getLsbD_foldl_or_zero _ _ b

end

/-! ### O5: the grant -/

/-- An operation whose whole effect needs a grant that is not given traps and does nothing else. -/
theorem exec_traps_of_not_grants {s ok : State} {i : Instr} {rs : List Nat} (e : exec i s = .next (s.needGrant rs ok))
    (h : ¬ s.grants rs) :
    ∃ q ∈ rs, s.grant s.cur.ctx ≤ q
      ∧ exec i s = .next (s.raise ⟨0x12, s.cur.slot, 0, BitVec.ofNat 64 q, .precise⟩) := by
  obtain ⟨q, hq, beyond, trap⟩ := needGrant_of_not_grants h ok
  exact ⟨q, hq, beyond, e.trans (congrArg _ trap)⟩

/-- Settles O5: each operation of the list is a `needGrant` of the registers it names, by computation. -/
theorem grantTraps : Obligations.GrantTraps := by
  intro s t k z r n d a b c i u m o im e g traps
  refine ⟨?_, ?_, ?_, ?_, ?_, ?_, ?_, ?_, ?_, ?_, ?_, ?_, ?_, ?_, ?_, ?_, ?_, ?_, ?_, ?_, ?_, ?_, ?_, ?_, ?_⟩
  all_goals exact exec_traps_of_not_grants rfl

/-! ### O19: two-operand integers -/

/-- Settles O19: each operation is the loop of two operands with its own function, whose result wraps. -/
theorem vectorIntegers : Obligations.VectorIntegers := by
  intro s t k d a b u ht hg w W x y gives
  have loop (i : Instr) (f g) (e : exec i s = .next (vecInt t.toNat d.toNat a.toNat b.toNat k.toNat g s))
      (h : ∀ i, g W (x i) (y i) % 2 ^ W = f i % 2 ^ W) : gives i f := ⟨_, e, vecInt_result ht hg h⟩
  refine ⟨?_, ?_, ?_, ?_, ?_, ?_, ?_, ?_, ?_, ?_⟩
  all_goals exact loop _ _ _ rfl fun _ => rfl

/-! ### O20: shifts and bits -/

/-- A shift by the width or more leaves nothing of the low bits. -/
theorem shiftOut_left (W x n : Nat) : (if W ≤ n then 0 else x * 2 ^ n) % 2 ^ W = x * 2 ^ n % 2 ^ W := by
  split
  case isTrue past => rw [Nat.zero_mod, Nat.mod_eq_zero_of_dvd (Nat.dvd_mul_left_of_dvd (Nat.pow_dvd_pow 2 past) x)]
  case isFalse => rfl

theorem shiftOut_right {W x : Nat} (hx : x < 2 ^ W) (n : Nat) : (if W ≤ n then 0 else x / 2 ^ n) = x / 2 ^ n := by
  split
  case isTrue past => rw [Nat.div_eq_of_lt (Nat.lt_of_lt_of_le hx (Nat.pow_le_pow_right (by decide) past))]
  case isFalse => rfl

theorem natAbs_sextN {W x : Nat} (hx : x < 2 ^ W) :
    (sextN x W).natAbs = if x < 2 ^ (W - 1) then x else 2 ^ W - x := by
  have whole : ((2 : Int) ^ W) = ((2 ^ W : Nat) : Int) := by norm_cast
  simp only [sextN, Nat.mod_eq_of_lt hx, whole]
  split <;> omega

/-- Settles O20: the loops of shifts, of one operand and, for vfnsb, of two. -/
theorem vectorShiftsAndBits : Obligations.VectorShiftsAndBits := by
  constructor
  case left =>
    intro s t k d a b u ht hg w W x n gives
    have loop (i : Instr) (f g) (e : exec i s = .next (vecShift t.toNat d.toNat a.toNat b.toNat k.toNat u g s))
        (h : ∀ i, g W (x i) (n i) % 2 ^ W = f i % 2 ^ W) : gives i f := ⟨_, e, vecShift_result ht hg h⟩
    exact ⟨loop _ _ _ rfl fun i => shiftOut_left W (x i) (n i),
      loop _ _ _ rfl fun i => congrArg (· % 2 ^ W) (shiftOut_right (elem_lt w _ i) (n i)),
      loop _ _ _ rfl fun _ => rfl, loop _ _ _ rfl fun _ => rfl⟩
  case right =>
    intro s t k d a b ht hg w W x gives
    have loop (i : Instr) (f g) (e : exec i s = .next (vecInt1 t.toNat d.toNat a.toNat k.toNat g s))
        (h : ∀ i, g W (x i) % 2 ^ W = f i % 2 ^ W) : gives i f := ⟨_, e, vecInt1_result ht hg h⟩
    refine ⟨loop _ _ _ rfl fun i => congrArg (· % 2 ^ W) (natAbs_sextN (elem_lt w _ i)), loop _ _ _ rfl fun _ => rfl,
      loop _ _ _ rfl fun _ => rfl, loop _ _ _ rfl fun _ => rfl, loop _ _ _ rfl fun _ => rfl, fun hb => ?vfnsb⟩
    obtain ⟨ha, hd⟩ := grants_cons.mp hg
    exact ⟨_, rfl, vecInt_result ht (grants_cons.mpr ⟨ha, grants_cons.mpr ⟨hb, hd⟩⟩) fun _ => rfl⟩

/-- Within the grant, and where no field of the word is reserved, an operation has its effect. -/
theorem exec_of_allowed {s ok : State} {i : Instr} {rs : List Nat} {c : Prop} [Decidable c] (hg : s.grants rs) (hc : ¬ c)
    (e : exec i s = .next (s.needGrant rs (if c then s.trapReserved else ok))) : exec i s = .next ok := by
  rw [e, needGrant_ok s _ _ hg, if_neg hc]

/-! ### O21: moves -/

theorem vectorType_cases : ∀ t : BitVec 3, t = 0 ∨ t = 1 ∨ t = 2 ∨ t = 3 ∨ t = 4 ∨ t = 5 ∨ t = 6 ∨ t = 7 := by decide

theorem exec_vmovi {s : State} {t : BitVec 3} {d : BitVec 6} (ht : t ≠ 7) (hg : s.grants [d.toNat]) (i : BitVec 16) :
    exec (.vmovi t d i) s = .next (s.writeV d.toNat 2 (elemData (vwidth t.toNat)
      ((List.range (1024 / vwidth t.toNat)).map fun j => (j,
        if t = 2 ∨ t = 3 then (s.imm i).toNat
        else if t = 6 then i.toNat * 2 ^ 16 + s.cur.lend.toNat * 2 ^ 8 else i.toNat)))) := by
  refine (exec_of_allowed hg ht rfl).trans ?_
  obtain rfl | rfl | rfl | rfl | rfl | rfl | rfl | rfl := vectorType_cases t
  all_goals rfl

/-- Settles O21: each operation by what its image holds in an element. -/
theorem vectorMoves : Obligations.VectorMoves := by
  intro s t k n d a b c sd i j ht
  have hw := vwidth_dvd t.toNat
  refine ⟨?vextr, ?fills, ?one, ?two⟩
  case vextr => exact fun ha => exec_of_allowed (grants_singleton.mpr ha) ht rfl
  case fills =>
    intro hg fills w
    refine ⟨⟨_, exec_vmovi ht hg i, fun e he => ?_⟩, _, exec_of_allowed hg ht rfl,
      vecResult_writeElems hw fun _ => rfl⟩
    exact elem_elemData_map hw _ List.nodup_range he (List.mem_range.mpr he)
  case one =>
    intro hg w m x gives
    have whole (e : Nat) : x e = x e % 2 ^ (8 * w) := (elem_mod w _ e).symm
    constructor
    · exact ⟨_, exec_of_allowed hg ht rfl, vecResult_schedule hw fun e _ _ => whole e⟩
    · refine ⟨_, exec_of_allowed hg ht rfl, vecResult_schedule hw fun e he _ => ?_⟩
      exact (elem_rotateRight_clusters hw _ n.isLt he).trans (whole _)
  case two =>
    intro hg w m x y gives
    refine ⟨⟨_, exec_of_allowed hg ht rfl, fun e he => ?_⟩,
      _, exec_of_allowed hg ht rfl, vecResult_writeElems hw fun _ => rfl⟩
    rw [elem_mergeBytes hw _ _ _ he]
    split <;> exact (elem_mod w _ e).symm

/-! ### O22: comparisons, masks and reductions -/

/-- The active elements of cluster c, in order. -/
def clusterElems (w : Nat) (km : BitVec 1024) (v : BitVec 8192) (c : Nat) : List Nat :=
  ((List.range (128 / w)).filter fun e => active w km (c * (128 / w) + e)).map fun e => elem w v (c * (128 / w) + e)

theorem clusterElems_eq (w : Nat) (km : BitVec 1024) (v : BitVec 8192) (c : Nat) :
    clusterElems w km v c
      = (((List.range (128 / w)).map (c * (128 / w) + ·)).filter (active w km)).map (elem w v) := by
  simp [clusterElems, List.filter_map, Function.comp_def]

/-- The reduction of the elements of one cluster, with its flags (06 R145). -/
def reduced (t o : BitVec 3) (u : BitVec 1) (xs : List Nat) : Nat × BitVec 5 :=
  if t.toNat < 4 then (reduceInt o.toNat (8 * vwidth t.toNat) u xs, 0)
  else if o = 0 then reduceSum (vfmt t.toNat) xs
  else reducePick (vfmt t.toNat) (decide (o = 2)) xs

/-- Each cluster has its reduction in its element 0, and the flags of all of them land. -/
theorem exec_vred {s : State} {t o : BitVec 3} {d a : BitVec 6} (ht : t ≠ 7) (ho : o.toNat ≤ if t.toNat ≤ 3 then 5 else 2)
    (hg : s.grants [a.toNat, d.toNat]) (k : BitVec 3) (u : BitVec 1) :
    let w := vwidth t.toNat
    let red (c : Nat) := reduced t o u (clusterElems w (s.readK k.toNat) (s.readV a.toNat) c)
    exec (.vred t d a o k u) s = .next (s.schedule (if t.toNat ≤ 3 then 2 else 4)
      ((List.range 8).foldl (fun acc c => acc ||| (red c).2) 0)
      (.vector d.toNat (BitVec.allOnes 1024) (elemData w ((List.range 8).map fun c => (c * (128 / w), (red c).1))))) := by
  intro w red
  have allowed : ¬ (t = 7 ∨ 5 < o.toNat ∨ (3 < t.toNat ∧ 2 < o.toNat)) := by
    rintro (h | h)
    · exact ht h
    · split at ho <;> omega
  have values : (List.range 8).map (fun c => (c * (128 / w), (((List.range 8).map red).getD c (0, 0)).1))
      = (List.range 8).map fun c => (c * (128 / w), (red c).1) := by
    refine List.map_congr_left fun c hc => ?_
    simp [List.mem_range.mp hc]
  have latency : (if t.toNat ≤ 3 then 2 else 4) = if t.toNat < 4 then 2 else 4 := by simp only [Nat.lt_succ_iff (n := 3)]
  refine (exec_of_allowed hg allowed rfl).trans ?_
  rw [latency, ← values, ← List.foldl_map (f := red) (g := fun acc r => acc ||| r.2)]
  rfl

theorem clusterIndex_nodup {w : Nat} (hw : w ∣ 128) (g : Nat → Nat) :
    (((List.range 8).map fun c => (c * (128 / w), g c)).map (·.1)).Nodup := by
  rw [List.map_map]
  exact List.pairwise_map.mpr (List.Pairwise.imp (fun apart h => apart (Nat.mul_right_cancel (cluster_pos hw) h))
    List.nodup_range)

section
variable {s : State} {t e r : BitVec 3} {a b : BitVec 6} (hg : s.grants [a.toNat, b.toNat]) (hr : r ≠ 7)
include hg hr

theorem vcmp_result (ht : t.toNat ≤ 3) (k : BitVec 3) (u : BitVec 1) :
    let w := vwidth t.toNat
    let x := elem w (s.readV a.toNat)
    let y := elem w (s.readV b.toNat)
    ∃ q, exec (.vcmp t e r a b k u) s = .next q ∧ MaskResult s q e.toNat 2 w k.toNat (fun i =>
      intRel r.toNat (asInt u (8 * w) (x i)) (asInt u (8 * w) (y i)) (Nat.land (x i) (y i) != 0) = true) := by
  have allowed : ¬ (3 < t.toNat ∨ r = 7) := by
    rintro (h | h)
    · omega
    · exact hr h
  refine ⟨_, exec_of_allowed hg allowed rfl,
    maskResult_writeK (vwidth_dvd t.toNat) fun i => ?_⟩
  have nonzero (n : Nat) : decide (n ≠ 0) = (n != 0) := Bool.eq_iff_iff.mpr (by simp)
  simp only [nonzero]

theorem vfcmp_result (hf : 4 ≤ t.toNat) (ht : t ≠ 7) (k : BitVec 3) :
    let w := vwidth t.toNat
    let x := elem w (s.readV a.toNat)
    let y := elem w (s.readV b.toNat)
    ∃ q, exec (.vfcmp t e r a b k) s = .next q ∧ MaskResult s q e.toNat 4 w k.toNat (fun i =>
      floatRel r.toNat ((vfmt t.toNat).value (x i)) ((vfmt t.toNat).value (y i)) = true) := by
  have allowed : ¬ (t.toNat < 4 ∨ t = 7 ∨ r = 7) := by
    rintro (h | h | h)
    · omega
    · exact ht h
    · exact hr h
  exact ⟨_, exec_of_allowed hg allowed rfl,
    maskResult_writeK (vwidth_dvd t.toNat) fun i => Iff.rfl⟩

end

/-- Settles O22: comparisons fill a mask element by element, the mask operations are the model's own, and vred lists element
0 of each cluster. -/
theorem masksAndReduction : Obligations.MasksAndReduction := by
  constructor
  case left =>
    intro s t e r k a b u ka kb hg hr w x y
    exact ⟨fun ht => vcmp_result hg hr ht k u, fun hf ht => vfcmp_result hg hr hf ht k, rfl, rfl, rfl, rfl, rfl⟩
  case right =>
    intro s t o k d a u ht ho hg w m xs red
    have hw := vwidth_dvd t.toNat
    have whole (c : Nat) : reduced t o u (clusterElems (vwidth t.toNat) (s.readK k.toNat) (s.readV a.toNat) c) = red c := by
      simp only [reduced, clusterElems_eq, Nat.lt_succ_iff (n := 3)]
      rfl
    refine ⟨_, _, exec_vred ht ho hg k u, fun c hc => ?first,
      fun i _ hi => ?others, fun b _ => ?flags⟩
    case first =>
      have inside : c * m < 1024 / w := by
        rw [elements_eq hw]
        exact Nat.mul_lt_mul_of_pos_right hc (cluster_pos hw)
      rw [← whole]
      exact elem_elemData hw (clusterIndex_nodup hw _) inside (List.mem_map.mpr ⟨c, List.mem_range.mpr hc, rfl⟩)
    case others =>
      refine elem_elemData_of_not_mem hw (clusterIndex_nodup hw _) fun h => hi ?_
      obtain ⟨c, -, rfl⟩ : ∃ c, c < 8 ∧ c * m = i := by simpa using h
      exact Nat.mul_mod_left c m
    case flags => simp only [getLsbD_foldl_or_zero, whole, List.any_eq_true, List.mem_range]

/-! ### O23: floating operations -/

/-- The exclusive or with a power of two inverts that bit. -/
theorem xor_two_pow {x n : Nat} (hx : x < 2 ^ (n + 1)) :
    Nat.xor x (2 ^ n) = if x < 2 ^ n then x + 2 ^ n else x - 2 ^ n := by
  have place : 2 ^ n / 2 ^ n = 1 := Nat.div_self (Nat.two_pow_pos n)
  have high : Nat.xor x (2 ^ n) / 2 ^ n = x / 2 ^ n ^^^ 1 := (Nat.xor_div_two_pow (a := x)).trans (by rw [place])
  have low : Nat.xor x (2 ^ n) % 2 ^ n = x % 2 ^ n :=
    (Nat.xor_mod_two_pow (a := x)).trans (by rw [Nat.mod_self, Nat.xor_zero])
  rw [← Nat.div_add_mod (Nat.xor x (2 ^ n)) (2 ^ n), high, low]
  split
  case isTrue small => rw [Nat.div_eq_of_lt small, Nat.mod_eq_of_lt small, Nat.zero_xor, Nat.mul_one, Nat.add_comm]
  case isFalse large =>
    have one : x / 2 ^ n = 1 := Nat.div_eq_of_lt_le (by omega) (by rw [Nat.pow_succ] at hx; omega)
    have split := Nat.div_add_mod x (2 ^ n)
    rw [one] at split ⊢
    rw [Nat.xor_self, Nat.mul_zero]
    omega

theorem vfneg_result {s : State} {t : BitVec 3} {d a : BitVec 6} (hf : 4 ≤ t.toNat) (ht : t ≠ 7)
    (hg : s.grants [a.toNat, d.toNat]) (k : BitVec 3) (u : BitVec 1) :
    let w := vwidth t.toNat
    let x := elem w (s.readV a.toNat)
    ∃ r, exec (.vfneg t d a k u) s = .next r ∧ FloatResult s r d.toNat w 4 k.toNat (fun e => some
      (if u = 1 then x e % 2 ^ (8 * w - 1) else Nat.xor (x e) (2 ^ (8 * w - 1)), 0)) := by
  intro w x
  have allowed : ¬ (t.toNat < 4 ∨ t = 7) := by
    rintro (h | h)
    · omega
    · exact ht h
  have pos := width_pos (vwidth_dvd t.toNat)
  refine ⟨_, exec_of_allowed hg allowed rfl,
    floatResult_writeElems (vwidth_dvd t.toNat) (fun i => ?values) fun b => by simp⟩
  have top : 8 * w - 1 + 1 = 8 * w := by omega
  rw [xor_two_pow (by rw [top]; exact elem_lt w _ i)]

/-- Settles O23: the rounding loop for sums, products and vfma, the loop of picks for minima and maxima, and vfneg. -/
theorem vectorFloats : Obligations.VectorFloats := by
  intro s t k d a b u hf ht hg w fm x y z gives
  have range : 4 ≤ t.toNat ∧ t.toNat ≤ 6 := by
    have : t.toNat ≠ 7 := fun h => ht (BitVec.eq_of_toNat_eq h)
    have := t.isLt
    omega
  obtain ⟨ha, -, hd⟩ := grants_cons.mp hg |>.imp_right grants_cons.mp
  refine ⟨?rounded, ⟨_, rfl, vecPick_result false range hg⟩, ⟨_, rfl, vecPick_result true range hg⟩,
    vfneg_result hf ht (grants_cons.mpr ⟨ha, hd⟩) k u⟩
  intro mode hm rounded
  exact ⟨⟨_, rfl, vecFloat_result _ range hg hm⟩, ⟨_, rfl, vecFloat_result _ range hg hm⟩,
    ⟨_, rfl, vecFloat_result _ range hg hm⟩, ⟨_, rfl, vecFloat_result _ range hg hm⟩⟩

end Sys2Proof.Machine

/-! SUPPORT. Slot F (07): the places that elements move between, what its shared loop gives, the packing of blocks, and O24,
O25. -/

namespace Sys2Proof.Machine

open State

/-! ### Lists with a name for each entry -/

/-- Lists that belong to differently named things, each entry telling its thing's name, meet nowhere. -/
theorem nodup_flatMap_of_key {α β γ : Type} {l : List α} {name : α → γ} {g : α → List β} (key : β → γ)
    (names : (l.map name).Nodup) (each : ∀ a ∈ l, (g a).Nodup) (tells : ∀ a ∈ l, ∀ b ∈ g a, key b = name a) :
    (l.flatMap g).Nodup :=
  List.pairwise_flatMap.mpr ⟨each, (List.pairwise_map.mp names).imp_of_mem fun {a b} ha hb apart x hx y hy same =>
    apart (((tells a ha x hx).symm.trans (congrArg key same)).trans (tells b hb y hy))⟩

theorem nodup_map_range {m : Nat} {f : Nat → Nat} (h : ∀ i j, f i = f j → i = j) : ((List.range m).map f).Nodup :=
  List.pairwise_map.mpr (List.nodup_range.imp fun apart same => apart (h _ _ same))

/-! ### The word an F slot rounds with (07 R160) -/

/-- The pop of a word that is there leaves the masks alone. -/
theorem readK_roundWord {s : State} {code : Nat} (ready : s.bobbinReady code) (k : Nat) :
    (roundWord s code).2.readK k = s.readK k := by
  unfold roundWord
  split
  case isTrue sr =>
    obtain ⟨v, vs, word⟩ := List.exists_cons_of_ne_nil (ready sr)
    rw [popBobbin_of_cons word]
    rfl
  case isFalse => rfl

/-! ### Parts (07 R165) -/

theorem partOf_of_lt {s : State} {ratio : Nat} (h : s.cur.lend.toNat % 4 < ratio) :
    Sys2Proof.Machine.partOf s ratio = some (s.cur.lend.toNat % 4) := if_pos h

theorem fwidth_cases {t w : Nat} (h : fwidth t = some w) : w = 1 ∨ w = 2 ∨ w = 4 := by
  unfold fwidth at h
  split at h <;> simp_all

theorem dvd_of_fwidth {t w : Nat} (h : fwidth t = some w) : w ∣ 128 := by
  obtain rfl | rfl | rfl := fwidth_cases h <;> decide

/-- The model's ratio of two widths exceeds the parts that lie within the wider element. -/
theorem part_lt_ratio {tin tout win wout p : Nat} (hin : fwidth tin = some win) (hout : fwidth tout = some wout)
    (h : p * min win wout < max win wout) : p < max (win / wout) (max (wout / win) 1) := by
  obtain wider | narrower := Nat.le_total win wout
  · rw [Nat.min_eq_left wider] at h
    obtain rfl | rfl | rfl := fwidth_cases hin <;> obtain rfl | rfl | rfl := fwidth_cases hout <;> omega
  · rw [Nat.min_eq_right narrower] at h
    obtain rfl | rfl | rfl := fwidth_cases hin <;> obtain rfl | rfl | rfl := fwidth_cases hout <;> omega

/-- The part that a narrowing writes lies within its cluster. -/
theorem part_fits {tin tout win wout p : Nat} (hin : fwidth tin = some win) (hout : fwidth tout = some wout)
    (h : p * min win wout < max win wout) (narrow : wout < win) : p * (128 / win) + 128 / win ≤ 128 / wout := by
  rw [Nat.max_eq_left (Nat.le_of_lt narrow), Nat.min_eq_right (Nat.le_of_lt narrow)] at h
  obtain rfl | rfl | rfl := fwidth_cases hin <;> obtain rfl | rfl | rfl := fwidth_cases hout <;> omega

theorem floatType_cases : ∀ t : BitVec 3, 4 ≤ t.toNat → t ≠ 7 → t = 4 ∨ t = 5 ∨ t = 6 := by decide

/-- The parts of the mantissa bytes that floats of a type fill. -/
theorem floatWidth_parts {t : BitVec 3} {p : Nat} (float : 4 ≤ t.toNat) (type : t ≠ 7) (h : p < vwidth t.toNat) :
    128 / vwidth t.toNat = 64 ∧ p < 2 ∨ 128 / vwidth t.toNat = 32 ∧ p < 4 := by
  obtain rfl | rfl | rfl := floatType_cases t float type
  · exact .inl ⟨rfl, h⟩
  · exact .inl ⟨rfl, h⟩
  · exact .inr ⟨rfl, h⟩

/-! ### The source of a destination element (07 R165) -/

/-- The source element of destination element e under part p, none for one that a narrowing does not write. -/
def sourceElem (win wout p e : Nat) : Option Nat :=
  let j := e % (128 / wout)
  if wout < win ∧ (j < p * (128 / win) ∨ (p + 1) * (128 / win) ≤ j) then none
  else some (e / (128 / wout) * (128 / win)
    + if wout < win then j - p * (128 / win) else if win < wout then p * (128 / wout) + j else j)

theorem sourceElem_same (w p e : Nat) : sourceElem w w p e = some e := by
  simp [sourceElem, Nat.div_add_mod']

section
variable {win wout p : Nat} (hout : wout ∣ 128) (fits : wout < win → p * (128 / win) + 128 / win ≤ 128 / wout)
include hout

theorem elem_lt_iff_cluster_lt {e : Nat} : e < 1024 / wout ↔ e / (128 / wout) < 8 := by
  rw [elements_eq hout, Nat.div_lt_iff_lt_mul (cluster_pos hout)]

include fits

theorem mem_elemPairs {e q : Nat} :
    (e, q) ∈ elemPairs win wout p ↔ e < 1024 / wout ∧ sourceElem win wout p e = some q := by
  have pos := cluster_pos hout
  have place (c r : Nat) (hr : r < 128 / wout) (h : c * (128 / wout) + r = e) : e / (128 / wout) = c ∧ e % (128 / wout) = r :=
    Nat.div_mod_unique pos |>.mpr ⟨by rw [Nat.mul_comm]; omega, hr⟩
  have split := Nat.div_add_mod' e (128 / wout)
  have rest := Nat.mod_lt e pos
  rw [elem_lt_iff_cluster_lt hout]
  simp only [elemPairs, List.mem_flatMap, List.mem_range, sourceElem]
  by_cases narrow : wout < win
  case pos =>
    have fits := fits narrow
    simp only [narrow, if_true, List.mem_map, List.mem_range, Prod.mk.injEq, true_and, Nat.add_mul, Nat.one_mul]
    constructor
    · rintro ⟨c, hc, x, hx, he, rfl⟩
      obtain ⟨quot, rem⟩ := place c (p * (128 / win) + x) (by omega) (by omega)
      rw [quot, rem, if_neg (by omega)]
      exact ⟨hc, congrArg some (by omega)⟩
    · rintro ⟨hc, h⟩
      split at h
      case isTrue => cases h
      case isFalse inside =>
        exact ⟨_, hc, e % (128 / wout) - p * (128 / win), by omega, by omega, Option.some.inj h⟩
  case neg =>
    simp only [narrow, if_false, List.mem_map, List.mem_range, Prod.mk.injEq, false_and]
    constructor
    · rintro ⟨c, hc, x, hx, he, rfl⟩
      obtain ⟨quot, rem⟩ := place c x hx he
      rw [quot, rem]
      exact ⟨hc, rfl⟩
    · rintro ⟨hc, h⟩
      exact ⟨_, hc, _, rest, split, Option.some.inj h⟩

theorem nodup_elemPairs : ((elemPairs win wout p).map (·.1)).Nodup := by
  have pos := cluster_pos hout
  rw [elemPairs, List.map_flatMap]
  refine nodup_flatMap_of_key (name := id) (· / (128 / wout)) (by simpa using List.nodup_range) (fun c _ => ?each)
    fun c _ e he => ?tells
  case each => split <;> rw [List.map_map] <;> exact nodup_map_range fun i j h => by simpa using h
  case tells =>
    have within (r : Nat) (hr : r < 128 / wout) : (c * (128 / wout) + r) / (128 / wout) = c := by
      rw [Nat.mul_comm, mul_add_div_of_lt c hr]
    split at he
    case isTrue narrow =>
      have fits := fits narrow
      obtain ⟨x, hx, rfl⟩ : ∃ x < 128 / win, c * (128 / wout) + p * (128 / win) + x = e := by simpa using he
      rw [Nat.add_assoc]
      exact within _ (by omega)
    case isFalse =>
      obtain ⟨x, hx, rfl⟩ : ∃ x < 128 / wout, c * (128 / wout) + x = e := by simpa using he
      exact within x hx

end

/-! ### Blocks of active elements (07 R170) -/

/-- The byte of block b of cluster c in the register of exponents, with n elements in a cluster and part p. -/
def blockByte (n p c b : Nat) : Nat := c * 128 + (p * n + 32 * b) / 32

/-- The active elements of block b of cluster c, each with its mantissa byte. -/
def blockElems (w : Nat) (km : BitVec 1024) (v : BitVec 8192) (n p c b : Nat) : List (Nat × Nat) :=
  ((List.range 32).map fun e => (c * 128 + p * n + 32 * b + e, elem w v (c * n + 32 * b + e))).filter
    fun x => km.getLsbD x.1

/-- The blocks that hold an active element, each packed, with its byte in the register of exponents. -/
def packedBlocks (n p : Nat) (act : Nat → Nat → List (Nat × Nat))
    (pack : List (Nat × Nat) → Nat × List (Nat × Nat) × BitVec 5) : List (Nat × Nat × List (Nat × Nat) × BitVec 5) :=
  (List.range 8).flatMap fun c => (List.range (n / 32)).filterMap fun b =>
    if (act c b).isEmpty then none else some (blockByte n p c b, pack (act c b))

theorem mem_packedBlocks {n p : Nat} {act : Nat → Nat → List (Nat × Nat)}
    {pack : List (Nat × Nat) → Nat × List (Nat × Nat) × BitVec 5} {x : Nat × Nat × List (Nat × Nat) × BitVec 5} :
    x ∈ packedBlocks n p act pack ↔ ∃ c < 8, ∃ b < n / 32, act c b ≠ [] ∧ (blockByte n p c b, pack (act c b)) = x := by
  simp [packedBlocks]

/-- A packed block has the mantissa bytes of its elements. -/
theorem packBlock_bytes (m : Nat) (fm : Fmt) (mode : Nat → Rounding) (act : List (Nat × Nat)) :
    (packBlock m fm mode act).2.1.map (·.1) = act.map (·.1) := by
  unfold packBlock
  simp only
  split
  case isTrue => simp [Function.comp_def]
  case isFalse =>
    split
    case isTrue => simp [Function.comp_def]
    case isFalse =>
      simp only [List.map_map]
      refine List.map_congr_left fun x _ => ?_
      simp only [Function.comp_apply]
      split <;> rfl

section
variable {w n p : Nat} {km : BitVec 1024} {v : BitVec 8192} (shape : n = 64 ∧ p < 2 ∨ n = 32 ∧ p < 4)

theorem mem_blockElems_bytes {c b j : Nat} (h : j ∈ (blockElems w km v n p c b).map (·.1)) :
    ∃ e < 32, c * 128 + p * n + 32 * b + e = j := by
  obtain ⟨x, hx, rfl⟩ := List.mem_map.mp h
  obtain ⟨e, he, rfl⟩ := List.mem_map.mp (List.mem_filter.mp hx).1
  exact ⟨e, List.mem_range.mp he, rfl⟩

theorem nodup_blockElems_bytes (c b : Nat) : ((blockElems w km v n p c b).map (·.1)).Nodup := by
  refine List.Nodup.sublist (List.filter_sublist.map _) ?_
  rw [List.map_map]
  exact nodup_map_range fun i j h => by simpa using h

include shape

theorem blockByte_inj {c b c' b' : Nat} (hb : b < n / 32) (hb' : b' < n / 32)
    (h : blockByte n p c b = blockByte n p c' b') : c = c' ∧ b = b' := by
  unfold blockByte at h
  obtain ⟨rfl, hp⟩ | ⟨rfl, hp⟩ := shape <;> omega

theorem blockByte_lt {c b : Nat} (hc : c < 8) (hb : b < n / 32) : blockByte n p c b < 1024 := by
  unfold blockByte
  obtain ⟨rfl, hp⟩ | ⟨rfl, hp⟩ := shape <;> omega

/-- A mantissa byte tells the exponent byte of its block, and lies in the register. -/
theorem blockByte_of_byte {c b e : Nat} (hc : c < 8) (hb : b < n / 32) (he : e < 32) :
    let j := c * 128 + p * n + 32 * b + e
    j / 128 * 128 + j % 128 / 32 = blockByte n p c b ∧ j < 1024 := by
  unfold blockByte
  obtain ⟨rfl, hp⟩ | ⟨rfl, hp⟩ := shape <;> omega

variable {pack : List (Nat × Nat) → Nat × List (Nat × Nat) × BitVec 5}

theorem nodup_blockBytes (act : Nat → Nat → List (Nat × Nat)) : ((packedBlocks n p act pack).map (·.1)).Nodup := by
  have named (c b x : Nat)
      (h : ((if (act c b).isEmpty then none else some (blockByte n p c b, pack (act c b))).map (·.1)) = some x) :
      blockByte n p c b = x := by
    split at h
    · cases h
    · exact Option.some.inj h
  rw [packedBlocks, List.map_flatMap]
  refine nodup_flatMap_of_key (name := id) (· / 128) (by simpa using List.nodup_range) (fun c _ => ?each)
    fun c _ x hx => ?tells
  case each =>
    rw [List.map_filterMap]
    refine List.Pairwise.filterMap _ (fun b b' apart x h x' h' equal => apart ?_) List.nodup_range
    have same := ((named c b x h).trans equal).trans (named c b' x' h').symm
    unfold blockByte at same
    omega
  case tells =>
    rw [List.map_filterMap] at hx
    obtain ⟨b, hb, h⟩ := List.mem_filterMap.mp hx
    rw [← named c b x h, id]
    have := List.mem_range.mp hb
    unfold blockByte
    obtain ⟨rfl, hp⟩ | ⟨rfl, hp⟩ := shape <;> omega

theorem blockByte_mem_iff {act : Nat → Nat → List (Nat × Nat)} {c b : Nat} (hc : c < 8) (hb : b < n / 32) :
    blockByte n p c b ∈ (packedBlocks n p act pack).map (·.1) ↔ act c b ≠ [] := by
  simp only [List.mem_map, mem_packedBlocks]
  constructor
  · rintro ⟨_, ⟨c', hc', b', hb', some, rfl⟩, same⟩
    obtain ⟨rfl, rfl⟩ := blockByte_inj shape hb' hb same
    exact some
  · exact fun some => ⟨_, ⟨c, hc, b, hb, some, rfl⟩, rfl⟩

variable (bytes : ∀ l, (pack l).2.1.map (·.1) = l.map (·.1))
include bytes

theorem nodup_mantissaBytes :
    (((packedBlocks n p (blockElems w km v n p) pack).flatMap (·.2.2.1)).map (·.1)).Nodup := by
  rw [List.map_flatMap]
  refine nodup_flatMap_of_key (fun j => j / 128 * 128 + j % 128 / 32) (nodup_blockBytes shape _) (fun x hx => ?each)
    fun x hx j hj => ?tells
  all_goals obtain ⟨c, hc, b, hb, -, rfl⟩ := mem_packedBlocks.mp hx
  case each => rw [bytes]; exact nodup_blockElems_bytes c b
  case tells =>
    obtain ⟨e, he, rfl⟩ := mem_blockElems_bytes (bytes _ ▸ hj)
    exact (blockByte_of_byte shape hc hb he).1

/-- The mantissas of a block are written. -/
theorem elem_mantissas {c b : Nat} (hc : c < 8) (hb : b < n / 32) {x : Nat × Nat}
    (hx : x ∈ (pack (blockElems w km v n p c b)).2.1) :
    let l := (packedBlocks n p (blockElems w km v n p) pack).flatMap (·.2.2.1)
    (elemMask 1 (l.map (·.1))).getLsbD x.1 = true ∧ elem 1 (elemData 1 l) x.1 = x.2 % 256 := by
  intro l
  have nodup : (l.map (·.1)).Nodup := nodup_mantissaBytes shape bytes
  have named : x.1 ∈ (blockElems w km v n p c b).map (·.1) := bytes _ ▸ List.mem_map_of_mem hx
  have listed : x ∈ l := List.mem_flatMap.mpr
    ⟨_, mem_packedBlocks.mpr ⟨c, hc, b, hb, List.ne_nil_of_mem (List.mem_map.mp named).choose_spec.1, rfl⟩, hx⟩
  have inside : x.1 < 1024 := by
    obtain ⟨e, he, place⟩ := mem_blockElems_bytes named
    exact place ▸ (blockByte_of_byte shape hc hb he).2
  refine ⟨?_, elem_elemData (Nat.one_dvd _) nodup inside listed⟩
  rw [getLsbD_elemMask (Nat.one_dvd _) nodup inside, Nat.div_one]
  exact decide_eq_true (List.mem_map_of_mem listed)

omit bytes in
/-- The exponent of a block is written where the block holds an active element. -/
theorem elem_exponents {act : Nat → Nat → List (Nat × Nat)} {c b : Nat} (hc : c < 8) (hb : b < n / 32) :
    let l := (packedBlocks n p act pack).map fun x => (x.1, x.2.1)
    (elemMask 1 (l.map (·.1))).getLsbD (blockByte n p c b) = !(act c b).isEmpty
      ∧ (act c b ≠ [] → elem 1 (elemData 1 l) (blockByte n p c b) = (pack (act c b)).1 % 256) := by
  intro l
  have keys : l.map (·.1) = (packedBlocks n p act pack).map (·.1) := by rw [List.map_map]; rfl
  have nodup : (l.map (·.1)).Nodup := keys ▸ nodup_blockBytes shape act
  have inside := blockByte_lt shape hc hb
  constructor
  · rw [getLsbD_elemMask (Nat.one_dvd _) nodup inside, Nat.div_one, keys, Bool.eq_iff_iff, decide_eq_true_iff,
      blockByte_mem_iff shape hc hb]
    simp
  · exact fun some => elem_elemData (Nat.one_dvd _) nodup inside
      (List.mem_map.mpr ⟨_, mem_packedBlocks.mpr ⟨c, hc, b, hb, some, rfl⟩, rfl⟩)

end

/-! ### The shared loop (07 R165) -/

/-- The writes of a list of elements with flags, which names each element that is written once, and no other. -/
theorem floatResult_listed {s : State} {d w lat k : Nat} {l : List (Nat × Nat × BitVec 5)}
    {f : Nat → Option (Nat × BitVec 5)} (hw : w ∣ 128) (nodup : (l.map (·.1)).Nodup)
    (listed : ∀ i v, (i, v) ∈ l ↔ i < 1024 / w ∧ active w (s.readK k) i = true ∧ f i = some v) :
    FloatResult s (s.writeElems d w lat (l.foldl (fun acc x => acc ||| x.2.2) 0) (l.map fun x => (x.1, x.2.1))) d w lat k f := by
  have keys : (l.map fun x => (x.1, x.2.1)).map (·.1) = l.map (·.1) := by rw [List.map_map]; rfl
  have named (i : Nat) : i ∈ l.map (·.1) ↔ ∃ v, (i, v) ∈ l := by simp
  refine ⟨_, _, _, rfl, fun b hb => ?mask, fun i hi v on hv => ?values, fun b _ => ?flags⟩
  case mask =>
    rw [keys, getLsbD_elemMask hw nodup hb, Bool.eq_iff_iff, decide_eq_true_iff, named, Bool.and_eq_true,
      Option.isSome_iff_exists]
    simp only [listed, div_width_lt hw hb, true_and, exists_and_left]
  case values =>
    exact elem_elemData hw (by rwa [keys]) hi (List.mem_map.mpr ⟨(i, v), (listed i v).mpr ⟨hi, on, hv⟩, rfl⟩)
  case flags =>
    rw [getLsbD_foldl_or_zero, List.any_eq_true]
    constructor
    · rintro ⟨⟨i, v⟩, hx, bit⟩
      obtain ⟨hi, on, hv⟩ := (listed i v).mp hx
      exact ⟨i, hi, v, on, hv, bit⟩
    · rintro ⟨i, hi, v, on, hv, bit⟩
      exact ⟨(i, v), (listed i v).mpr ⟨hi, on, hv⟩, bit⟩

theorem floatResult_congr {s t : State} {d w lat k : Nat} {f g : Nat → Option (Nat × BitVec 5)} (h : ∀ e, f e = g e)
    (result : FloatResult s t d w lat k f) : FloatResult s t d w lat k g := funext h ▸ result

/-- Element e of what block floating point with mantissas of m bits unpacks to, from mantissa bytes v and exponents u, with n
elements in a cluster and part p (07 R171). -/
def unpackedElem (fm : Fmt) (m : Nat) (mode : Rounding) (v u : BitVec 8192) (n p e : Nat) : Nat × BitVec 5 :=
  let g := p * n + e % n
  let M := sextN (elem 1 v (e / n * 128 + g)) m
  let E := elem 1 u (e / n * 128 + g / 32)
  if E = 0 then (0, 0)
  else if E = 255 then (fm.nan, 0)
  else fm.round mode (.num (decide (M < 0)) M.natAbs ((E : Int) - 127 - (m - 1)) false)

section
variable {s : State} {r : BitVec 3} (code : s.effRound r ≠ 7) (ready : s.bobbinReady (s.effRound r))
include code ready

/-- An F operation on elements rounds each active element that has a source once, and writes no other. -/
theorem specElems_result {win wout ratio p : Nat} (hout : wout ∣ 128)
    (fits : wout < win → p * (128 / win) + 128 / win ≤ 128 / wout)
    (part : (if ratio = 0 then some 0 else Sys2Proof.Machine.partOf s ratio) = some p)
    (d a : BitVec 6) (k : BitVec 3) (f : Rounding → Nat → Nat × BitVec 5) :
    let q := roundWord s (s.effRound r)
    FloatResult q.2 (specElems d a (k.setWidth 6) (r.setWidth 6) win wout ratio f s) d.toNat wout 8 k.toNat (fun e =>
      (sourceElem win wout p e).map fun src =>
        f (elemMode (s.effRound r) q.1 (elemIndex wout e)) (elem win (s.readV a.toNat) src)) := by
  intro q
  have same : (r.setWidth 6).setWidth 3 = r := by simp
  have mask : (k.setWidth 6).toNat = k.toNat := by rw [BitVec.toNat_setWidth, Nat.mod_eq_of_lt (by omega)]
  simp only [specElems, same, mask, part, if_neg code]
  refine floatResult_listed hout ?nodup fun i v => ?listed
  case nodup =>
    rw [List.map_map]
    exact (nodup_elemPairs hout fits).sublist (List.filter_sublist.map _)
  case listed =>
    rw [readK_roundWord ready]
    simp only [List.mem_map, List.mem_filter, Prod.exists, mem_elemPairs hout fits, Prod.mk.injEq, Option.map_eq_some_iff]
    constructor
    · rintro ⟨e, src, ⟨⟨he, source⟩, on⟩, rfl, rfl⟩
      exact ⟨he, on, src, source, rfl⟩
    · rintro ⟨hi, on, src, source, rfl⟩
      exact ⟨i, src, ⟨⟨hi, source⟩, on⟩, rfl, rfl⟩

/-- A function of equal types rounds each active element once. -/
theorem specSame_result {i : BitVec 3} {d a : BitVec 6} {ratio : Nat} (float : 4 ≤ i.toNat) (type : i ≠ 7)
    (hg : s.grants [a.toNat, d.toNat]) (part : ratio = 0 ∨ ratio = 1 ∧ s.cur.lend.toNat % 4 = 0) (k : BitVec 3)
    (f : Fmt → Rounding → Nat → Nat × BitVec 5) :
    let w := vwidth i.toNat
    let q := roundWord s (s.effRound r)
    FloatResult q.2 (specSame i i d a k r ratio f s) d.toNat w 8 k.toNat (fun e =>
      some (f (vfmt i.toNat) (elemMode (s.effRound r) q.1 (elemIndex w e)) (elem w (s.readV a.toNat) e))) := by
  intro w q
  have allowed : ¬ (i ≠ i ∨ i.toNat < 4 ∨ i = 7) :=
    not_or.mpr ⟨fun h => h rfl, not_or.mpr ⟨Nat.not_lt.mpr float, type⟩⟩
  have part : (if ratio = 0 then some 0 else Sys2Proof.Machine.partOf s ratio) = some 0 := by
    obtain rfl | ⟨rfl, zero⟩ := part
    · rfl
    · rw [if_neg Nat.one_ne_zero, partOf_of_lt (by omega), zero]
  have loop := specElems_result code ready (win := vwidth i.toNat) (vwidth_dvd i.toNat)
    (fun narrow => absurd narrow (Nat.lt_irrefl _)) part d a k (f (vfmt i.toNat))
  simp only [sourceElem_same, Option.map_some] at loop
  rwa [specSame, needGrant_ok s _ _ hg, if_neg allowed]

/-- fcvt converts each source element to its destination element in part p. -/
theorem fcvt_result {i o : BitVec 3} {d a : BitVec 6} {win wout : Nat} (hin : fwidth i.toNat = some win)
    (hout : fwidth o.toNat = some wout) (types : i ≠ o) (hg : s.grants [a.toNat, d.toNat])
    (within : s.cur.lend.toNat % 4 * min win wout < max win wout) (k : BitVec 3) :
    let q := roundWord s (s.effRound r)
    ∃ t, exec (.fcvt i o d a k r) s = .next t
      ∧ FloatResult q.2 t d.toNat wout 8 k.toNat (fun e => (sourceElem win wout (s.cur.lend.toNat % 4) e).map fun src =>
          fcvtElem i.toNat o.toNat (elemMode (s.effRound r) q.1 (elemIndex wout e)) (elem win (s.readV a.toNat) src)) := by
  intro q
  have part := partOf_of_lt (part_lt_ratio hin hout within)
  refine ⟨_, ?_, specElems_result code ready (dvd_of_fwidth hout) (part_fits hin hout within)
    ((if_neg (by omega)).trans part) d a k (fcvtElem i.toNat o.toNat)⟩
  change execFcvt i o d a k r s = _
  simp only [execFcvt, hin, hout, needGrant_ok s _ _ hg, if_neg types]

omit ready in
/-- fbunpk unpacks each active element of its destination, with one rounding. -/
theorem exec_fbunpk {o m : BitVec 3} {d a : BitVec 6} (float : 4 ≤ o.toNat) (type : o ≠ 7) (size : m ≠ 7)
    (hg : s.grants [a.toNat, a.toNat + 1, d.toNat]) (within : s.cur.lend.toNat % 4 < vwidth o.toNat) (k : BitVec 3) :
    let w := vwidth o.toNat
    let q := roundWord s (s.effRound r)
    let x (e : Nat) := unpackedElem (vfmt o.toNat) (m.toNat + 2) (elemMode (s.effRound r) q.1 (elemIndex w e))
      (s.readV a.toNat) (s.readV (a.toNat + 1)) (128 / w) (s.cur.lend.toNat % 4) e
    exec (.fbunpk o m d a k r) s = .next (q.2.writeElems d.toNat w 8
      ((actives w (s.readK k.toNat)).foldl (fun acc e => acc ||| (x e).2) 0)
      ((actives w (s.readK k.toNat)).map fun e => (e, (x e).1))) := by
  intro w q x
  have allowed : ¬ (o.toNat < 4 ∨ o = 7 ∨ m = 7) := not_or.mpr ⟨Nat.not_lt.mpr float, not_or.mpr ⟨type, size⟩⟩
  change execFbunpk o m d a k r s = _
  simp only [execFbunpk, needGrant_ok s _ _ hg, if_neg allowed, partOf_of_lt within, if_neg code, List.map_map,
    List.foldl_map]
  rfl

theorem fbunpk_result {o m : BitVec 3} {d a : BitVec 6} (float : 4 ≤ o.toNat) (type : o ≠ 7) (size : m ≠ 7)
    (hg : s.grants [a.toNat, a.toNat + 1, d.toNat]) (within : s.cur.lend.toNat % 4 < vwidth o.toNat) (k : BitVec 3) :
    let w := vwidth o.toNat
    let q := roundWord s (s.effRound r)
    ∃ t, exec (.fbunpk o m d a k r) s = .next t
      ∧ FloatResult q.2 t d.toNat w 8 k.toNat (fun e => some (unpackedElem (vfmt o.toNat) (m.toNat + 2)
          (elemMode (s.effRound r) q.1 (elemIndex w e)) (s.readV a.toNat) (s.readV (a.toNat + 1)) (128 / w)
          (s.cur.lend.toNat % 4) e)) := by
  intro w q
  refine ⟨_, exec_fbunpk code float type size hg within k, ?_⟩
  rw [← readK_roundWord ready]
  exact floatResult_writeElems (vwidth_dvd o.toNat) (fun _ => rfl) fun b => getLsbD_foldl_or_zero _ _ b

omit ready in
/-- fbpk packs the blocks that hold an active element: the mantissas in register d, the exponents in the next. -/
theorem exec_fbpk {i m : BitVec 3} {d a : BitVec 6} (float : 4 ≤ i.toNat) (type : i ≠ 7) (size : m ≠ 7)
    (hg : s.grants [a.toNat, d.toNat, d.toNat + 1]) (within : s.cur.lend.toNat % 4 < vwidth i.toNat) (k : BitVec 3) :
    let w := vwidth i.toNat
    let n := 128 / w
    let p := s.cur.lend.toNat % 4
    let q := roundWord s (s.effRound r)
    let blocks := packedBlocks n p (blockElems w (s.readK k.toNat) (s.readV a.toNat) n p)
      (packBlock (m.toNat + 2) (vfmt i.toNat) fun e => elemMode (s.effRound r) q.1 (elemIndex 1 e))
    exec (.fbpk i m d a k r) s = .next
      ((q.2.writeElems d.toNat 1 8 (blocks.foldl (fun acc b => acc ||| b.2.2.2) 0) (blocks.flatMap (·.2.2.1))).writeElems
        (d.toNat + 1) 1 8 0 (blocks.map fun b => (b.1, b.2.1))) := by
  intro w n p q blocks
  have allowed : ¬ (i.toNat < 4 ∨ i = 7 ∨ m = 7) := not_or.mpr ⟨Nat.not_lt.mpr float, not_or.mpr ⟨type, size⟩⟩
  change execFbpk i m d a k r s = _
  simp only [execFbpk, needGrant_ok s _ _ hg, if_neg allowed, partOf_of_lt within, if_neg code]
  rfl

end

/-! ### O24: functions of equal types, and bobpop -/

/-- Settles O24: each function is the loop of equal types with its own rule for an element; a pop takes the oldest word. -/
theorem specialFunctions : Obligations.SpecialFunctions := by
  constructor
  case left =>
    intro s i k r d a float type hg code ready w fm x p mode gives
    have loop {ratio : Nat} (part : ratio = 0 ∨ ratio = 1 ∧ s.cur.lend.toNat % 4 = 0) (ins : Instr) (f)
        (e : exec ins s = .next (specSame i i d a k r ratio f s)) : gives ins f :=
      ⟨_, e, specSame_result code ready float type hg part k f⟩
    refine ⟨fun zero => ?functions, loop (.inl rfl) _ _ rfl⟩
    have loop := @loop 1 (.inr ⟨rfl, zero⟩)
    exact ⟨loop _ _ rfl, loop _ _ rfl, loop _ _ rfl, loop _ _ rfl, loop _ _ rfl, loop _ _ rfl, loop _ _ rfl⟩
  case right => exact fun s d w ws word => exec_bobpop_of_cons d word

/-! ### O25: conversion and block floating point -/

/-- Settles O25: fcvt is the loop with the source that a part gives an element, fbunpk the loop of unpacked elements, and
fbpk writes each block that holds an active element once. -/
theorem conversions : Obligations.Conversions := by
  intro s i o m k r d a code ready p q mode
  refine ⟨fun win wout hin hout types hg within => ?fcvt, fun float type size hg within => ?fbunpk,
    fun float type size hg within => ?fbpk⟩
  case fcvt =>
    obtain ⟨t, run, result⟩ := fcvt_result code ready hin hout types hg within k
    refine ⟨t, run, floatResult_congr (fun e => ?_) result⟩
    simp only [sourceElem]
    split <;> rfl
  case fbunpk =>
    have scale : ((m.toNat + 2 : Nat) : Int) - 1 = m.toNat + 1 := by omega
    have result := fbunpk_result code ready float type size hg within k
    simp only [unpackedElem, scale] at result
    exact result
  case fbpk =>
    intro w n act block
    have shape : n = 64 ∧ p < 2 ∨ n = 32 ∧ p < 4 := floatWidth_parts float type within
    exact ⟨_, _, _, _, _, exec_fbpk code float type size hg within k, fun c hc b hb =>
      ⟨fun x => elem_mantissas shape (packBlock_bytes _ _ _) hc hb, elem_exponents shape hc hb⟩⟩

end Sys2Proof.Machine

/-! SUPPORT. What the events of the channels, the scrubbers and the bobbin generator do (07 R159, 22 R378 to R390), and O55. -/

namespace Sys2Proof.Machine

open State

section
variable {s : State} {ch : Nat}

/-! ### Refresh and temperature (22 R378, R380) -/

theorem exec_refreshInterval (h : (s.channel ch).interval + refreshTime (s.channel ch).rate ≤ s.pkg.now) :
    exec (.refreshInterval ch) s = .next ((s.setChannel ch { s.channel ch with
      owed := min ((s.channel ch).owed + 1) 9, rate := (s.channel ch).newRate
      interval := (s.channel ch).interval + refreshTime (s.channel ch).rate }).drainBacks ch) :=
  congrArg _ (if_neg (Nat.not_lt.mpr h))

theorem exec_perBankRefresh (h : s.mayRefreshBank ch = true) :
    exec (.perBankRefresh ch) s = .next (s.setChannel ch { s.channel ch with
      busy := ((s.channel ch).next, s.pkg.now + perBankTime) :: s.refreshing ch, next := ((s.channel ch).next + 1) % 32
      owed := (s.channel ch).owed - 1 }) :=
  congrArg _ (if_pos h)

theorem exec_allBankRefresh (owed : (s.channel ch).owed = 9) (free : (s.channel ch).blocked ≤ s.pkg.now) :
    exec (.allBankRefresh ch) s = .next (s.setChannel ch { s.channel ch with
      blocked := s.pkg.now + allBankTime, owed := 0, abr := min ((s.channel ch).abr + 1) (2 ^ 32 - 1) }) :=
  congrArg _ (if_pos ⟨owed, free⟩)

/-- The channel at a reading's code: the next rate and the cap follow it. -/
def State.tempRead (s : State) (ch temp : Nat) : State :=
  let code := tempCode (s.channel ch).temp temp
  s.setChannel ch { s.channel ch with temp := code, newRate := min code 2, cap := code - 1, tempAt := s.pkg.now }

/-- A reading in a new period sets the channel's code, and logs a stop that begins. -/
theorem exec_temperatureRead (h : (s.channel ch).tempAt / 100000000 < s.pkg.now / 100000000) (temp : Nat) :
    exec (.temperatureRead ch temp) s = .next (if tempCode (s.channel ch).temp temp = 4 ∧ (s.channel ch).temp ≠ 4 then
      (s.tempRead ch temp).log ch 0 0 0 else s.tempRead ch temp) :=
  congrArg _ (if_neg (Nat.not_le.mpr h))

/-! ### Scrubbing (21 R375, 22 R390) -/

theorem exec_patrolScrub (running : (s.channel ch).cap ≠ 3) (due : (s.channel ch).scrub / 2000000 < s.pkg.now / 2000000)
    (found : ScrubFinding) :
    exec (.patrolScrub ch (s.patrolLine ch) found) s =
      .next (((s.scrub ch (s.patrolLine ch) found).charge 32 (8 + ch / 32) 0 128).setChannel ch { s.channel ch with
        scrub := s.pkg.now, scrubPos := ((s.channel ch).scrubPos + 1) % 2 ^ 24 }) :=
  congrArg _ (if_neg (not_or.mpr ⟨running, not_or.mpr ⟨Nat.not_le.mpr due, fun h => h rfl⟩⟩))

theorem exec_sliceScrub {d line : Nat} (clocked : (s.die d).gated = false)
    (due : (s.die d).sliceScrub / 4096 < (s.die d).cyc / 4096) (here : s.sliceLine d = some line) (found : ScrubFinding) :
    exec (.sliceScrub d line found) s =
      .next (((s.scrub d line found).charge 32 d 0 128).modDie d fun v => { v with
        scrubPos := (v.scrubPos + 1) % (48 * 8192)
        sliceScrub := if (v.scrubPos + 1) % 48 = 0 then v.cyc else v.sliceScrub }) := by
  change execSliceScrub d line found s = _
  have goes : ¬ ((s.die d).gated = true ∨ (s.die d).cyc / 4096 ≤ (s.die d).sliceScrub / 4096) := by
    simp [clocked, due]
  simp only [execSliceScrub, if_neg goes, here, if_true]

/-! ### The bobbin generator (07 R159) -/

theorem exec_bobbinPush {n : Nat} (clocked : (s.die (dieOf n)).gated = false) (due : (s.core n).bobbinCyc < s.cyc n)
    (healthy : (s.core n).bobbinPause = none) (room : (s.core n).bobbin.length < 64) :
    exec (.bobbinPush n) s = .next (s.modCore n fun c => { c with
      bobbin := c.bobbin ++ [Config.bobbinWord n c.drawn], drawn := c.drawn + 1, bobbinCyc := c.bobbinCyc + 1 }) := by
  change execBobbinPush n s = _
  have goes : ¬ ((s.die (dieOf n)).gated = true ∨ s.cyc n ≤ (s.core n).bobbinCyc) := by simp [clocked, due]
  have pushes : ¬ (false || decide (64 ≤ (s.core n).bobbin.length)) = true := by simp [room]
  simp only [execBobbinPush, healthy, if_neg goes, if_neg pushes]

theorem exec_bobbinPauseEnd {n t : Nat} (paused : (s.core n).bobbinPause = some t) (ended : t ≤ s.cyc n) :
    exec (.bobbinPauseEnd n) s = .next ((s.fillBobbin n).modCore n fun c => { c with bobbinPause := none }) := by
  change execBobbinPauseEnd n s = _
  simp only [execBobbinPauseEnd, paused, if_neg (Nat.not_lt.mpr ended)]

end

/-- Settles O55: each event by its equation. -/
theorem memoryEvents : Obligations.MemoryEvents := by
  intro s ch temp line d n t k c code q
  refine ⟨exec_refreshInterval, exec_perBankRefresh, exec_allBankRefresh, fun due => ?temperature, fun running due here => ?patrol,
    fun clocked due here => exec_sliceScrub clocked due here _, exec_bobbinPush, rfl, exec_bobbinPauseEnd⟩
  case temperature =>
    refine ⟨_, exec_temperatureRead due temp, ?_⟩
    split <;> rfl
  case patrol =>
    subst here
    exact exec_patrolScrub running due _

end Sys2Proof.Machine

/-! SUPPORT. What heddle streams do (09 R213 to R216, R227), and O29. -/

namespace Sys2Proof.Machine

open State

section
variable {s : State}

/-! ### Heddle streams (09 R213 to R216, R227) -/

theorem exec_mxunpin (s : State) (h : BitVec 2) :
    exec (.mxunpin h) s = .next (s.setStream s.cur.core h.toNat resetStream) := rfl

/-- mxpush pushes to the issuing core, mxgang to the cores of its mask. -/
theorem exec_pushes {q : BitVec 6} {h : BitVec 2} {t : List Nat → State}
    (push : ∀ cores, pushStream q.toNat h.toNat cores s = t cores) (m : BitVec 4) :
    exec (.mxpushStream q h) s = .next (t [s.cur.core])
    ∧ (m ≠ 0 → exec (.mxgang q h m) s = .next (t (quadCores s.cur.core m.toNat))) :=
  ⟨congrArg _ (push _), fun hm => congrArg _ ((if_neg hm).trans (push _))⟩

section
variable {h : Nat} (q : Nat) (cores : List Nat)

theorem pushStream_closed (closed : (s.stream s.cur.core h).opened = false) :
    pushStream q h cores s = s.trapHere 0x09 0 (2 ^ 31 + (s.pinnedLines s.cur.core).length) := by
  simp only [pushStream, closed, Bool.not_false, if_true]

theorem pushStream_waits (opened : (s.stream s.cur.core h).opened = true)
    (late : (s.stream s.cur.core h).arrived ≤ (s.stream s.cur.core h).pos) :
    pushStream q h cores s = s.blockFor (rowWait h) := by
  simp only [pushStream, opened, Bool.not_true, Bool.false_eq_true, if_false, if_pos late]

theorem pushStream_takes (opened : (s.stream s.cur.core h).opened = true)
    (here : (s.stream s.cur.core h).pos < (s.stream s.cur.core h).arrived) :
    pushStream q h cores s = cores.foldl
      (fun (t : State) k => t.scheduleOn k 1 (.shadow q (s.takeRow s.cur.core h).1.1 (s.takeRow s.cur.core h).1.2))
      (s.takeRow s.cur.core h).2 := by
  simp only [pushStream, opened, Bool.not_true, Bool.false_eq_true, if_false, if_neg (Nat.not_le.mpr here)]

end

/-- The address of row i of a stream. -/
def rowAddr (base : Nat) (stride : Int) (i : Nat) : Nat := wideAddr ((base : Int) + (i : Int) * stride)

/-- The requests for the rows of a stream. -/
def rowRequests (base cnt : Nat) (stride : Int) : List (Nat × Nat × Nat) :=
  (List.range cnt).map fun i => (rowAddr base stride i, 128, 0)

/-- Stream h of the issuing core as it opens with the rows of lines ls, whose walks left the state s1. -/
def openedStream (s s1 : State) (base cnt : Nat) (stride : Int) (keep : Bool) (ls : List Nat) : Stream :=
  { opened := true, base := base, count := cnt, stride := stride, keep := keep, pos := 0, arrived := 0
    asked := List.replicate (if keep then 16 else min 16 cnt) s.pkg.now
    rows := ls.map (streamRow s (s.ownWrites s.cur.ctx)), lines := ls, loose := looseLines s1 ls
    cold := (distinct ls).filter fun l => !s1.inL2 l, owner := s.cur.ctx }

theorem sextN_mod (x n : Nat) : sextN (x % 2 ^ n) n = sextN x n := by simp [sextN]

/-- The stride that mxhed reads from s[C][63:32], where 0 stands for 128 (09 R214). -/
def strideOf (v : BitVec 64) : Int :=
  if sextN (v.toNat / 2 ^ 32) 32 = 0 then 128 else sextN (v.toNat / 2 ^ 32) 32

theorem exec_mxhed {h : BitVec 2} {kp : BitVec 1} {a c : BitVec 6} {base cnt : Nat} {stride : Int}
    {s0 s1 : State} {ls : List Nat}
    (address : (s.readS a).toNat = base) (count : (s.readS c).toNat % 512 = cnt) (step : strideOf (s.readS c) = stride)
    (released : s.setStream s.cur.core h.toNat resetStream = s0)
    (ready : s.homeAhead (rowRequests base cnt stride) = false)
    (clear : ∀ i < cnt, s.shooting (State.partOf s s.cur.ctx) (rowAddr base stride i) 128 = false)
    (rows : 0 < cnt) (baseAligned : base % 128 = 0) (strideAligned : stride % 128 = 0) (global : inWindow base = false)
    (mapped : streamLines ((List.range cnt).map (rowAddr base stride)) s0 = .ok (ls, s1))
    (room : (s0.pinnedLines s.cur.core).length + (distinct ls).length ≤ 256) :
    exec (.mxhed h kp a c) s = .next (((s1.touchLines ((distinct ls).filter fun l => !(looseLines s1 ls).contains l)
      false).keepWalks (10000 + s.cur.core) h.toNat).setStream s.cur.core h.toNat
        (openedStream s0 s1 base cnt stride (kp == 1) ls)) := by
  have free : ((rowRequests base cnt stride).any fun r => s.shooting (State.partOf s s.cur.ctx) r.1 r.2.1) = false := by
    simpa [rowRequests] using clear
  have count' : bits (s.readS c) 8 0 = cnt := by simpa [bits] using count
  have stride' : sextN (bits (s.readS c) 63 32) 32 = sextN ((s.readS c).toNat / 2 ^ 32) 32 := sextN_mod _ 32
  have aligned : ¬ (base % 128 ≠ 0 ∨ stride % 128 ≠ 0) := by simp [baseAligned, strideAligned]
  change execMxhed h kp a c s = _
  unfold strideOf at step
  unfold rowRequests rowAddr at *
  simp only [execMxhed, address, count', stride', step, ready, free, closeStream, released, if_neg (Nat.ne_of_gt rows), if_neg aligned,
    global, mapped, if_neg (Nat.not_lt.mpr room), Bool.false_eq_true, if_false]
  subst released
  simp only [openedStream, beq_iff_eq]
  rfl

end

/-- Settles O29: both pushes are `pushStream`, whose three cases exclude each other; mxhed opens by its equation. -/
theorem heddleStreams : Obligations.HeddleStreams := by
  intro s h kp q a c m n row
  refine ⟨exec_mxunpin s h, fun opened late => ?waits, fun closed => ?traps, fun opened here => ?takes, ?opens⟩
  case waits => exact exec_pushes (fun cores => pushStream_waits _ cores opened late) m
  case traps => exact exec_pushes (fun cores => pushStream_closed _ cores closed) m
  case takes => exact exec_pushes (fun cores => pushStream_takes _ cores opened here) m
  case opens =>
    intro base cnt st0 stride s0 ls s1 ready clear rows baseAligned strideAligned global mapped room
    refine (exec_mxhed rfl rfl rfl rfl ready clear rows baseAligned strideAligned global mapped room).trans ?_
    simp only [openedStream, beq_iff_eq]
    rfl

end Sys2Proof.Machine

/-! SUPPORT. How engine operations end (09 R216, R223, 10 R237 to R254, 11 R260, 21 R373), and O50. -/

namespace Sys2Proof.Machine

open State

section
variable {s s1 : State} {n id : Nat} {e : EngineOp}

/-! ### Copies, chains and cancels (10 R237 to R241) -/

/-- A source served and clear of shoot-downs: the copy's bytes land, and its tag completes. -/
theorem exec_copyComplete {dst src len : Nat} {u : State} (op : (s.landDue n).engine n id = some e)
    (kind : e.kind = .copy dst src len) (clear : (s.landDue n).opShot n e dst len = false) (sound : e.status ≠ 1)
    (served : (s.landDue n).engineTurn n id ((s.landDue n).engineLines e) = (true, s1))
    (moved : s1.fresh.2.moveOp n e dst (s1.fresh.2.copyBytes e.ctx s1.fresh.1 dst src e.data) e.poison = .landed u) :
    exec (.copyComplete n id) s = .next (((u.chargeMove e.ctx len [(src, len), (dst, len)]).finish n e
      (if e.poison = [] then 0 else 3) 0).sampleSince e.ctx 4 e.issued) := by
  change execCopyComplete n id s = _
  simp only [execCopyComplete, op, kind, clear, Bool.false_eq_true, if_false, if_neg sound, served, moved, List.isEmpty_iff]

/-- The lookups of a chain's record and of its move wait at no shoot-down. -/
def State.recordClear (s : State) (n : Nat) (e : EngineOp) (p : Nat) (r : ChainRecord) : Prop :=
  s.opShot n e p 32 = false ∧ s.opShot n e r.src r.len = false ∧ s.opShot n e r.dst r.len = false

section chain
variable {p : Nat} {r : ChainRecord} {view : Option Nat} {s2 : State}

theorem exec_chainRecord_skipped (op : (s.landDue n).engine n id = some e) (kind : e.kind = .chain p)
    (read : (s.landDue n).chainRecord e p = some (r, view, s2)) (clear : (s.landDue n).recordClear n e p r)
    (skipped : r.flags % 2 = 0) :
    exec (.chainRecord n id) s = .next ((s2.finish n e e.status e.fa).sampleSince e.ctx 4 e.issued) := by
  obtain ⟨hp, hsrc, hdst⟩ := clear
  change execChainRecord n id s = _
  simp only [execChainRecord, op, kind, read, hp, hsrc, hdst, Bool.or_self, Bool.false_eq_true, if_false, if_pos skipped]

theorem exec_chainRecord_moved {data : List (BitVec 8)} {bad : List Nat} {e1 : EngineOp} {s3 s4 u : State}
    (op : (s.landDue n).engine n id = some e) (kind : e.kind = .chain p)
    (read : (s.landDue n).chainRecord e p = some (r, view, s2)) (clear : (s.landDue n).recordClear n e p r)
    (own : r.flags % 2 = 1) (source : s2.recordData e r view = .ok (data, bad, e1, s3))
    (served : s3.engineTurn n id (s3.globalLines e1.ctx p 32 ++ s3.globalLines e1.ctx r.src r.len) = (true, s4))
    (moved : s4.fresh.2.moveOp n e1 r.dst (s4.fresh.2.copyBytes e1.ctx s4.fresh.1 r.dst r.src data) bad = .landed u) :
    exec (.chainRecord n id) s = .next ((u.chargeMove e1.ctx r.len [(r.src, r.len), (r.dst, r.len)]).afterRecord n
      (u.seeLanding e1 r.dst r.len) p r (if bad = [] then 0 else 3)) := by
  obtain ⟨hp, hsrc, hdst⟩ := clear
  have goes : ¬ r.flags % 2 = 0 := by omega
  change execChainRecord n id s = _
  simp only [execChainRecord, op, kind, read, hp, hsrc, hdst, Bool.or_self, Bool.false_eq_true, if_false, if_neg goes, source,
    served, moved, List.isEmpty_iff]

end chain

theorem exec_cancelAcknowledge (op : (s.landDue n).engine n id = some e) (asked : e.cancel = true) :
    exec (.cancelAcknowledge n id) s = .next ((s.landDue n).acknowledge n e) := by
  change execCancelAcknowledge n id s = _
  simp only [execCancelAcknowledge, op, if_pos asked]

/-! ### Load-blocks (10 R253, R254) -/

/-- The lines of a load-block by the pages of its range. -/
def blockLines (pages : List (Nat × Nat)) (base lines : Nat) : List Nat :=
  (List.range lines).map fun i => physOf pages (base + 128 * i) / 128

/-- A block that finds room, of lines that are in no other block and hold no poison, takes its place. -/
theorem exec_loadBlockFill {base lines : Nat} {pages : List (Nat × Nat)} {s2 s3 : State} {slice : Nat}
    (op : (s.landDue n).engine n id = some e) (kind : e.kind = .block base lines)
    (clear : (s.landDue n).opShot n e base (128 * lines) = false)
    (mapped : (s.landDue n).translateRange n (State.partOf (s.landDue n) e.ctx) base (128 * lines) .read = .ok (pages, s2))
    (home : s2.homeSlice ((blockLines pages base lines).headD 0) = slice)
    (room : s2.blockRoom slice (blockLines pages base lines) = true)
    (apart : ∀ l ∈ blockLines pages base lines, ∀ b ∈ s2.blocks, l ∉ b.pas)
    (served : s2.memoryTurn (8000 + n) id (blockLines pages base lines) = (true, s3))
    (good : ∀ l ∈ blockLines pages base lines, ∀ k < 4, s3.poison.get (4 * l + k) = 0) :
    exec (.loadBlockFill n id e.tag) s =
      .next (((s3.homeBlock ⟨slice, e.ctx, e.tag, base, lines, blockLines pages base lines⟩).chargeMove e.ctx (128 * lines)
        [(base, 128 * lines)]).finish n e 0 0) := by
  subst home
  have inNone : ((blockLines pages base lines).any fun l => s2.blocks.any fun b => b.pas.contains l) = false := by
    simpa using apart
  have noPoison : ((blockLines pages base lines).any fun l =>
      (List.range 4).any fun k => s3.poison.get (4 * l + k) != 0) = false := by
    simpa using good
  change execLoadBlockFill n id e.tag s = _
  unfold blockLines at *
  simp only [execLoadBlockFill, op, kind, clear, mapped, room, inNone, served, noPoison, ne_eq, not_true_eq_false, decide_false,
    Bool.not_true, Bool.or_self, Bool.false_eq_true, if_false]

/-! ### Decks and heddle rows (09 R216, R223) -/

theorem exec_deckLoadComplete {addr k : Nat} (op : s.engine n id = some e) (kind : e.kind = .deck addr k)
    (sound : e.status = 0) (served : s.engineTurn n id (s.engineLines e) = (true, s1)) :
    exec (.deckLoadComplete n id) s = .next (((s1.modCore n fun c => { c with seq := { c.seq with
      cards := (List.range k).map fun i => bytesToBits 512 ((e.data.drop (64 * i)).take 64)
      usable := true, loading := none } }).chargeMove e.ctx (64 * k) [(addr, 64 * k)]).finish n e 0 e.fa) := by
  change execDeckLoadComplete n id s = _
  simp only [execDeckLoadComplete, op, kind, sound, served, decide_true, if_true]

/-- The state in which row v.arrived of stream h has arrived, before it is charged: its line l is used, and the waits for
the row have ended. -/
def State.rowArrived (s : State) (n h : Nat) (v : Stream) (l : Nat) (asked : List Nat) : State :=
  (List.range 8).foldl (fun (a : State) c => a.interlockEnds (8 * n + c) (rowKey h) 0x4000 2)
    ((if l ∈ v.loose then s else s.touchL2 l false).setStream n h { v with
      arrived := v.arrived + 1, asked := asked, cold := v.cold.filter (· ≠ l) })

theorem exec_heddleRowArrival {h t l : Nat} {ts : List Nat} {v : Stream} (stream : s.stream n h = v)
    (line : v.lines.getD (v.arrived % v.count) 0 = l) (opened : v.opened = true) (asked : v.asked = t :: ts)
    (served : s.memoryTurn (10000 + n) h [l] (if l ∈ v.cold ∧ l ∉ v.loose then [l] else []) = (true, s1)) :
    exec (.heddleRowArrival n h) s =
      let charged := (s1.rowArrived n h v l ts).chargeBytes (s.streamPart n v) n 128
        (if (l ∈ v.cold ∧ l ∉ v.loose) ∨ s.channelLines [l] ≠ [] then some (128 * l) else none)
      .next (if v.owner < 6144 then charged.sampleSince v.owner 2 t else charged) := by
  subst stream line
  change execHeddleRowArrival n h s = _
  simp only [execHeddleRowArrival, asked, opened, Bool.not_true, Bool.false_eq_true, if_false, Bool.and_eq_true,
    Bool.not_eq_true', List.contains_eq_mem, decide_eq_true_eq, decide_eq_false_iff_not, served,
    Bool.or_eq_true, List.isEmpty_eq_false_iff, rowArrived]

/-! ### Multicasts (10 R250, 11 R260) -/

theorem State.landPiece_done (s : State) (n rc x base len boff : Nat) (data : List (BitVec 8)) (poison : List Nat) (l : Landed) :
    (s.landPiece n rc x base len boff data poison l).1.done = l.done + min 128 (len - l.done) := by
  simp only [landPiece]
  split <;> rfl

/-- The count rises with the piece that shows that no arrival comes any more, where the last one met the barrier armed. -/
theorem State.landNext_eq (s : State) (n rc x base len boff : Nat) (data : List (BitVec 8)) (poison : List Nat) (l : Landed) :
    s.landNext n rc x base len boff data poison l =
      let piece := s.landPiece n rc x base len boff data poison l
      (piece.1, if Landed.over l base len = false ∧ Landed.over piece.1 base len = true ∧ piece.1.armed = some true
        then piece.2.countLanding x rc boff else piece.2) := by
  simp only [landNext, Bool.and_eq_true, Bool.not_eq_true', decide_eq_true_eq, and_assoc]
  split <;> rfl

/-- A multicast reads its source once. -/
theorem State.withSource_eq (s : State) (n : Nat) (e : EngineOp) (base len : Nat) :
    s.withSource n e base len =
      ({ e with data := if e.data = [] then (s.core n).st.xstore.read base len else e.data
                poison := if e.data = [] then badOffsets (s.core n).st.xpoison base len else e.poison },
        if e.data = [] then s.mend n .xstore (sectorsOf base len) else s) := by
  simp only [withSource]
  by_cases h : e.data = [] <;> simp [h]

theorem State.pieceDue_iff {s : State} {n len mask q : Nat} {at_ : BitVec 64} {l : Landed} :
    s.pieceDue n len mask at_ q l = true ↔
      (q < 4 ∧ mask / 2 ^ q % 2 = 1 ∧ l.done < len ∧ at_.toNat ≤ s.cyc n) ∧ l.last ≠ some (s.cyc n) := by
  cases h : l.last <;> simp [pieceDue, h]

/-- What a multicast is when piece r of its landing in the receiver q has landed. -/
def afterPiece (e : EngineOp) (base len mask boff : Nat) (at_ : BitVec 64) (landed : Tab Landed) (q : Nat) (r : Landed) :
    EngineOp :=
  { e with
    kind := .multicast base len mask boff at_ (landed.put q r)
    status := (worse (e.status, 0) (if r.refused ≠ [] then 4 else if e.poison ≠ [] then 3 else 0, 0)).1 }

/-- Every receiver of a mask has all the bytes. -/
def landedWhole (len mask : Nat) (landed : Tab Landed) : Prop :=
  ∀ k < 4, mask / 2 ^ k % 2 = 0 ∨ len ≤ (landed.get noLanding k).done

section multicast
variable {q rc base len mask boff : Nat} {at_ : BitVec 64} {landed : Tab Landed} {m m1 : State}
  {e1 : EngineOp} {r : Landed × State}

/-- The state with a piece of a multicast landed: an arrival at an armed barrier joins what happened before the multicast. -/
def joinPiece (rc boff : Nat) (e : EngineOp) (r : Landed × State) : State :=
  if r.1.armed = some true then r.2.noteJoin rc boff e.knows else r.2

/-- A piece that is due lands; with the last piece of all the multicast ends. -/
theorem exec_multicastPieceLanding (core : n / 4 * 4 + q = rc) (state : (s.landDue n).landDue rc = m)
    (op : m.engine n id = some e) (kind : e.kind = .multicast base len mask boff at_ landed)
    (due : m.pieceDue n len mask at_ q (landed.get noLanding q) = true)
    (source : m.withSource n e base len = (e1, m1))
    (piece : m1.landNext n rc e1.ctx base len boff e1.data e1.poison (landed.get noLanding q) = r) :
    let e' := afterPiece e1 base len mask boff at_ landed q r.1
    (landedWhole len mask (landed.put q r.1) → exec (.multicastPieceLanding n id q) s =
      .next (((joinPiece rc boff e1 r).chargeMove e1.ctx len []).finish n e' e'.status 0))
    ∧ (¬ landedWhole len mask (landed.put q r.1) →
      exec (.multicastPieceLanding n id q) s = .next ((joinPiece rc boff e1 r).setEngine n e')) := by
  obtain ⟨⟨hq, -⟩, -⟩ := pieceDue_iff.mp due
  have last : ((List.range 4).all fun k =>
      decide (mask / 2 ^ k % 2 = 0 ∨ len ≤ ((landed.put q r.1).get noLanding k).done)) = true
      ↔ landedWhole len mask (landed.put q r.1) := by simp [landedWhole]
  change (_ → execMulticastPieceLanding n id q s = _) ∧ (_ → execMulticastPieceLanding n id q s = _)
  unfold execMulticastPieceLanding
  rw [Nat.mod_eq_of_lt hq, core]
  simp only [state, op, kind, due, Bool.not_true, Bool.false_eq_true, if_false]
  rw [source]
  dsimp only
  rw [piece]
  have status : (if r.1.refused.isEmpty = true then if e1.poison.isEmpty = true then 0 else 3 else 4)
      = if r.1.refused ≠ [] then 4 else if e1.poison ≠ [] then 3 else 0 := by
    simp only [List.isEmpty_iff, ne_eq, ite_not]
  rw [status]
  exact ⟨fun whole => congrArg _ (if_pos (last.mpr whole)), fun partly => congrArg _ (if_neg fun all => partly (last.mp all))⟩

end multicast
end

/-! ### The parts of a collective in the order of their arrival (21 R373) -/

namespace State

/-- The order of the parts: by arrival, and by package where two arrive at once. -/
def Part.before (p q : Part) : Prop := p.arrival < q.arrival ∨ (p.arrival = q.arrival ∧ p.pkg < q.pkg)

theorem Part.before_trans {p q r : Part} (h : p.before q) (k : q.before r) : p.before r := by
  unfold before at *; omega

theorem Part.not_before_of_before {p q : Part} (h : p.before q) : ¬ q.before p := by
  unfold before at *; omega

theorem Part.before_of_not_before {p q : Part} (h : ¬ p.before q) (apart : p.pkg ≠ q.pkg) : q.before p := by
  unfold before at *; omega

theorem insertPart_perm (p : Part) (l : List Part) : (insertPart p l).Perm (p :: l) := by
  induction l with
  | nil => exact .rfl
  | cons q t ih =>
    rw [insertPart]
    split
    · exact .rfl
    · exact (ih.cons q).trans (.swap p q t)

theorem insertPart_pairwise {p : Part} {l : List Part} (ordered : l.Pairwise Part.before)
    (new : ∀ q ∈ l, p.pkg ≠ q.pkg) : (insertPart p l).Pairwise Part.before := by
  induction l with
  | nil => exact List.pairwise_singleton _ _
  | cons q t ih =>
    obtain ⟨first, rest⟩ := List.pairwise_cons.mp ordered
    rw [insertPart]
    split
    case isTrue here =>
      exact List.pairwise_cons.mpr ⟨List.forall_mem_cons.mpr ⟨here, fun r hr => Part.before_trans here (first r hr)⟩, ordered⟩
    case isFalse later =>
      have hq : q.before p := Part.before_of_not_before later (new q (List.mem_cons_self ..))
      refine List.pairwise_cons.mpr ⟨fun r hr => ?_, ih rest fun r hr => new r (List.mem_cons_of_mem q hr)⟩
      obtain rfl | hr := List.mem_cons.mp ((insertPart_perm p t).mem_iff.mp hr)
      · exact hq
      · exact first r hr

/-- The parts that have come, sorted into those that are there. -/
def sortParts (there : List Part) (ps : List Part) : List Part := ps.foldl (fun acc p => insertPart p acc) there

theorem sortParts_perm (there ps : List Part) : (sortParts there ps).Perm (there ++ ps) := by
  induction ps generalizing there with
  | nil => rw [List.append_nil]; exact .rfl
  | cons p ps ih =>
    exact (ih (insertPart p there)).trans (((insertPart_perm p there).append_right ps).trans List.perm_middle.symm)

theorem sortParts_pairwise {there ps : List Part} (ordered : there.Pairwise Part.before)
    (distinct : ((there ++ ps).map (·.pkg)).Nodup) : (sortParts there ps).Pairwise Part.before := by
  induction ps generalizing there with
  | nil => exact ordered
  | cons p ps ih =>
    have perm : (there ++ p :: ps).Perm (insertPart p there ++ ps) :=
      List.perm_middle.trans ((insertPart_perm p there).append_right ps).symm
    refine ih (insertPart_pairwise ordered fun q hq e => ?_) ((perm.map _).nodup_iff.mp distinct)
    rw [List.map_append, List.nodup_append] at distinct
    obtain ⟨-, -, apart⟩ := distinct
    exact apart _ (List.mem_map_of_mem hq) _ (List.mem_map_of_mem (List.mem_cons_self ..)) e.symm

/-- One list alone has the parts in their order. -/
theorem sortParts_eq {there ps parts : List Part} (ordered : there.Pairwise Part.before)
    (distinct : ((there ++ ps).map (·.pkg)).Nodup) (perm : parts.Perm (there ++ ps))
    (sorted : parts.Pairwise Part.before) : sortParts there ps = parts :=
  ((sortParts_perm there ps).trans perm.symm).eq_of_pairwise
    (fun _ _ _ _ h k => absurd k (Part.not_before_of_before h)) (sortParts_pairwise ordered distinct) sorted

end State

/-! ### The peers of a collective (21 R373) -/

/-- The other packages of a group. -/
def otherPackages (own group : Nat) : List Nat := (List.range 64).filter fun g => decide (g ≠ own ∧ group / 2 ^ g % 2 = 1)

/-- The parts of the peers of a group, by package. -/
def peersOf (own group : Nat) (peers : List PeerPart) : List PeerPart :=
  (otherPackages own group).filterMap fun g => peers.find? fun q => decide (q.pkg = g)

section
variable {own group : Nat} {peers : List PeerPart}

theorem mem_otherPackages {g : Nat} : g ∈ otherPackages own group ↔ g < 64 ∧ g ≠ own ∧ group / 2 ^ g % 2 = 1 := by
  simp [otherPackages]

theorem find?_pkg_eq_some {g : Nat} {q : PeerPart} (h : peers.find? (fun q => decide (q.pkg = g)) = some q) :
    q ∈ peers ∧ q.pkg = g := ⟨List.mem_of_find?_eq_some h, by simpa using List.find?_some h⟩

theorem find?_pkg_of_mem (distinct : (peers.map (·.pkg)).Nodup) {q : PeerPart} (hq : q ∈ peers) :
    peers.find? (fun r => decide (r.pkg = q.pkg)) = some q := by
  induction peers with
  | nil => exact absurd hq List.not_mem_nil
  | cons r rs ih =>
    obtain ⟨new, rest⟩ := List.nodup_cons.mp distinct
    obtain rfl | later := List.mem_cons.mp hq
    · exact List.find?_cons_of_pos (decide_eq_true rfl)
    · have apart : r.pkg ≠ q.pkg := fun same => new (List.mem_map.mpr ⟨q, later, same.symm⟩)
      rw [List.find?_cons_of_neg (by simpa only [decide_eq_true_eq] using apart)]
      exact ih rest later

variable (distinct : (peers.map (·.pkg)).Nodup)
  (all : ∀ g, g ∈ peers.map (·.pkg) ↔ g < 64 ∧ g ≠ own ∧ group / 2 ^ g % 2 = 1)
include distinct all

theorem peersOf_perm : (peersOf own group peers).Perm peers := by
  have peersApart : peers.Nodup := List.Pairwise.of_map _ (fun _ _ apart same => apart (congrArg _ same)) distinct
  have foundApart : (peersOf own group peers).Nodup := by
    refine List.Pairwise.filterMap _ (fun g g' apart q hg q' hg' same => apart ?_) (List.nodup_range.filter _)
    rw [← (find?_pkg_eq_some hg).2, same, (find?_pkg_eq_some hg').2]
  refine (List.perm_ext_iff_of_nodup foundApart peersApart).mpr fun q => ?_
  refine List.mem_filterMap.trans ⟨fun ⟨g, _, hg⟩ => (find?_pkg_eq_some hg).1,
    fun hq => ⟨q.pkg, ?_, find?_pkg_of_mem distinct hq⟩⟩
  exact mem_otherPackages.mpr ((all _).mp (List.mem_map_of_mem hq))

omit distinct in
theorem others_all_come : ((otherPackages own group).all fun g => peers.any fun q => decide (q.pkg = g)) = true := by
  refine List.all_eq_true.mpr fun g hg => List.any_eq_true.mpr ?_
  obtain ⟨q, hq, rfl⟩ := List.mem_map.mp ((all g).mpr (mem_otherPackages.mp hg))
  exact ⟨q, hq, decide_eq_true rfl⟩

end

/-! ### What a collective lands (21 R373) -/

section
variable {c : CollDesc} {parts : List Part}

theorem collResult_meet (h : c.op = 0) (parts : List Part) : collResult c parts = [] := by simp only [collResult, h]

theorem collResult_gather (h : c.op = 4) (parts : List Part) : collResult c parts = parts.map fun p =>
    (c.dst + p.pkg * c.count, (p.data ++ List.replicate (c.count - p.data.length) 0).take c.count) := by
  simp only [collResult, h]

/-- A root has one part at most, so the first part of the root's package is the only one. -/
theorem collResult_broadcast (h : c.op = 5) (distinct : (parts.map (·.pkg)).Nodup) :
    collResult c parts = (parts.filter (·.pkg = c.root)).map fun p => (c.dst, p.data.take c.count) := by
  simp only [collResult, h]
  induction parts with
  | nil => rfl
  | cons p ps ih =>
    obtain ⟨new, rest⟩ := List.nodup_cons.mp distinct
    by_cases root : p.pkg = c.root
    · have others : ps.filter (·.pkg = c.root) = [] :=
        List.filter_eq_nil_iff.mpr fun q hq e => new (List.mem_map.mpr ⟨q, hq, (of_decide_eq_true e).trans root.symm⟩)
      simp [root, others]
    · simpa [root] using ih rest

/-- The sums and the maxima take the words of the parts one after another. -/
theorem collResult_combine (hmeet : c.op ≠ 0) (hgather : c.op ≠ 4) (hroot : c.op ≠ 5) (nonempty : parts ≠ []) :
    collResult c parts = [(c.dst, (List.range c.count).flatMap fun i => bytesLE 4
      ((parts.map (partWord · i)).tail.foldl (combineWord c.op) ((parts.map (partWord · i)).headD 0)))] := by
  obtain ⟨p, ps, rfl⟩ := List.exists_cons_of_ne_nil nonempty
  simp only [collResult, List.map_cons, List.tail_cons, List.headD_cons, List.foldl_map]

theorem combineWord_eq (op a b : Nat) : combineWord op a b =
    if op = 1 then fmtF32.roundRn (exactAdd .rn (fmtF32.value a) (fmtF32.value b)).1
    else if op = 2 then floatPick fmtF32 true a b else (a + b) % 2 ^ 32 := by
  unfold combineWord
  split
  case h_1 => rfl
  case h_2 => rfl
  case h_3 no1 no2 => rw [if_neg no1, if_neg no2]

theorem CollDesc.ranges_eq (c : CollDesc) : CollDesc.ranges c =
    if c.op = 0 then [] else if c.op = 4
      then ((List.range 64).filter fun g => c.group / 2 ^ g % 2 = 1).map fun g => (c.dst + g * c.count, c.count)
      else if c.op = 5 then [(c.dst, c.count)] else [(c.dst, 4 * c.count)] := by
  unfold CollDesc.ranges
  split
  case h_1 h => rw [if_pos h]
  case h_2 h => rw [if_neg (by omega), if_pos h]
  case h_3 h => rw [if_neg (by omega), if_neg (by omega), if_pos h]
  case h_4 no0 no4 no5 => rw [if_neg no0, if_neg no4, if_neg no5]

end

/-- The part of the issuing package. -/
def ownPart (own : Nat) (e : EngineOp) : Part := ⟨own, e.issued, e.data.drop 64⟩

def partOfPeer (q : PeerPart) : Part := ⟨q.pkg, q.arrival, q.data⟩

/-- By how much the last part came after the issue. -/
def skewOf (e : EngineOp) (parts : List Part) : Nat := ((parts.map (·.arrival)).foldl max 0 - e.issued) / 1000

section
variable {own group : Nat} {peers : List PeerPart} {e : EngineOp} {parts : List Part}
  (distinct : (peers.map (·.pkg)).Nodup)
  (all : ∀ g, g ∈ peers.map (·.pkg) ↔ g < 64 ∧ g ≠ own ∧ group / 2 ^ g % 2 = 1)
  (perm : parts.Perm (ownPart own e :: peers.map partOfPeer))
include distinct all perm

omit perm in
theorem nodup_ownPart_cons : ((ownPart own e :: peers.map partOfPeer).map (·.pkg)).Nodup := by
  rw [List.map_cons, List.map_map]
  exact List.nodup_cons.mpr ⟨fun mem => ((all own).mp mem).2.1 rfl, distinct⟩

/-- The parts of a group have one order. -/
theorem sortParts_peers (sorted : parts.Pairwise Part.before) :
    sortParts [ownPart own e] ((peersOf own group peers).map partOfPeer) = parts := by
  have perm' : ([ownPart own e] ++ (peersOf own group peers).map partOfPeer).Perm (ownPart own e :: peers.map partOfPeer) :=
    ((peersOf_perm distinct all).map _).cons _
  exact sortParts_eq (List.pairwise_singleton _ _) ((perm'.map _).nodup_iff.mpr (nodup_ownPart_cons distinct all))
    (perm.trans perm'.symm) sorted

theorem nodup_parts : (parts.map (·.pkg)).Nodup := (perm.map _).nodup_iff.mpr (nodup_ownPart_cons distinct all)

omit distinct all in
theorem parts_ne_nil : parts ≠ [] := fun h => List.cons_ne_nil _ _ (h ▸ perm).nil_eq.symm

end

theorem collPieces_eq {own va : Nat} {e : EngineOp} {ps parts : List Part} (sorted : sortParts [ownPart own e] ps = parts) :
    collPieces own e va ps = (skewOf e parts, ((collResult (collDesc e.data) parts).map fun w =>
      (w.1, w.2, collPoison (collDesc e.data) own e.poison w.1)) ++ [(va + 40, bytesLE 8 (skewOf e parts), [])]) := by
  subst sorted
  simp only [collPieces, skewOf, List.foldl_map]
  rfl

/-! ### The ends of collectives (21 R373, R374) -/

/-- The lookups of a collective's descriptor and destinations wait at no shoot-down. -/
def State.collClear (s : State) (n : Nat) (e : EngineOp) (va : Nat) : Prop :=
  ∀ r ∈ (va, 64) :: CollDesc.ranges (collDesc e.data), s.opShot n e r.1 r.2 = false

theorem State.any_opShot_of_collClear {s : State} {n va : Nat} {e : EngineOp} (h : s.collClear n e va) :
    (((va, 64) :: CollDesc.ranges (collDesc e.data)).any fun r => s.opShot n e r.1 r.2) = false :=
  List.any_eq_false.mpr fun r hr => Bool.eq_false_iff.mp (h r hr)

/-- A peer's part that is cancelled or belongs to another operation. -/
def PeerPart.spoils (q : PeerPart) (c : CollDesc) : Prop :=
  q.cancelled = true ∨ q.op ≠ c.op ∨ q.count ≠ c.count ∨ q.group ≠ c.group

theorem any_spoils_iff {c : CollDesc} {qs : List PeerPart} :
    (qs.any fun q => q.cancelled || decide (q.op ≠ c.op ∨ q.count ≠ c.count ∨ q.group ≠ c.group)) = true
      ↔ ∃ q ∈ qs, PeerPart.spoils q c := by simp [PeerPart.spoils]

theorem State.landColl_landed {s u : State} {n : Nat} {e : EngineOp} {r : Nat × List (Nat × List (BitVec 8) × List Nat)}
    (c : CollDesc) (moved : movePieces n e ((List.range r.2.length).zip r.2) s = .landed u) :
    s.landColl n e c r = ((u.chargeMove e.ctx (e.data.length - 64 + ((CollDesc.ranges c).map (·.2)).foldl (· + ·) 0)
      ((c.src, e.data.length - 64) :: CollDesc.ranges c)).finish n e (if e.poison = [] then 0 else 3) 0).reportSkew e.ctx c.key
        r.1 := by
  simp only [landColl, moved, List.isEmpty_iff]

section
variable {s s1 : State} {n id va own : Nat} {e : EngineOp} {peers : List PeerPart}
  (op : (s.landDue n).engine n id = some e) (kind : e.kind = .coll va) (sound : e.status ≠ 1)
include op kind sound

/-- The second event of a collective that lands in a local store. -/
theorem exec_collComplete_result {r : Nat × List (Nat × List (BitVec 8) × List Nat)} (result : e.result = some r)
    (clear : (s.landDue n).collClear n e va) :
    exec (.collComplete n id peers) s = .next ((s.landDue n).landColl n e (collDesc e.data) r) := by
  change execCollComplete n id peers s = _
  simp only [execCollComplete, op, kind, if_neg sound, result, any_opShot_of_collClear clear, Bool.false_eq_true, if_false]

variable (first : e.result = none) (package : (s.landDue n).pkg.number = own)
  (come : ((otherPackages own (collDesc e.data).group).all fun g => peers.any fun q => decide (q.pkg = g)) = true)
  (served : (s.landDue n).engineTurn n id ((s.landDue n).engineLines e) = (true, s1)) (clear : s1.collClear n e va)
include first package come served clear

theorem exec_collComplete_spoilt
    (spoilt : ∃ q ∈ peersOf own (collDesc e.data).group peers, PeerPart.spoils q (collDesc e.data)) :
    exec (.collComplete n id peers) s = .next ((s1.spoilColl n e (collDesc e.data)).finish n e 1 (BitVec.ofNat 64 va)) := by
  subst package
  change execCollComplete n id peers s = _
  unfold otherPackages at come
  have spoilt' := any_spoils_iff.mpr spoilt
  unfold peersOf otherPackages at spoilt'
  simp only [execCollComplete, op, kind, if_neg sound, first, come, served, any_opShot_of_collClear clear, spoilt',
    Bool.not_true, Bool.false_eq_true, if_false, if_true]

/-- A result for a local store is kept for the second event; any other lands at once. -/
theorem exec_collComplete_whole
    (whole : ∀ q ∈ peersOf own (collDesc e.data).group peers, ¬ PeerPart.spoils q (collDesc e.data))
    {r : Nat × List (Nat × List (BitVec 8) × List Nat)}
    (result : collPieces own e va ((peersOf own (collDesc e.data).group peers).map partOfPeer) = r) :
    exec (.collComplete n id peers) s = .next (if landsLocal n r.2 = true then
      s1.setEngine n { e with result := some r, sectors := [] } else s1.landColl n e (collDesc e.data) r) := by
  subst package result
  change execCollComplete n id peers s = _
  unfold otherPackages at come
  have good : ¬ _ := mt any_spoils_iff.mp fun ⟨q, hq, h⟩ => whole q hq h
  unfold peersOf otherPackages at good
  simp only [execCollComplete, op, kind, if_neg sound, first, come, served, any_opShot_of_collClear clear, good,
    Bool.not_true, Bool.false_eq_true, if_false]
  rfl

end

/-- Settles O50: each event by its equation; the parts of a collective are sorted into the one order of their arrival. -/
theorem engineEvents : Obligations.EngineEvents := by
  intro s s1 n id q h t e ts s0
  refine ⟨fun op => ⟨?copy, ?chain, exec_cancelAcknowledge op, ?block, ?coll⟩, fun op addr k kind sound served =>
    exec_deckLoadComplete op kind sound served, ?row, ?piece⟩
  case copy =>
    exact fun dst src len u kind clear sound served moved => exec_copyComplete op kind clear sound served moved
  case chain =>
    refine fun p r view s2 kind read hp hsrc hdst => ⟨exec_chainRecord_skipped op kind read ⟨hp, hsrc, hdst⟩, ?_⟩
    exact fun data bad e1 s3 s4 u own source served moved =>
      exec_chainRecord_moved op kind read ⟨hp, hsrc, hdst⟩ own source served moved
  case block =>
    exact fun base lines pages s2 s3 kind clear mapped room apart served good =>
      exec_loadBlockFill op kind clear mapped rfl room apart served good
  case coll =>
    intro va peers parts kind sound c own dests word comb writes skew pieces landed lands clear
    have ranges : CollDesc.ranges c = dests := CollDesc.ranges_eq c
    have clears {v : State} (hv : clear v) : v.collClear n e va := by rw [collClear, ranges]; exact hv
    have land (v : State) (r : Nat × List (Nat × List (BitVec 8) × List Nat)) (u : State)
        (moved : movePieces n e ((List.range r.2.length).zip r.2) v = .landed u) : v.landColl n e c r = landed r u := by
      rw [landColl_landed c moved, ranges]
    refine ⟨fun r result hc u moved => ?second, fun first distinct all perm sorted served hc => ?first⟩
    case second =>
      exact (exec_collComplete_result op kind sound result (clears hc)).trans (congrArg _ (land s0 r u moved))
    case first =>
      have peersPerm := peersOf_perm distinct all
      have come := others_all_come all
      have order := sortParts_peers distinct all perm sorted
      have written : collResult c parts = writes := by
        by_cases meet : c.op = 0
        · exact (collResult_meet meet parts).trans (if_pos meet).symm
        by_cases gather : c.op = 4
        · exact (collResult_gather gather parts).trans ((if_neg meet).trans (if_pos gather)).symm
        by_cases root : c.op = 5
        · exact (collResult_broadcast root (nodup_parts distinct all perm)).trans
            ((if_neg meet).trans ((if_neg gather).trans (if_pos root))).symm
        · have step : combineWord c.op = comb := funext fun a => funext (combineWord_eq c.op a)
          rw [collResult_combine meet gather root (parts_ne_nil perm), step]
          exact ((if_neg meet).trans ((if_neg gather).trans (if_neg root))).symm
      have result : collPieces own e va ((peersOf own c.group peers).map partOfPeer) = (skew, pieces) := by
        rw [collPieces_eq order, written]
        rfl
      refine ⟨fun ⟨p, hp, bad⟩ => ?spoilt, fun whole => ?whole⟩
      case spoilt =>
        refine (exec_collComplete_spoilt op kind sound first rfl come served (clears hc)
          ⟨p, peersPerm.mem_iff.mpr hp, bad⟩).trans ?_
        rw [spoilColl, ranges]
      case whole =>
        have done := exec_collComplete_whole op kind sound first rfl come served (clears hc)
          (fun p hp => whole p (peersPerm.mem_iff.mp hp)) result
        refine ⟨fun loc => done.trans (congrArg _ (if_pos loc)), fun glob u moved => done.trans (congrArg _ ?_)⟩
        rw [if_neg (Bool.eq_false_iff.mp glob)]
        exact land s1 _ u moved
  case row =>
    exact fun opened asked served => exec_heddleRowArrival rfl rfl opened asked served
  case piece =>
    intro rc m base len mask boff at_ landed op kind hq l named left time free
    have due := pieceDue_iff.mpr ⟨⟨hq, named, left, time⟩, free⟩
    obtain ⟨whole, partly⟩ := exec_multicastPieceLanding rfl rfl op kind due (withSource_eq ..) (landNext_eq ..)
    exact ⟨landPiece_done .., whole, partly⟩

end Sys2Proof.Machine

/-! SUPPORT. What a gang takes from its operand latch (09 R226, R228, 14 R286, R293), and the refutation of O40. -/

namespace Sys2Proof.Machine

open State

/-! ### gang (09 R226, 14 R293) -/

theorem least_map_none {α : Type} {f : α → Option Nat} {l : List α} (h : ∀ a ∈ l, f a = none) : least (l.map f) = none := by
  rw [List.map_congr_left h]
  unfold least
  induction l with
  | nil => rfl
  | cons a l ih => exact ih fun b hb => h b (List.mem_cons_of_mem a hb)

/-- A gang whose checks pass starts the issuer's deck on each of its cores, with the barrier offset of the slot's own ctl.mcfg:
its operand latch's, where it has one. -/
theorem exec_gang {s : State} {a m st : BitVec 6} {n addr mask : Nat} {cores : List Nat} (core : s.cur.core = n)
    (record : (s.readS a).toNat = addr) (members : (s.readS m).toNat % 16 = mask) (named : quadCores n mask = cores)
    (several : 2 ≤ cores.length) (issuer : n ∈ cores)
    (idle : ∀ k ∈ cores, (gangMember s k).isSome ∧ seqBusy s k = false ∧ firstPoison (s.core k).st.xpoison addr 32 = none)
    (aligned : addr % 32 = 0) (inside : addr + 32 ≤ xstoreSize) (usable : (s.core n).seq.usable = true)
    (start : st.toNat < (s.core n).seq.cards.length) :
    exec (.gang a m st) s = .next (cores.foldl (fun (u : State) k => startDeck u k ((gangMember s k).getD s.cur.ctx) addr
      st.toNat mask n (16 * bits (s.readC 0x022) 31 16) (s.core n).seq.cards) s) := by
  have joins : ¬ (decide (cores.length < 2) || !cores.contains n || cores.any fun k => (gangMember s k).isNone) = true := by
    simp only [Nat.not_lt.mpr several, List.contains_iff_mem.mpr issuer, decide_false, Bool.not_true, Bool.false_or,
      List.any_eq_true, Option.isNone_iff_eq_none, not_exists, not_and]
    exact fun k hk lacks => by simpa [lacks] using (idle k hk).1
  have free : ¬ (cores.any (seqBusy s)) = true := by
    simp only [List.any_eq_true, not_exists, not_and, Bool.not_eq_true]
    exact fun k hk => (idle k hk).2.1
  have good : least (cores.map fun k => poisonedAt (s.core k).st.xpoison addr 32) = none :=
    least_map_none fun k hk => by rw [poisonedAt, (idle k hk).2.2]; rfl
  have deck : ¬ (!(s.core n).seq.usable || decide ((s.core n).seq.cards.length ≤ st.toNat)) = true := by
    simp [usable, start]
  change execGang a m st s = _
  subst core members named record
  simp only [execGang, recordChecks, deckCheck, if_neg joins, if_neg free, if_neg deck, good, aligned, ne_eq, not_true_eq_false,
    if_false, if_neg (Nat.not_lt.mpr inside)]

/-- A gang over cores 0 and 1 that a trap stopped, as it is issued again: its operands are those of the operand latch, with a
mask of 3 and a barrier field of 1 in ctl.mcfg, and the register itself has changed since the stop. -/
def reissuedGang : State :=
  let deck : Sequencer := { resetSequencer with cards := [0], usable := true }
  let member (c : Ctx) : Ctx := { c with iss := { c.iss with phase := .running }, task := some ⟨0, 0, 0, 0, false, 0⟩ }
  let s := ((reset.modCore 0 fun c => { c with seq := deck }).modCtx 0 member).modCtx 8 member
  { s with cur := { s.cur with latch := [(sReg 1, 3), (ctlReg 0x022, 0x10000)] } }

/-- The barrier offset with which a deck started on core 0. -/
def startedBarrier : Out → Option Nat
  | .next s => some (s.core 0).seq.boff
  | _ => none

/-- Refutes O40: a gang that is issued again after a trap takes the barrier field from its operand latch (14 R286, R293, 09 R228),
not from ctl.mcfg as it stands now. -/
theorem not_decks : ¬ Obligations.Decks := by
  intro decks
  obtain ⟨-, -, starts⟩ := decks reissuedGang reissuedGang 0 0 0 1 0 [] []
  have mask : (reissuedGang.readS 1).toNat % 16 = 3 := by decide +kernel
  have members : ∀ k ∈ quadCores 0 3, (gangMember reissuedGang k).isSome ∧ seqBusy reissuedGang k = false
      ∧ firstPoison (reissuedGang.core k).st.xpoison 0 32 = none := by decide +kernel
  have checked : firstPoison (reissuedGang.core 0).st.xpoison 0 32 = none ∧ (reissuedGang.core 0).seq.usable = true
      ∧ 0 < (reissuedGang.core 0).seq.cards.length := by decide +kernel
  obtain ⟨sound, usable, start⟩ := checked
  obtain ⟨-, gang⟩ := starts rfl (by decide) sound usable start
  rw [show reissuedGang.cur.core = 0 from rfl, mask] at gang
  have claimed := gang (by decide) (by decide) members
  have actual := exec_gang (s := reissuedGang) (a := 0) (m := 1) (st := 0) rfl rfl mask rfl (by decide) (by decide) members rfl
    (by decide) usable start
  have barrier := congrArg startedBarrier (actual.symm.trans claimed)
  exact absurd barrier (by decide +kernel)

end Sys2Proof.Machine

/-! SUPPORT. What a copymc takes from its operand latch (10 R249, R250, 14 R286, R293), and the refutation of O38. -/

namespace Sys2Proof.Machine

open State

/-! ### copymc (10 R250, 14 R293) -/

/-- A copymc whose checks pass forks its multicast with the mask and barrier offset of the slot's own ctl.mcfg: its operand
latch's, where it has one. -/
theorem exec_copymc {s : State} {a n q t : BitVec 6} {base len mask boff : Nat} (source : (s.readS a).toNat = base)
    (bytes : (s.readS n).toNat % 2 ^ 32 = len) (receivers : bits (s.readC 0x022) 3 0 = mask)
    (barrier : 16 * bits (s.readC 0x022) 31 16 = boff) (aligned : base % 32 = 0 ∧ len % 32 = 0)
    (inside : base + len ≤ xstoreSize) (placed : boff ≤ 0x5FFF0) (nonempty : 0 < len) (named : mask ≠ 0)
    (free : s.mustWait s.cur.ctx t.toNat true = false) :
    exec (.copymc a n q t) s =
      .next (s.fork s.cur.ctx t.toNat (.multicast base len mask boff (s.readS q) []) [] [] 0 0 false) := by
  have sectors : ¬ (base % 32 ≠ 0 ∨ len % 32 ≠ 0) := fun h => h.elim (absurd aligned.1) (absurd aligned.2)
  have something : ¬ (len = 0 ∨ mask = 0) := fun h => h.elim (Nat.ne_of_gt nonempty) named
  change execCopymc a n q t s = _
  subst source bytes receivers barrier
  simp only [execCopymc, if_neg sectors, if_neg (Nat.not_lt.mpr inside), if_neg (Nat.not_lt.mpr placed), if_neg something,
    free, Bool.false_eq_true, if_false]

/-- A copymc of 32 bytes that a trap stopped, as it is issued again: its operand latch keeps a ctl.mcfg with mask 2, and the
register has been given mask 1 since the stop. -/
def reissuedCopymc : State :=
  let s := reset.setCtl 0 0x022 1
  { s with cur := { s.cur with latch := [(sReg 1, 32), (ctlReg 0x022, 2)] } }

/-- The mask of the multicast forked last on core 0. -/
def forkedMask : Out → Option Nat
  | .next s => (s.core 0).engines.getLast?.bind fun e => match e.kind with
    | .multicast _ _ mask _ _ _ => some mask
    | _ => none
  | _ => none

/-- Refutes O38: a copymc that is issued again after a trap takes the mask from its operand latch (14 R286, R293, 10 R250), not
from ctl.mcfg as it stands now. -/
theorem not_forks : ¬ Obligations.Forks := by
  intro forks
  obtain ⟨-, multicasts, -⟩ := forks reissuedCopymc reissuedCopymc reissuedCopymc 0 0 1 0 0 [] []
  have source : (reissuedCopymc.readS 0).toNat = 0 := rfl
  have bytes : (reissuedCopymc.readS 1).toNat % 2 ^ 32 = 32 := by decide +kernel
  have latched : reissuedCopymc.readC 0x022 = 2 := by decide +kernel
  have register : (reissuedCopymc.ctl reissuedCopymc.cur.ctx 0x022).toNat = 1 := by decide +kernel
  have free : reissuedCopymc.mustWait reissuedCopymc.cur.ctx 0 true = false := by decide +kernel
  rw [source, bytes, register] at multicasts
  have claimed := multicasts rfl rfl (by decide) (by decide) (by decide) (by decide) free
  have actual := exec_copymc (a := 0) (n := 1) (q := 0) (t := 0) (mask := 2) (boff := 0) source bytes
    (by rw [latched]; rfl) (by rw [latched]; rfl) ⟨rfl, rfl⟩ (by decide) (by decide) (by decide) (by decide) free
  have receivers := congrArg forkedMask (actual.symm.trans claimed)
  exact absurd receivers (by decide +kernel)

end Sys2Proof.Machine

/-! SUPPORT. The canonical form of memory and its poison (12 R265, 08 R181, log entry 2): what a result keeps, and the
operations over the state. -/

namespace Sys2Proof.Machine

open State

section

variable {s : State}

theorem State.form_mk
    {pkg recs ctxs cores dies channels parts fronts masters versions blocks near l2 nearCache shoots cur agenda free}
    (h : s.Form) : (State.mk pkg recs ctxs cores dies channels parts fronts masters s.mem s.poison versions blocks near l2
      nearCache shoots cur agenda free).Form := h

/-- An outcome keeps the form where its next state, if it has one, is in form. -/
def Keeps (o : Out) : Prop := ∀ t, o = .next t → t.Form

theorem keeps_next {t : State} (h : t.Form) : Keeps (.next t) := fun _ e => by cases e; exact h

/-- The form of the state that a move leaves. -/
def Move.Form : Move → Prop
  | .landed s | .failed _ _ s | .gone s => s.Form
  | .waits => True

/-- The form of the state that an attempt at an issue leaves. -/
def Attempt.Form : Attempt → Prop
  | .moved s | .broke s | .issued s => s.Form
  | _ => True

/-- The form of the state that a packet's step leaves. -/
def Ran.Form : Ran → Prop
  | .halts _ s | .goes s | .done s => s.Form
  | .waits => True

theorem Move.form_ite {m k : Move} (c : Prop) [Decidable c] (h : m.Form) (hk : k.Form) : (if c then m else k).Form := by
  split
  · exact h
  · exact hk

theorem Move.Form.of_eq {m k : Move} (h : m.Form) (e : m = k) : k.Form := e ▸ h

theorem Attempt.form_ite {m k : Attempt} (c : Prop) [Decidable c] (h : m.Form) (hk : k.Form) : (if c then m else k).Form := by
  split
  · exact h
  · exact hk

theorem Attempt.Form.of_eq {m k : Attempt} (h : m.Form) (e : m = k) : k.Form := e ▸ h

theorem Ran.form_ite {m k : Ran} (c : Prop) [Decidable c] (h : m.Form) (hk : k.Form) : (if c then m else k).Form := by
  split
  · exact h
  · exact hk

theorem Ran.Form.of_eq {m k : Ran} (h : m.Form) (e : m = k) : k.Form := e ▸ h

theorem State.needGrant_form {rs : List Nat} {ok : State} (h : s.Form) (k : ok.Form) : (s.needGrant rs ok).Form := by
  obtain e | ⟨r, -, -, e⟩ := s.needGrant_cases rs ok <;> rw [e]
  · exact k
  · exact (trapHere_same ..).form h

/-- The form of a state that a fold carries along with other values. -/
theorem State.foldl_form {α β : Type} (view : β → State) (f : β → α → β) (hf : ∀ b a, (view b).Form → (view (f b a)).Form)
    (l : List α) (b : β) (h : (view b).Form) : (view (l.foldl f b)).Form := by
  induction l generalizing b with
  | nil => exact h
  | cons a l ih => exact ih _ (hf b a h)

/-! ### State, publication, translation, traps (00 R9, 02 R37, 12 R265, 14 R284 to R286, 22 R386) -/

theorem State.setCtx_form {x : Nat} {c : Ctx} (h : s.Form) : (s.setCtx x c).Form := form_mk h

theorem State.setCore_form {n : Nat} {c : Core} (h : s.Form) : (s.setCore n c).Form := form_mk h

theorem State.setDie_form {d : Nat} {v : Die} (h : s.Form) : (s.setDie d v).Form := form_mk h

theorem State.setPart_form {p : Nat} {v : Partition} (h : s.Form) : (s.setPart p v).Form := form_mk h

theorem State.setFront_form {f : Nat} {v : Front} (h : s.Form) : (s.setFront f v).Form := form_mk h

theorem State.setChannel_form {ch : Nat} {v : Channel} (h : s.Form) : (s.setChannel ch v).Form := form_mk h

theorem State.setMaster_form {m : Nat} {v : Master} (h : s.Form) : (s.setMaster m v).Form := form_mk h

theorem State.modCtx_form {x : Nat} {f : Ctx → Ctx} (h : s.Form) : (s.modCtx x f).Form := setCtx_form h

theorem State.modCore_form {n : Nat} {f : Core → Core} (h : s.Form) : (s.modCore n f).Form := setCore_form h

theorem State.modDie_form {d : Nat} {f : Die → Die} (h : s.Form) : (s.modDie d f).Form := setDie_form h

theorem State.modPart_form {p : Nat} {f : Partition → Partition} (h : s.Form) : (s.modPart p f).Form := setPart_form h

theorem State.modFront_form {f : Nat} {g : Front → Front} (h : s.Form) : (s.modFront f g).Form := setFront_form h

theorem State.modMaster_form {m : Nat} {g : Master → Master} (h : s.Form) : (s.modMaster m g).Form := setMaster_form h

theorem State.modStore_form {n : Nat} {f : CoreStore → CoreStore} (h : s.Form) : (s.modStore n f).Form :=
  modCore_form h

theorem State.modMem_form {x : Nat} {f : CtxMem → CtxMem} (h : s.Form) : (s.modMem x f).Form := modCtx_form h

theorem State.modCur_form {f : Issue → Issue} (h : s.Form) : (s.modCur f).Form := form_mk h

theorem State.fresh_form {a : Nat} {t : State} (h : s.Form) (e : s.fresh = (a, t)) : t.Form := by
  simp only [fresh] at e
  cases e
  exact form_mk h

theorem State.learnReads_form {x : Nat} {as_ : List Nat} (h : s.Form) : (s.learnReads x as_).Form :=
  (learn_same ..).form h

theorem State.serveLine_form {u id line : Nat} (h : s.Form) : (serveLine u id s line).Form :=
  form_ite _ h (setChannel_form h)

theorem State.keepWalks_form {u id : Nat} (h : s.Form) : (s.keepWalks u id).Form :=
  form_ite _ h (modCur_form (form_mk h))

theorem State.forgetWalks_form (h : s.Form) : s.forgetWalks.Form := form_ite _ h (modCur_form h)

theorem State.dropWalks_form {u id : Nat} (h : s.Form) : (s.dropWalks u id).Form := form_ite _ h (form_mk h)

theorem State.drainBacks_form {ch : Nat} (h : s.Form) : (s.drainBacks ch).Form :=
  form_foldl _ (fun _ _ hu => form_ite _ (serveLine_form hu) hu) _ _ h

theorem State.dropL2_form {line : Nat} (h : s.Form) : (s.dropL2 line).Form :=
  form_ite _ ((queueBack_same ..).form (form_mk h)) (form_mk h)

theorem State.rehash_form (h : s.Form) : s.rehash.Form :=
  form_foldl _ (fun _ _ hu => (queueBack_same ..).form hu) _ _ (form_mk (form_mk h))

theorem State.readHome_form {x : Nat} {as_ : List Nat} {acq : Option Nat} (h : s.Form) : (s.readHome x as_ acq).Form :=
  (learn_same ..).form h

theorem State.carryOn_form {rels : List Release} {scope n : Nat} (h : s.Form) : (s.carryOn rels scope n).Form := by
  unfold carryOn
  split
  · exact form_mk h
  · exact h

theorem State.homeUpdate_form {x scope : Nat} {cells : List (Nat × BitVec 8)} (h : s.Form) :
    (s.homeUpdate x scope cells).Form :=
  (learn_same ..).form
    (form_ite _ (repairPoison_form _ _ (publishCells_form _ _ _ _ _ (readHome_form ((retain_same ..).form h))))
    (carryOn_form (repairPoison_form _ _ (publishCells_form _ _ _ _ _ (readHome_form ((retain_same ..).form h))))))

theorem State.logWalk_form {p va : Nat} (h : s.Form) : (s.logWalk p va).Form := by
  unfold logWalk
  split
  · exact (log_same ..).form h
  · exact h

theorem State.walked_form {d p va : Nat} {wr : Bool} {l : Leaf} {a : Leaf} {t : State} (h : s.Form)
    (e : s.walked d p va wr l = (a, t)) : t.Form := by
  simp only [walked] at e
  cases e
  exact modDie_form (markLeaf_form _ _ _ ((readPath_same ..).form h))

theorem State.sampleRecord_form {p type x w2 w3 : Nat} (h : s.Form) : (s.sampleRecord p type x w2 w3).Form :=
  sample_form _ _ _ h

theorem State.pendFailed_form {x : Nat} {t : Trap} {o : MemOp} (h : s.Form) : (s.pendFailed x t o).Form :=
  (pend_same ..).form ((modTrap_same ..).form h)

theorem State.clearBehind_form {n x : Nat} (h : s.Form) : (s.clearBehind n x).Form := form_mk h

theorem State.trapReserved_form (h : s.Form) : s.trapReserved.Form := (trapHere_same ..).form h

theorem State.trapHeld_form (h : s.Form) : s.trapHeld.Form := (trapHere_same ..).form h

theorem State.block_form {cause : Nat} (h : s.Form) : (s.block cause).Form := (blockFor_same ..).form h

theorem State.blockTimed_form (h : s.Form) : s.blockTimed.Form := (blockFor_same ..).form h

theorem State.logFault_form {p code va : Nat} (h : s.Form) : (s.logFault p code va).Form :=
  form_ite _ (logWalk_form h) h

/-! ### Results of the slots (03 R56 to R62) -/

theorem State.writeElems_form {d w lat : Nat} {flags : BitVec 5} {vals : List (Nat × Nat)} (h : s.Form) :
    (s.writeElems d w lat flags vals).Form :=
  (schedule_same ..).form h

theorem State.writeV_form {d lat : Nat} {data : BitVec 8192} (h : s.Form) : (s.writeV d lat data).Form :=
  (schedule_same ..).form h

theorem State.writeK_form {d lat : Nat} {sel data : BitVec 1024} (h : s.Form) : (s.writeK d lat sel data).Form :=
  form_ite _ h ((schedule_same ..).form h)

/-! ### Vector slots (06) -/

theorem vecInt_form {t d a b k : Nat} {f : Nat → Nat → Nat → Nat} (h : s.Form) : (vecInt t d a b k f s).Form :=
  needGrant_form h (form_ite _ (trapReserved_form h) (writeElems_form h))

theorem vecInt1_form {t d a k : Nat} {f : Nat → Nat → Nat} (h : s.Form) : (vecInt1 t d a k f s).Form :=
  needGrant_form h (form_ite _ (trapReserved_form h) (writeElems_form h))

theorem vecShift_form {t d a b k : Nat} {u : BitVec 1} {f : Nat → Nat → Nat → Nat} (h : s.Form) :
    (vecShift t d a b k u f s).Form :=
  needGrant_form h (form_ite _ (trapReserved_form h) (writeElems_form h))

theorem vecFloat_form {t d k : Nat} {rs : List Nat} {f : Fmt → Rounding → Nat → Exact × BitVec 5} (h : s.Form) :
    (vecFloat t d k rs f s).Form := by
  unfold vecFloat
  extract_lets
  refine needGrant_form h ?_
  refine form_ite _ (trapReserved_form h) ?_
  split
  · exact trapReserved_form h
  · exact writeElems_form h

theorem vecPick_form {larger : Bool} {t d a b k : Nat} (h : s.Form) : (vecPick larger t d a b k s).Form :=
  needGrant_form h (form_ite _ (trapReserved_form h) (writeElems_form h))

theorem maskOp_form {d : BitVec 3} {v : BitVec 1024} (h : s.Form) : (maskOp d v s).Form := writeK_form h

/-! ### Slot F (07 R159 to R172) -/

theorem State.fillBobbin_form {n : Nat} (h : s.Form) : (s.fillBobbin n).Form := modCore_form h

theorem State.popBobbin_form {n : Nat} {a : BitVec 64} {t : State} (h : s.Form) (e : s.popBobbin n = (a, t)) : t.Form := by
  simp only [popBobbin] at e
  split at e
  · cases e
    exact modCore_form (fillBobbin_form h)
  · split at e
    · cases e
      exact block_form (fillBobbin_form h)
    · cases e
      exact modCore_form (fillBobbin_form h)

theorem roundWord_form {code : Nat} {a : BitVec 64} {t : State} (h : s.Form) (e : roundWord s code = (a, t)) : t.Form := by
  simp only [roundWord] at e
  split at e
  · exact popBobbin_form h e
  · cases e
    exact h

theorem specElems_form {d a k r : BitVec 6} {win wout ratio : Nat} {f : Rounding → Nat → Nat × BitVec 5} (h : s.Form) :
    (specElems d a k r win wout ratio f s).Form := by
  unfold specElems
  extract_lets _ v1
  clear_value v1
  split
  · exact trapReserved_form h
  · exact form_ite _ (trapReserved_form h) (writeElems_form (roundWord_form h rfl))

theorem specSame_form {i o : BitVec 3} {d a : BitVec 6} {k r : BitVec 3} {ratio : Nat}
    {f : Fmt → Rounding → Nat → Nat × BitVec 5} (h : s.Form) : (specSame i o d a k r ratio f s).Form :=
  needGrant_form h (form_ite _ (trapReserved_form h) (specElems_form h))

theorem execFcvt_form {i o : BitVec 3} {d a : BitVec 6} {k r : BitVec 3} (h : s.Form) : Keeps (execFcvt i o d a k r s) := by
  unfold execFcvt
  refine keeps_next ?_
  refine needGrant_form h ?_
  split
  · exact form_ite _ (trapReserved_form h) (specElems_form h)
  · exact trapReserved_form h

theorem execFbpk_form {i m : BitVec 3} {d a : BitVec 6} {k r : BitVec 3} (h : s.Form) : Keeps (execFbpk i m d a k r s) := by
  unfold execFbpk
  extract_lets
  refine keeps_next ?_
  refine needGrant_form h ?_
  refine form_ite _ (trapReserved_form h) ?_
  split
  · exact trapReserved_form h
  · exact form_ite _ (trapReserved_form h) (writeElems_form (writeElems_form (roundWord_form h rfl)))

theorem execFbunpk_form {o m : BitVec 3} {d a : BitVec 6} {k r : BitVec 3} (h : s.Form) :
    Keeps (execFbunpk o m d a k r s) := by
  unfold execFbunpk
  extract_lets
  refine keeps_next ?_
  refine needGrant_form h ?_
  refine form_ite _ (trapReserved_form h) ?_
  split
  · exact trapReserved_form h
  · exact form_ite _ (trapReserved_form h) (writeElems_form (roundWord_form h rfl))

/-! ### Slots M0 and M1 on the local stores (08 R184 to R199) -/

theorem vecStoreChecks_form {v : BitVec 6} {size : Nat} {as_ : List Nat} {ok : State} (h : s.Form) (hok : ok.Form) :
    (vecStoreChecks s v size as_ ok).Form := by
  unfold vecStoreChecks
  extract_lets
  refine needGrant_form h ?_
  refine form_ite _ ((trapHere_same ..).form h) ?_
  split
  · exact (trapHere_same ..).form h
  · exact hok

theorem vecStoreLoad_form {v : BitVec 6} {size : Nat} {sp : Space} {store : Memory} {as_ : List Nat} (h : s.Form) :
    (vecStoreLoad s v size sp store as_).Form := by
  unfold vecStoreLoad
  refine vecStoreChecks_form h ?_
  split
  · exact (trapHere_same ..).form h
  · exact writeV_form ((mend_same ..).form h)

theorem execLdxs_form {z : BitVec 3} {d b : BitVec 6} {o : BitVec 10} (h : s.Form) : Keeps (execLdxs z d b o s) := by
  unfold execLdxs
  extract_lets
  refine keeps_next ?_
  refine form_ite _ (trapReserved_form h) ?_
  refine form_ite _ ((trapHere_same ..).form h) ?_
  refine form_ite _ ((trapHere_same ..).form h) ?_
  split
  · exact (trapHere_same ..).form h
  · exact (writeS_same ..).form ((mend_same ..).form h)

theorem execLda_form {v : BitVec 6} {k : BitVec 4} {r i : BitVec 6} (h : s.Form) : Keeps (execLda v k r i s) := by
  unfold execLda
  extract_lets
  refine keeps_next ?_
  refine needGrant_form h ?_
  refine form_ite _ ((trapHere_same ..).form h) ?_
  split
  · exact (trapHere_same ..).form h
  · exact writeV_form ((mend_same ..).form h)

theorem inUseOp_form {on : Bool} {n b : BitVec 6} {o : BitVec 10} (h : s.Form) : (inUseOp on n b o s).Form :=
  form_ite _ h (form_ite _ ((trapHere_same ..).form h) ((schedule_same ..).form h))

theorem execScacc_form {d : BitVec 4} {r : BitVec 6} {b : BitVec 4} {g : BitVec 2} {e : BitVec 5} {c : BitVec 4}
    (h : s.Form) : Keeps (execScacc d r b g e c s) := by
  unfold execScacc
  extract_lets
  refine keeps_next ?_
  refine needGrant_form h ?_
  refine form_ite _ ((trapHere_same ..).form h) ?_
  split
  · exact (trapHere_same ..).form h
  · exact (schedule_same ..).form ((mend_same ..).form ((mend_same ..).form h))

/-! ### Engine operations (09 R213 to R217, 10, 12 R274) -/

theorem State.noteReads_form {es : List Nat} (h : s.Form) : (s.noteReads es).Form := form_ite _ h (modCur_form h)

theorem State.takeReads_form {a : List Nat} {t : State} (h : s.Form) (e : s.takeReads = (a, t)) : t.Form := by
  simp only [takeReads] at e
  split at e
  · cases e
    exact h
  · cases e
    exact modCur_form h

theorem State.readGlobal_form {cn p : Nat} {own : List LineWrite} {snap lim : Nat} {view : Option Nat} {x va n : Nat}
    {a : List (BitVec 8)} {b : List Nat} {t : State} (h : s.Form)
    (e : s.readGlobal cn p own snap lim view x va n = .ok (a, b, t)) : t.Form := by
  simp only [readGlobal] at e
  split at e
  · cases e
    exact (blockFor_same ..).form h
  · split at e
    · cases e
    next _ _ e0 =>
      cases e
      exact noteReads_form (translateRange_form _ _ _ _ _ _ _ _ h e0)

theorem State.readPlace_form {x : Nat} {own : List LineWrite} {snap lim : Nat} {view : Option Nat} {a n : Nat}
    {b : List (BitVec 8)} {c : List Nat} {t : State} (h : s.Form)
    (e : s.readPlace x own snap lim view a n = .ok (b, c, t)) : t.Form := by
  simp only [readPlace] at e
  split at e
  · cases e
    exact h
  · split at e
    · cases e
      exact (mend_same ..).form h
    · cases e
      exact (mend_same ..).form h
    · exact readGlobal_form h e
    · cases e

theorem State.readIssuer_form {x a n : Nat} {b : List (BitVec 8)} {c : List Nat} {t : State} (h : s.Form)
    (e : s.readIssuer x a n = .ok (b, c, t)) : t.Form := by
  simp only [readIssuer] at e
  exact readPlace_form h e

theorem State.writeStore_form {wst : Bool} {c a : Nat} {bs : List (BitVec 8)} {bad : List Nat} (h : s.Form) :
    (s.writeStore wst c a bs bad).Form :=
  modStore_form ((noteWrite_same ..).form h)

theorem State.writePages_form {x va n : Nat} {a : List (Nat × Nat)} {t : State} (h : s.Form)
    (e : s.writePages x va n = .ok (a, t)) : t.Form := by
  simp only [writePages] at e
  split at e
  · cases e
  next _ _ e0 =>
    split at e
    · cases e
    · cases e
      exact translateRange_form _ _ _ _ _ _ _ _ h e0

theorem State.landLines_form {x key : Nat} {held : Bool} {ls : List LineWrite} (h : s.Form) :
    (s.landLines x key held ls).Form :=
  modMem_form h

theorem State.joinKey_form {x key : Nat} (h : s.Form) : (s.joinKey x key).Form := modMem_form ((learn_same ..).form h)

theorem State.joinTag_form {x t : Nat} (h : s.Form) : (s.joinTag x t).Form := joinKey_form (joinKey_form h)

theorem State.joinTags_form {x : Nat} {ready : BitVec 64} (h : s.Form) : (s.joinTags x ready).Form :=
  form_foldl _ (fun _ _ hu => form_ite _ (joinTag_form hu) hu) _ _ h

theorem State.joinAll_form {x : Nat} (h : s.Form) : (s.joinAll x).Form := modMem_form ((learn_same ..).form h)

theorem State.startEngine_form {e : EngineOp} (h : s.Form) : (s.startEngine e).Form :=
  modCore_form ((bindTag_same ..).form h)

theorem State.fork_form {x t : Nat} {kind : EngineKind} {data : List (BitVec 8)} {bad : List Nat} {status : Nat}
    {fa : BitVec 64} {card : Bool} (h : s.Form) : (s.fork x t kind data bad status fa card).Form :=
  keepWalks_form (startEngine_form (takeReads_form h rfl))

theorem State.setEngine_form {n : Nat} {e : EngineOp} (h : s.Form) : (s.setEngine n e).Form := modCore_form h

theorem State.dropEngine_form {n id : Nat} (h : s.Form) : (s.dropEngine n id).Form := modCore_form h

theorem State.finish_form {n : Nat} {e : EngineOp} {status : Nat} {fa : BitVec 64} (h : s.Form) :
    (s.finish n e status fa).Form :=
  (completeTag_same ..).form
    (dropEngine_form (forgetWalks_form (form_ite _ (logWalk_form (form_ite _ h (modMem_form h))) (form_ite _ h
    (modMem_form h)))))

theorem State.landSectors_form {wst : Bool} {c b : Nat} {bs : List (BitVec 8)} {bad secs : List Nat} (h : s.Form) :
    (s.landSectors wst c b bs bad secs).Form :=
  form_foldl _ (fun _ _ hu => writeStore_form hu) _ _ h

theorem State.chainRecord_form {op : EngineOp} {p : Nat} {a : ChainRecord} {b : Option Nat} {t : State} (h : s.Form)
    (e : s.chainRecord op p = some (a, b, t)) : t.Form := by
  simp only [chainRecord] at e
  split at e
  · cases e
  · split at e
    · cases e
    next _ _ e1 =>
      split at e
      · cases e
      · simp only [Option.some.injEq, Prod.mk.injEq] at e
        obtain ⟨-, -, rfl⟩ := e
        exact noteReads_form (translateRange_form _ _ _ _ _ _ _ _ h e1)

theorem State.recordData_form {e : EngineOp} {r : ChainRecord} {view : Option Nat} {a : List (BitVec 8)}
    {b : List Nat} {c : EngineOp} {t : State} (h : s.Form) (e : s.recordData e r view = .ok (a, b, c, t)) : t.Form :=
    by
  simp only [recordData] at e
  split at e
  · cases e
    exact h
  · split at e
    · cases e
    next _ _ _ e0 =>
      cases e
      exact takeReads_form (readPlace_form h e0) rfl

theorem State.abandon_form {e : EngineOp} (h : s.Form) : (s.abandon e).Form := by
  unfold abandon
  split
  · exact h
  · split
    next _ _ e0 =>
      extract_lets
      split
      · exact landSectors_form (fresh_form h e0)
      · exact landSectors_form (fresh_form h e0)
      · exact fresh_form h e0

theorem State.abandonGlobal_form {n : Nat} {e : EngineOp} (h : s.Form) : (s.abandonGlobal n e).Form := by
  unfold abandonGlobal
  dsimp only
  split
  · exact h
  · split
    · split
      · exact h
      next _ _ e0 => exact landLines_form (fresh_form (writePages_form h e0) rfl)
    · exact h

theorem State.dropBlocks_form {gone : Block → Bool} (h : s.Form) : (s.dropBlocks gone).Form :=
  form_ite _ h (form_foldl _ (fun _ _ hu => form_foldl _ (fun _ _ hu1 => form_ite _ hu1 (dropL2_form hu1)) _ _ hu) _ _
    (form_mk h))

theorem State.releaseBlock_form {x t : Nat} (h : s.Form) : (s.releaseBlock x t).Form := dropBlocks_form h

theorem State.releaseBlocks_form {x : Nat} (h : s.Form) : (s.releaseBlocks x).Form := dropBlocks_form h

theorem State.acknowledge_form {n : Nat} {e : EngineOp} (h : s.Form) : (s.acknowledge n e).Form := by
  unfold acknowledge
  extract_lets s1 s2
  have h1 : s1.Form := abandonGlobal_form (abandon_form h)
  have h2 : s2.Form := by
    unfold s2
    split
    · exact modCore_form h1
    · exact releaseBlock_form h1
    · exact h1
  split <;> exact finish_form h2

theorem State.mendBarrier_form {a : Home} (h : s.Form) : (s.mendBarrier a).Form := by
  unfold mendBarrier
  split
  · exact (mend_same ..).form h
  · exact h

theorem State.setBarrier_form {x : Nat} {h : Home} {b : Barrier} (hs : s.Form) : (s.setBarrier x h b).Form := by
  unfold setBarrier
  extract_lets
  split
  · exact writeStore_form ((mend_same ..).form hs)
  · exact homeUpdate_form hs

theorem State.stray_form {n x addr : Nat} (h : s.Form) : (s.stray n x addr).Form := sampleRecord_form (modCore_form h)

theorem State.arriveAt_form {x addr : Nat} {h : Home} {n : Nat} {counts : Bool} (hs : s.Form) :
    (s.arriveAt x addr h n counts).Form :=
  form_ite _ (setBarrier_form hs) (stray_form (mendBarrier_form hs))

theorem State.forgetArrivals_form {c o : Nat} (h : s.Form) : (s.forgetArrivals c o).Form :=
  form_foldl _ (fun _ _ hu => form_ite _ hu (modCore_form hu)) _ _ h

theorem State.noteJoin_form {n o : Nat} {knows : List Nat} (h : s.Form) : (s.noteJoin n o knows).Form :=
  form_ite _ h (modCore_form h)

theorem State.joinBarrier_form {x : Nat} {a : Home} (h : s.Form) : (s.joinBarrier x a).Form := by
  unfold joinBarrier
  split
  · exact (learn_same ..).form h
  · exact h

theorem State.armBarrier_form {x : Nat} {h : Home} {n : Nat} (hs : s.Form) : (s.armBarrier x h n).Form := by
  unfold armBarrier
  extract_lets s1
  have h1 : s1.Form := by
    unfold s1
    split
    · exact forgetArrivals_form hs
    · exact hs
  exact setBarrier_form h1

theorem State.setStream_form {n h : Nat} {v : Stream} (hs : s.Form) : (s.setStream n h v).Form := modCore_form hs

theorem State.closeStream_form {n h : Nat} (hs : s.Form) : (s.closeStream n h).Form := setStream_form hs

theorem State.takeRow_form {n h : Nat} {a : BitVec 1024 × BitVec 4} {t : State} (hs : s.Form)
    (e : s.takeRow n h = (a, t)) : t.Form := by
  simp only [takeRow] at e
  cases e
  exact form_ite _ (closeStream_form hs) (setStream_form hs)

theorem State.setRing_form {n h : Nat} {r : Ring} (hs : s.Form) : (s.setRing n h r).Form := modCore_form hs

theorem State.spoilRing_form {n h : Nat} (hs : s.Form) : (s.spoilRing n h).Form :=
  form_ite _ (writeStore_form (fresh_form hs rfl)) hs

theorem State.freeRing_form {n h : Nat} (hs : s.Form) : (s.freeRing n h).Form := by
  unfold freeRing
  extract_lets _ s1 s2
  have h1 : s1.Form := spoilRing_form hs
  have h2 : s2.Form := by
    unfold s2
    split
    · exact form_foldl _ (fun _ _ hu1 => joinKey_form hu1) _ _ h1
    · exact h1
  exact setRing_form h2

theorem State.killEngines_form {x : Nat} {which : EngineOp → Bool} (h : s.Form) : (s.killEngines x which).Form := by
  unfold killEngines
  refine form_foldl _ ?_ _ _ h
  intro _ _ hu
  extract_lets s2
  have h2 : s2.Form := dropEngine_form (abandon_form hu)
  split
  · exact modCore_form h2
  · exact releaseBlock_form h2
  · exact h2

theorem State.closeUnits_form {x : Nat} (h : s.Form) : (s.closeUnits x).Form :=
  releaseBlocks_form (form_foldl _ (fun _ _ hu => form_ite _ (closeStream_form hu) hu) _ _ h)

/-! ### Tasks (14 R292, 16 R304 to R317, 17 R325, R332, R335) -/

theorem State.hwWriteAs_form {g : Agent} {p scope va : Nat} {bs : List (BitVec 8)} (h : s.Form) :
    (s.hwWriteAs g p scope va bs).Form := by
  unfold hwWriteAs
  extract_lets s1 _ s2 s3
  have h1 : s1.Form := hwWalks_form _ _ _ _ _ h
  have h2 : s2.Form := repairPoison_form _ _ (publishCells_form _ _ _ _ _ h1)
  have h3 : s3.Form := form_ite _ h2 ((addRelease_same ..).form h2)
  exact form_ite _ h3 ((log_same ..).form h3)

theorem State.slotPut_form {p i off n v : Nat} (h : s.Form) : (s.slotPut p i off n v).Form := hwWrite_form _ _ _ _ h

theorem State.setLevel_form {p d l : Nat} {q : List Queued} (h : s.Form) : (s.setLevel p d l q).Form := modPart_form h

theorem State.enqueue_form {p d : Nat} {q : Queued} (h : s.Form) : (s.enqueue p d q).Form :=
  slotPut_form (setLevel_form h)

theorem State.queueTask_form {p d : Nat} {q : Queued} {a : Queuing} {t : State} (h : s.Form)
    (e : s.queueTask p d q = (a, t)) : t.Form := by
  simp only [queueTask] at e
  split at e
  · cases e
    exact enqueue_form h
  · split at e
    · cases e
      exact h
    · split at e
      · cases e
        exact h
      · cases e
        exact slotPut_form (modPart_form (hwWrite_form _ _ _ _ h))

theorem State.defer_form {p : Nat} {q : Queued} (h : s.Form) : (s.defer p q).Form := by
  unfold defer
  extract_lets _ s1
  have h1 : s1.Form := by
    unfold s1
    split
    · exact slotPut_form h
    · exact modPart_form h
  exact modPart_form h1

theorem State.releaseTask_form {p d slot : Nat} (h : s.Form) : (s.releaseTask p d slot).Form := by
  unfold releaseTask
  extract_lets
  split
  next _ e0 => exact queueTask_form h e0
  next _ _ e0 => exact defer_form h

theorem State.dropSlot_form {p i : Nat} (h : s.Form) : (s.dropSlot p i).Form :=
  modPart_form (slotPut_form (slotPut_form h))

theorem State.failSlot_form {p i : Nat} (h : s.Form) : (s.failSlot p i).Form := slotPut_form h

theorem State.fillSlot_form {p i : Nat} {packet : List (BitVec 8)} {deps : Nat} (h : s.Form) :
    (s.fillSlot p i packet deps).Form :=
  slotPut_form (slotPut_form (slotPut_form (slotPut_form (hwWrite_form _ _ _ _ h))))

theorem State.launchHandler_form {p : Nat} (h : s.Form) : (s.launchHandler p).Form := by
  unfold launchHandler
  split
  · extract_lets s1
    have h1 : s1.Form := fillSlot_form h
    split
    next _ e1 => exact modPart_form (queueTask_form h1 e1)
    · exact h
  · exact h

theorem State.dropStep_form {p slot member : Nat} (h : s.Form) : (s.dropStep p slot member).Form := by
  unfold dropStep
  split
  · exact h
  · exact modDie_form h

theorem State.freeContext_form {x : Nat} (h : s.Form) : (s.freeContext x).Form := by
  unfold freeContext
  extract_lets _ s1 s2 s3 s4
  have h1 : s1.Form := releaseBlocks_form (killEngines_form h)
  have h2 : s2.Form := by
    unfold s2
    split
    · exact dropStep_form h1
    · exact h1
  have h3 : s3.Form := modCore_form ((releaseUnit_same ..).form h2)
  have h4 : s4.Form := modCur_form h3
  exact setCtx_form (clearBehind_form h4)

theorem State.setWeft_form {p : Nat} {w : Weft} (h : s.Form) : (s.setWeft p w).Form := modPart_form h

theorem State.endPick_form {g : Agent} {p slot : Nat} {stop : Bool} (h : s.Form) : (s.endPick g p slot stop).Form :=
    by
  unfold endPick
  split
  · exact h
  · extract_lets _ s1 _ _ s2
    have h1 : s1.Form := hwWriteAs_form ((widen_same ..).form h)
    have h2 : s2.Form := form_ite _ ((log_same ..).form h1) h1
    exact form_ite _ (modPart_form h2) (setWeft_form h2)

theorem State.unpark_form {p slot : Nat} (h : s.Form) : (s.unpark p slot).Form := modPart_form h

theorem State.dropPair_form {p : Nat} {q : Pair} (h : s.Form) : (s.dropPair p q).Form := modPart_form h

theorem State.leaveHeld_form {x : Nat} (h : s.Form) : (s.leaveHeld x).Form := modCore_form (modMem_form h)

theorem State.queueExact_form {p d slot exact : Nat} (h : s.Form) : (s.queueExact p d slot exact).Form :=
  form_ite _
    (releaseTask_form (slotPut_form (slotPut_form (slotPut_form (slotPut_form (slotPut_form (slotPut_form h)))))))
    ((log_same ..).form (failSlot_form (slotPut_form h)))

theorem State.leaveSaved_form {p slot : Nat} (h : s.Form) : (s.leaveSaved p slot).Form := form_mk h

theorem State.leaveAll_form {p slot : Nat} (h : s.Form) : (s.leaveAll p slot).Form :=
  leaveSaved_form (form_foldl _ (fun _ _ hu => leaveHeld_form hu) _ _ h)

theorem State.giveUnits_form {n old new : Nat} (h : s.Form) : (s.giveUnits n old new).Form := modCore_form h

theorem State.dropSaves_form {p slot : Nat} (h : s.Form) : (s.dropSaves p slot).Form :=
  form_ite _ h (form_mk (form_foldl _ (fun _ _ hu => dropStep_form (modCore_form hu)) _ _ h))

theorem State.failPair_form {p d : Nat} {q : Pair} {exact : Nat} (h : s.Form) : (s.failPair p d q exact).Form :=
  queueExact_form (dropPair_form (unpark_form (leaveAll_form h)))

theorem State.dropContext_form {x : Nat} (h : s.Form) : (s.dropContext x).Form := by
  unfold dropContext
  extract_lets _ s1 s2 s3
  have h1 : s1.Form := closeUnits_form (killEngines_form h)
  have h2 : s2.Form := form_foldl _ (fun _ _ hu1 => setRing_form (spoilRing_form hu1)) _ _ h1
  have h3 : s3.Form := form_ite _ (modCore_form h2) h2
  exact freeContext_form h3

theorem State.endTask_form {x : Nat} {fail : Bool} (h : s.Form) : (s.endTask x fail).Form := by
  unfold endTask
  split
  · exact dropContext_form h
  · extract_lets s1 v1 s2
    clear_value v1
    have h1 : s1.Form := endPick_form h
    have h2 : s2.Form := dropContext_form h1
    split
    · exact slotPut_form
        (failSlot_form (slotPut_form (failSlot_form (dropPair_form (unpark_form
        (dropSaves_form (dropSaves_form (form_foldl _ (fun _ _ hu2 => dropContext_form hu2) _ _ h2))))))))
    · exact form_ite _ (slotPut_form (failSlot_form h2)) (dropSlot_form h2)

theorem State.surrogateFull_form {x : Nat} {t : Task} {q : Pair} (h : s.Form) : (s.surrogateFull x t q).Form :=
  failPair_form
    (dropSlot_form (dropSaves_form (form_foldl _ (fun _ _ hu => dropContext_form hu) _ _ (dropContext_form h))))

theorem State.pairFull_form {x : Nat} (h : s.Form) : (s.pairFull x).Form := by
  unfold pairFull
  split
  · exact leaveHeld_form h
  · split
    · exact leaveHeld_form h
    · exact form_ite _ (surrogateFull_form h) (failPair_form (leaveHeld_form h))

theorem State.slotAdd_form {g : Agent} {p i off n : Nat} {d : ℤ} {scope : Nat} (h : s.Form) :
    (s.slotAdd g p i off n d scope).Form :=
  form_ite _ (hwWriteAs_form h) (carryOn_form (hwWriteAs_form h))

theorem State.decrement_form {g : Agent} {p i scope : Nat} (h : s.Form) : (s.decrement g p i scope).Form :=
  form_ite _ (releaseTask_form (slotAdd_form h)) (slotAdd_form h)

theorem State.releaseSuccessor_form {g : Agent} {p scope : Nat} {trig : Bool} {h : Nat} (hs : s.Form) :
    (s.releaseSuccessor g p scope trig h).Form :=
  form_ite _ ((log_same ..).form hs) (form_ite _ (slotAdd_form hs)
    (form_ite _ ((log_same ..).form hs) (decrement_form hs)))

/-! ### Slots M0 and M1 on global memory (08 R189 to R193, 12 R280, R281) -/

theorem State.placeAll_form {k : Access} {each : Bool} {reqs : List (Nat × Nat × Nat)} {a : List Piece} {t : State}
    (h : s.Form) (e : placeAll k each reqs s = .ok (a, t)) : t.Form := by
  induction reqs generalizing s a with
  | nil => cases e; exact h
  | cons r rest ih =>
    simp only [placeAll] at e
    split at e
    · cases e
    · split at e
      · cases e
      next _ _ e1 =>
        split at e
        · cases e
        · split at e
          · cases e
          · split at e
            · cases e
            next _ _ e2 =>
              cases e
              exact ih (translate_form _ _ _ _ _ _ _ h e1) e2

theorem State.access_form {k : Access} {each : Bool} {reqs : List (Nat × Nat × Nat)} {ok : List Piece → State → State}
    (h : s.Form) (hok : ∀ x1 u, u.Form → (ok x1 u).Form) : (s.access k each reqs ok).Form := by
  unfold access
  extract_lets
  refine form_ite _ (block_form h) ?_
  split
  · exact (trapHere_same ..).form h
  · refine form_ite _ ((blockFor_same ..).form h) ?_
    split
    · exact (trapHere_same ..).form (form_ite _ (logWalk_form h) h)
    next _ _ e0 => exact hok _ _ (placeAll_form h e0)

theorem State.launchOp_form {f : MemOp → MemOp} (h : s.Form) : (s.launchOp f).Form := keepWalks_form (modMem_form h)

theorem State.load_form {dest size : Nat} {mask : BitVec 1024} {ps : List Piece} (h : s.Form) :
    (s.load dest size mask ps).Form :=
  launchOp_form (learnReads_form h)

theorem State.heldFull_form {g : Governor} {va : Nat} (h : s.Form) : (s.heldFull g va).Form := by
  unfold heldFull
  split
  · exact (trapHere_same ..).form h
  · exact block_form h
  · exact pairFull_form h

theorem State.store_form {ps : List Piece} {bytes : Piece → List (BitVec 8)} (h : s.Form) : (s.store ps bytes).Form :=
    by
  unfold store
  extract_lets _ _ f1
  have h1 : ∀ (u : State), u.Form → (f1 u).Form := fun _ hu => form_foldl _ (fun _ _ hu1 => (enterLine_same ..).form
    hu1) _ _ hu
  split
  · exact form_ite _ (block_form h) (h1 _ h)
  · exact form_ite _ (h1 _ h) (form_ite _ (h1 _ (heldFull_form h)) (heldFull_form h))

theorem scalarAccess_form {z : BitVec 3} {b : BitVec 6} {o : BitVec 10} {k : Access} {ok : List Piece → State → State}
    (hok : ∀ x1 u, u.Form → (ok x1 u).Form) (h : s.Form) : (scalarAccess z b o k ok s).Form :=
  form_ite _ ((trapHere_same ..).form h) (access_form h (fun _ _ hu => hok _ _ hu))

theorem vectorAccess_form {v b : BitVec 6} {o : BitVec 10} {k : Access} {ok : List Piece → State → State}
    (hok : ∀ x1 u, u.Form → (ok x1 u).Form) (h : s.Form) : (vectorAccess v b o k ok s).Form :=
  needGrant_form h (form_ite _ ((trapHere_same ..).form h) (access_form h (fun _ _ hu => hok _ _ hu)))

theorem elementAccess_form {z : BitVec 3} {v b i : BitVec 6} {k : BitVec 3} {kind : Access}
    {ok : List Piece → State → State} (hok : ∀ x1 u, u.Form → (ok x1 u).Form) (h : s.Form) :
    (elementAccess z v b i k kind ok s).Form :=
  needGrant_form h
    (form_ite _ (trapReserved_form h) (form_ite _ ((trapHere_same ..).form h) (access_form h
    (fun _ _ hu => hok _ _ hu))))

theorem postPublication_form {x scope : Nat} {last : List LineWrite} {pa : Nat} (h : s.Form) :
    (postPublication s x scope last pa).Form :=
  form_ite _ (block_form h)
    (form_ite _ (modMem_form (modMem_form (form_foldl _ (fun _ _ hu => (enterLine_same ..).form hu) _ _ h)))
    (publishLines_form _ _ _ _ _ _ (modMem_form (form_foldl _ (fun _ _ hu => (enterLine_same ..).form hu) _ _ h))))

theorem atomicOp_form {op : HomeOp} {w : Nat} {d b v : BitVec 6} {sc : BitVec 3} (h : s.Form) :
    (atomicOp op w d b v sc s).Form :=
  form_ite _ (trapReserved_form h)
    (form_ite _ (trapHeld_form h) (form_ite _ ((trapHere_same ..).form h) (access_form h
    (fun _ _ hu => form_ite _ (launchOp_form hu) ((trapHere_same ..).form hu)))))

/-! ### Slot X (09 R200 to R217) -/

theorem State.scheduleOn_form {n lat : Nat} {w : Write} (h : s.Form) : (s.scheduleOn n lat w).Form := modCore_form h

theorem accBeat_form {bank row a f : Nat} (h : s.Form) : (accBeat bank row a f s).Form := by
  unfold accBeat
  extract_lets
  split
  · exact trapReserved_form h
  · extract_lets
    refine form_ite _ h ?_
    refine form_ite _ ((trapHere_same ..).form h) ?_
    split
    · exact (trapHere_same ..).form h
    · split
      · exact (trapHere_same ..).form h
      · split
        · exact (trapHere_same ..).form h
        · exact (schedule_same ..).form ((mend_same ..).form ((mend_same ..).form h))

theorem planeBeat_form {bank g : Nat} {neg : Bool} {a p half : Nat} (h : s.Form) :
    (planeBeat bank g neg a p half s).Form := by
  unfold planeBeat
  extract_lets
  refine form_ite _ h ?_
  refine form_ite _ ((trapHere_same ..).form h) ?_
  split
  · exact (trapHere_same ..).form h
  · split
    · exact (trapHere_same ..).form h
    · split
      · exact (trapHere_same ..).form h
      · exact (schedule_same ..).form ((mend_same ..).form ((mend_same ..).form h))

theorem drainBeat_form {bank row a f : Nat} (h : s.Form) : (drainBeat bank row a f s).Form := by
  unfold drainBeat
  extract_lets
  refine form_ite _ (trapReserved_form h) ?_
  split
  · exact trapReserved_form h
  · refine form_ite _ h ?_
    refine form_ite _ ((trapHere_same ..).form h) ?_
    split
    · exact (trapHere_same ..).form h
    · split
      · exact (trapHere_same ..).form h
      · exact (schedule_same ..).form ((mend_same ..).form h)

theorem pushWstore_form {q a : Nat} (h : s.Form) : (pushWstore q a s).Form := by
  unfold pushWstore
  extract_lets
  refine form_ite _ ((trapHere_same ..).form h) ?_
  split
  · exact (trapHere_same ..).form h
  · exact (schedule_same ..).form ((mend_same ..).form h)

theorem pushStream_form {q h : Nat} {cores : List Nat} (hs : s.Form) : (pushStream q h cores s).Form :=
  form_ite _ ((trapHere_same ..).form hs) (form_ite _ ((blockFor_same ..).form hs)
    (form_foldl _ (fun _ _ hu => scheduleOn_form hu) _ _ (takeRow_form hs rfl)))

theorem zeroBeat_form {bank row cnt : Nat} (h : s.Form) : (zeroBeat bank row cnt s).Form :=
  form_ite _ ((trapHere_same ..).form h) ((schedule_same ..).form h)

theorem streamLines_form {vas a : List Nat} {t : State} (h : s.Form) (e : streamLines vas s = .ok (a, t)) : t.Form := by
  induction vas generalizing s a with
  | nil => cases e; exact h
  | cons va rest ih =>
    simp only [streamLines] at e
    split at e
    · cases e
    next _ _ e1 =>
      split at e
      · cases e
      · split at e
        · cases e
        · split at e
          · cases e
          next _ _ e2 =>
            cases e
            exact ih (translate_form _ _ _ _ _ _ _ h e1) e2

theorem execMxhed_form {h : BitVec 2} {k : BitVec 1} {a c : BitVec 6} (hs : s.Form) : Keeps (execMxhed h k a c s) :=
    by
  unfold execMxhed
  extract_lets _ _ _ _ _ _ _ s1
  have h1 : s1.Form := closeStream_form hs
  refine keeps_next ?_
  refine form_ite _ (block_form hs) ?_
  refine form_ite _ ((blockFor_same ..).form hs) ?_
  refine form_ite _ h1 ?_
  refine form_ite _ ((trapHere_same ..).form h1) ?_
  refine form_ite _ ((trapHere_same ..).form h1) ?_
  split
  · exact (trapHere_same ..).form (form_ite _ (logWalk_form h1) h1)
  next _ _ e1 =>
    exact form_ite _ ((trapHere_same ..).form h1) (setStream_form
      (keepWalks_form ((touchLines_same ..).form (streamLines_form h1 e1))))

/-! ### Slot C: transfers, traps, control registers (04 R99 to R105, 14 R290 to R294) -/

theorem jump_form {target : BitVec 58} (h : s.Form) : (jump s target).Form := modCur_form h

theorem jumpAddr_form {d : BitVec 6} {a : BitVec 64} (h : s.Form) : (jumpAddr s d a).Form :=
  form_ite _ ((trapHere_same ..).form h) (jump_form ((writeS_same ..).form h))

theorem continueAt_form {x : Nat} {next : BitVec 58} {rep repSet : Option Nat} {jumped : Bool} (h : s.Form) :
    (continueAt s x next rep repSet jumped).Form := by
  unfold continueAt
  extract_lets _ f1 s2 s3
  have h1 : ∀ (u : State) x2 x3, u.Form → (f1 u x2 x3).Form := fun _ _ _ hu => (setCtl_same ..).form (modCtx_form hu)
  have h2 : s2.Form := by
    refine form_ite _ ((setCtl_same ..).form ((modIss_same ..).form h)) ?_
    split <;> exact h1 _ _ _ h
  have h3 : s3.Form := by
    unfold s3
    split
    · exact (setCtl_same ..).form h2
    · exact h2
  split
  · exact form_ite _ h3 ((modTrap_same ..).form ((modIss_same ..).form ((setCtl_same ..).form h3)))
  · exact h3

theorem takeBack_form {x : Nat} {st : Stop} (h : s.Form) : (takeBack s x st).Form := by
  unfold takeBack
  split
  · exact (modIss_same ..).form h
  · exact h

theorem placeAgain_form {x : Nat} {k : Access} {ps a : List Piece} {t : State} (h : s.Form)
    (e : placeAgain x k ps s = .ok (a, t)) : t.Form := by
  induction ps generalizing s a with
  | nil => cases e; exact h
  | cons q qs ih =>
    simp only [placeAgain] at e
    split at e
    · cases e
    next _ _ e1 =>
      split at e
      · cases e
      · split at e
        · cases e
        · split at e
          · cases e
          next _ _ e2 =>
            cases e
            exact ih (translate_form _ _ _ _ _ _ _ h e1) e2

theorem redoAccess_form {x : Nat} {o : MemOp} (h : s.Form) : (redoAccess s x o).Form := by
  unfold redoAccess
  extract_lets
  split
  · exact pendFailed_form (form_ite _ (logWalk_form h) h)
  next _ _ e0 => exact modMem_form (learnReads_form (placeAgain_form h e0))

theorem reopen_form {x : Nat} (h : s.Form) : (reopen s x).Form := by
  unfold reopen
  extract_lets s1
  have h1 : s1.Form := (snapshot_same ..).form ((modTrap_same ..).form h)
  split
  · exact h
  · refine form_ite _ ?_ h
    split
    · exact redoAccess_form h1
    · exact h1

theorem resumeStop_form {x : Nat} {skip : Bool} (h : s.Form) : (resumeStop s x skip).Form := by
  unfold resumeStop
  extract_lets _ s1 s2 s3 _ _ s4 s5 s6
  have h1 : s1.Form := (setCtl_same ..).form h
  have h2 : s2.Form := form_ite _ (continueAt_form h1) h1
  have h3 : s3.Form := reopen_form ((modTrap_same ..).form h2)
  have h4 : s4.Form := form_ite _ (takeBack_form h3) h3
  have h5 : s5.Form := (modTrap_same ..).form h4
  have h6 : s6.Form := form_ite _ (continueAt_form h5) h5
  exact (modIss_same ..).form h6

theorem leafTrap_form {x : Nat} (h : s.Form) : (leafTrap s x).Form := (takeTrap_same ..).form h

theorem returnTo_form {x mode : Nat} (h : s.Form) : (returnTo s x mode).Form :=
  form_ite _ h (form_ite _ (leafTrap_form h) (form_ite _ (endTask_form h) (resumeStop_form h)))

theorem returnOther_form {a : BitVec 6} {mode : Nat} (h : s.Form) : (returnOther a mode s).Form :=
  form_ite _ (trapReserved_form h) (form_ite _ ((trapHere_same ..).form h) (form_ite _ h (returnTo_form h)))

theorem execRdctl_form {d : BitVec 6} {n : BitVec 12} (h : s.Form) : Keeps (execRdctl d n s) := by
  unfold execRdctl
  extract_lets
  refine keeps_next ?_
  split
  · exact trapReserved_form h
  · exact (writeS_same ..).form (form_ite _ (joinTags_form h) h)

theorem writeFpf_form {v : BitVec 64} (h : s.Form) : (writeFpf s v).Form := modCore_form h

theorem ctlWrite_form {x num : Nat} {v : BitVec 64} (h : s.Form) : (ctlWrite s x num v).Form := by
  unfold ctlWrite
  split
  · exact writeFpf_form h
  · exact modCore_form h
  · exact (schedule_same ..).form h
  · exact (setCtl_same ..).form h
  · exact form_ite _ (modCur_form h) ((setCtl_same ..).form h)
  · exact (setCtl_same ..).form ((modTrap_same ..).form h)
  · exact (setCtl_same ..).form h

theorem execWrctl_form {a : BitVec 6} {n : BitVec 12} (h : s.Form) : Keeps (execWrctl a n s) := by
  unfold execWrctl
  extract_lets
  refine keeps_next ?_
  split
  · exact trapReserved_form h
  · exact (trapHere_same ..).form h
  · exact form_ite _ (trapReserved_form h) (ctlWrite_form h)

/-! ### Slot C: copies, tags, barriers, rings, decks (09 R223 to R226, 10) -/

theorem bindDone_form {x t : Nat} (h : s.Form) : (bindDone s x t).Form :=
  (completeTag_same ..).form ((bindTag_same ..).form h)

theorem execCopy_form {d a n t : BitVec 6} (h : s.Form) : Keeps (execCopy d a n t s) := by
  unfold execCopy
  extract_lets
  refine keeps_next ?_
  refine form_ite _ ((trapHere_same ..).form h) ?_
  refine form_ite _ ((trapHere_same ..).form h) ?_
  refine form_ite _ ((blockFor_same ..).form h) ?_
  refine form_ite _ ((giveSample_same ..).form (bindDone_form h)) ?_
  refine form_ite _ (block_form h) ?_
  split
  · exact fork_form h
  next _ _ _ e0 => exact fork_form (readIssuer_form h e0)

theorem passTags_form {seen : BitVec 64} (h : s.Form) : (passTags s seen).Form :=
  (snapshot_same ..).form (joinTags_form h)

theorem inEpochs_form {ok : State} (h : s.Form) (hok : ok.Form) : (inEpochs s ok).Form :=
  form_ite _ ((blockFor_same ..).form h) hok

theorem withBarrier_form {b : BitVec 64} {ok : Home → State → State} (h : s.Form)
    (hok : ∀ x1 u, u.Form → (ok x1 u).Form) : (withBarrier s b ok).Form := by
  unfold withBarrier
  extract_lets
  refine form_ite _ ((trapHere_same ..).form h) ?_
  split
  · split
    · exact (trapHere_same ..).form h
    · exact hok _ _ (mendBarrier_form h)
  · exact form_ite _ (block_form h)
      (access_form h (fun _ _ hu => form_ite _ ((trapHere_same ..).form hu) (hok _ _ hu)))
  · exact (trapHere_same ..).form h

theorem State.postEvent_form {lines : List Nat} {after : After} {ok : State} (h : s.Form) (hok : ok.Form) :
    (s.postEvent lines after ok).Form :=
  form_ite _ (modMem_form h) hok

theorem postBarrier_form {h : Home} {after : Nat → After} {ok : State} (hs : s.Form) (hok : ok.Form) :
    (postBarrier s h after ok).Form := by
  unfold postBarrier
  split
  · exact hok
  · exact postEvent_form hs hok

theorem execBarwait_form {b : BitVec 6} (h : s.Form) : Keeps (execBarwait b s) := by
  unfold execBarwait
  extract_lets
  refine keeps_next ?_
  refine withBarrier_form h ?_
  intro _ _ hu
  extract_lets _ _ _ f2
  have h2 : ∀ (u : State), u.Form → (f2 u).Form := fun _ hu1 => form_ite _ ((blockFor_same ..).form hu) hu1
  exact form_ite _ ((blockFor_same ..).form hu) (form_ite _ (h2 _ ((snapshot_same ..).form (joinBarrier_form hu)))
    (form_ite _ (form_ite _ ((blockFor_same ..).form hu) (h2 _ ((snapshot_same ..).form (joinBarrier_form
    (setBarrier_form hu))))) ((blockFor_same ..).form hu)))

theorem execSubscr_form {a p h : BitVec 6} (hs : s.Form) : Keeps (execSubscr a p h s) := by
  unfold execSubscr
  extract_lets
  refine keeps_next ?_
  refine form_ite _ (trapReserved_form hs) ?_
  refine form_ite _ ((trapHere_same ..).form hs) ?_
  refine form_ite _ ((trapHere_same ..).form hs) ?_
  refine form_ite _ ((trapHere_same ..).form hs) ?_
  split
  · exact (trapHere_same ..).form hs
  · split
    · exact (trapHere_same ..).form hs
    · extract_lets
      refine form_ite _ ((trapHere_same ..).form hs) ?_
      refine form_ite _ ((trapHere_same ..).form hs) ?_
      split
      · exact form_ite _ (block_form hs) (setRing_form ((mend_same ..).form hs))
      · exact form_ite _ ((trapHere_same ..).form hs) (form_ite _ (block_form hs)
          (setRing_form (freeRing_form ((mend_same ..).form hs))))

theorem withRing_form {h : BitVec 6} {dir : Option Bool} {ok : Ring → State} (hs : s.Form) (hok : ∀ x1, (ok x1).Form) :
    (withRing s h dir ok).Form := by
  unfold withRing
  extract_lets
  refine form_ite _ (trapReserved_form hs) ?_
  refine form_ite _ ((trapHere_same ..).form hs) ?_
  refine form_ite _ ((trapHere_same ..).form hs) ?_
  split
  · exact (trapHere_same ..).form hs
  · exact hok _

theorem whenSlot_form {r : Ring} {ok : State} (h : s.Form) (hok : ok.Form) : (whenSlot s r ok).Form :=
  form_ite _ (inEpochs_form h hok) (blockTimed_form h)

theorem execSeqld_form {a n t : BitVec 6} (h : s.Form) : Keeps (execSeqld a n t s) := by
  unfold execSeqld
  extract_lets _ _ _ _ f1
  have h1 : ∀ (u : State), u.Form → (f1 u).Form := fun _ hu => modCore_form hu
  refine keeps_next ?_
  refine form_ite _ ((trapHere_same ..).form h) ?_
  refine form_ite _ ((trapHere_same ..).form h) ?_
  refine form_ite _ (block_form h) ?_
  refine form_ite _ (block_form h) ?_
  split
  · exact fork_form (h1 _ h)
  next _ _ _ e1 => exact fork_form (h1 _ (readIssuer_form h e1))

theorem startDeck_form {n owner a start members leader boff : Nat} {cards : List (BitVec 512)} (h : s.Form) :
    (startDeck s n owner a start members leader boff cards).Form :=
  modCore_form ((mend_same ..).form h)

theorem recordChecks_form {a : Nat} {ok : State} (h : s.Form) (hok : ok.Form) : (recordChecks s a ok).Form :=
  form_ite _ ((trapHere_same ..).form h) (form_ite _ ((trapHere_same ..).form h) hok)

theorem deckCheck_form {start : Nat} {ok : State} (h : s.Form) (hok : ok.Form) : (deckCheck s start ok).Form :=
  form_ite _ ((trapHere_same ..).form h) hok

theorem execSeqgo_form {a st : BitVec 6} (h : s.Form) : Keeps (execSeqgo a st s) := by
  unfold execSeqgo
  extract_lets
  refine keeps_next ?_
  refine recordChecks_form h ?_
  refine form_ite _ (block_form h) ?_
  refine deckCheck_form h ?_
  split
  · exact (trapHere_same ..).form h
  · exact startDeck_form h

theorem execGang_form {a m st : BitVec 6} (h : s.Form) : Keeps (execGang a m st s) := by
  unfold execGang
  extract_lets
  refine keeps_next ?_
  refine form_ite _ ((trapHere_same ..).form h) ?_
  refine recordChecks_form h ?_
  refine form_ite _ (block_form h) ?_
  refine deckCheck_form h ?_
  split
  · exact (trapHere_same ..).form h
  · exact form_foldl _ (fun _ _ hu => startDeck_form hu) _ _ h

/-! ### Slot C: publications and tasks (12 R266, 16 R314 to R317, 17 R332 to R335) -/

theorem State.parkTask_form {x : Nat} {t : Task} {h : HeldMode} (hs : s.Form) : (s.parkTask x t h).Form := by
  unfold parkTask
  extract_lets _ _ _ s1 s2 s3
  have h1 : s1.Form := modPart_form hs
  have h2 : s2.Form := slotPut_form h1
  have h3 : s3.Form := by
    unfold s3
    split
    · exact form_ite _ (decrement_form h2) h2
    · exact h2
  exact freeContext_form h3

theorem State.closeSlot_form {g : Agent} {p slot scope : Nat} (h : s.Form) : (s.closeSlot g p slot scope).Form :=
  dropSlot_form (endPick_form (form_foldl _ (fun _ _ hu => releaseSuccessor_form hu) _ _ h))

theorem State.endMember_form {x : Nat} {t : Task} (h : s.Form) : (s.endMember x t).Form :=
  form_ite _ (freeContext_form (closeSlot_form (slotPut_form h))) (freeContext_form (slotPut_form h))

theorem State.joinHeld_form {x : Nat} (h : s.Form) : (s.joinHeld x).Form := modMem_form ((learn_same ..).form h)

theorem State.finishTask_form {x : Nat} (h : s.Form) : (s.finishTask x).Form := by
  unfold finishTask
  extract_lets s1
  have h1 : s1.Form := modMem_form (leaveHeld_form (joinHeld_form h))
  split
  · exact freeContext_form h
  · split
    · exact form_ite _ (endMember_form h)
        (form_ite _ (form_ite _ (modMem_form h1) (endMember_form (publishLines_form _ _ _ _ _ _ h1))) (parkTask_form
        h))
    · exact endMember_form h

theorem State.triggerOne_form {g : Agent} {p h : Nat} (hs : s.Form) : (s.triggerOne g p h).Form :=
  form_ite _ hs (decrement_form (slotAdd_form hs))

theorem State.fireTrigger_form {x : Nat} (h : s.Form) : (s.fireTrigger x).Form := by
  unfold fireTrigger
  extract_lets s1
  have h1 : s1.Form := (retain_same ..).form h
  split
  · exact h
  · exact form_ite _ h (slotPut_form (form_foldl _ (fun _ _ hu1 => triggerOne_form hu1) _ _ h1))

theorem State.passGuard_form {x d : Nat} (h : s.Form) : (s.passGuard x d).Form := by
  unfold passGuard
  extract_lets s1
  have h1 : s1.Form := by
    unfold s1
    split
    · exact leaveAll_form (dropSlot_form (dropPair_form (unpark_form h)))
    · exact h
  exact (setRegS_same ..).form (leaveHeld_form h1)

theorem State.afterPublication_form {x : Nat} {a : After} (h : s.Form) : (s.afterPublication x a).Form := by
  unfold afterPublication
  split
  · exact h
  · exact form_ite _ h ((snapshot_same ..).form h)
  · exact finishTask_form h
  · exact fireTrigger_form h
  · exact leaveHeld_form h
  · exact passGuard_form h
  · exact h
  · exact h
  · exact h

theorem State.post_form {x scope : Nat} {lines : List LineWrite} {after : After} (h : s.Form) :
    (s.post x scope lines after).Form :=
  form_ite _ (modMem_form h) (afterPublication_form (publishLines_form _ _ _ _ _ _ h))

theorem State.postAll_form {x scope : Nat} {after : After} (h : s.Form) : (s.postAll x scope after).Form :=
  post_form (modMem_form h)

theorem State.squashHeld_form {x : Nat} (h : s.Form) : (s.squashHeld x).Form :=
  leaveHeld_form (form_foldl _ (fun _ _ hu => acknowledge_form hu) _ _ h)

theorem State.endOfTask_form {x : Nat} (h : s.Form) : (s.endOfTask x).Form := by
  unfold endOfTask
  extract_lets s1 s2
  have h1 : s1.Form := by
    unfold s1
    split
    · refine form_ite _ (squashHeld_form h) ?_
      split
      · exact failPair_form (leaveHeld_form h)
      · exact h
    · exact h
  have h2 : s2.Form := form_foldl _ (fun _ _ hu1 => freeRing_form hu1) _ _ h1
  exact form_ite _ (block_form h1) (postAll_form (closeUnits_form (joinAll_form h2)))

theorem spawnPacket_form {d : BitVec 6} {va : Nat} {packet : List (BitVec 8)} (h : s.Form) :
    (spawnPacket s d va packet).Form := by
  unfold spawnPacket
  refine form_ite _ (trapReserved_form h) (form_ite _ ((trapHere_same ..).form h) ?_)
  split
  · exact block_form h
  · extract_lets _ s1
    have h1 : s1.Form := fillSlot_form h
    split
    · exact block_form h
    · exact (trapHere_same ..).form h
    next _ e1 =>
      refine launchOp_form ?_
      split at e1
      · exact queueTask_form h1 e1
      · cases e1
        exact h1

theorem execSpawn_form {d a : BitVec 6} (h : s.Form) : Keeps (execSpawn d a s) := by
  unfold execSpawn
  extract_lets
  refine keeps_next ?_
  refine form_ite _ (trapHeld_form h) ?_
  refine form_ite _ ((trapHere_same ..).form h) ?_
  refine form_ite _ ((trapHere_same ..).form h) ?_
  refine form_ite _ (block_form h) ?_
  split
  · exact (trapHere_same ..).form (logFault_form h)
  next _ _ _ e0 =>
    extract_lets
    refine form_ite _ ((trapHere_same ..).form (readIssuer_form h e0)) ?_
    split
    · exact (trapHere_same ..).form (logFault_form (readIssuer_form h e0))
    next _ _ _ e1 =>
      split
      · exact (trapHere_same ..).form (readIssuer_form (readIssuer_form h e0) e1)
      · split
        next _ _ e2 =>
          exact spawnPacket_form
            ((learn_same ..).form (takeReads_form (readIssuer_form (readIssuer_form h e0) e1) e2))

theorem decideSaved_form {p slot : Nat} {won : Bool} (h : s.Form) : (decideSaved s p slot won).Form := form_mk h

theorem decided_form {p h : Nat} {act : Nat → State → State} (hs : s.Form) (hact : ∀ x1 u, u.Form → (act x1 u).Form) :
    (decided s p h act).Form :=
  form_ite _ ((log_same ..).form hs) (hact _ _ hs)

theorem State.publishParked_form {k : Parked} (h : s.Form) : (s.publishParked k).Form := publishAs_form _ _ _ _ _ _ h

theorem loseTask_form {p i : Nat} (h : s.Form) : (loseTask p i s).Form := by
  unfold loseTask
  extract_lets v0 s1 s2
  clear_value v0
  have h1 : s1.Form := by
    unfold s1
    split
    · exact endPick_form h
    · exact h
  have h2 : s2.Form := unpark_form (decideSaved_form (form_foldl _ (fun _ _ hu1 => dropContext_form hu1) _ _ h1))
  exact form_ite _ h (form_ite _ (slotPut_form h2) (dropSlot_form h2))

theorem winTask_form {p i : Nat} (h : s.Form) : (winTask p i s).Form := by
  unfold winTask
  extract_lets s1 _ _ s2
  have h1 : s1.Form := decideSaved_form (form_foldl _ (fun _ _ hu => modMem_form hu) _ _ h)
  have h2 : s2.Form := unpark_form (form_foldl _ (fun _ _ hu1 => publishParked_form hu1) _ _ h1)
  refine form_ite _ (slotPut_form h) ?_
  split
  · exact h2
  · exact form_ite _ (closeSlot_form h2) h2

theorem decideAt_form {x w pa : Nat} (h : s.Form) : (decideAt s x w pa).Form :=
  form_ite _ (readHome_form h)
    (decided_form (decided_form (homeUpdate_form (readHome_form h)) (fun _ _ hu => loseTask_form hu)) (fun _ _ hu =>
    winTask_form hu))

theorem decideInTurn_form {w va pa : Nat} (h : s.Form) : (decideInTurn s w va pa).Form :=
  postEvent_form h (decideAt_form h)

/-! ### Slot C: wefts and held mode (17 R326 to R337) -/

theorem withEntry_form {p : Nat} {k : Access} {ok : Nat → Nat → State → State} (h : s.Form)
    (hok : ∀ x1 x2 u, u.Form → (ok x1 x2 u).Form) : (withEntry s p k ok).Form :=
  form_ite _ (block_form h) (access_form h (fun _ _ hu => form_ite _ ((trapHere_same ..).form hu) (hok _ _ _ hu)))

theorem writeStage_form {va pa new : Nat} (h : s.Form) : (writeStage s va pa new).Form := postPublication_form h

theorem execPkadv_form {a : BitVec 6} {i : BitVec 16} (h : s.Form) : Keeps (execPkadv a i s) := by
  unfold execPkadv
  refine keeps_next ?_
  split
  · exact (trapHere_same ..).form h
  · exact form_ite _ (trapHeld_form h) (withEntry_form h (fun _ _ _ hu => writeStage_form hu))

theorem execPkset_form {a : BitVec 6} {i : BitVec 16} (h : s.Form) : Keeps (execPkset a i s) := by
  unfold execPkset
  refine keeps_next ?_
  split
  · exact (trapHere_same ..).form h
  · exact form_ite _ (trapHeld_form h)
      (withEntry_form h (fun _ _ _ hu => form_ite _ ((trapHere_same ..).form hu) (writeStage_form hu)))

theorem execWaitl_form {a : BitVec 6} {i : BitVec 16} (h : s.Form) : Keeps (execWaitl a i s) := by
  unfold execWaitl
  refine keeps_next ?_
  split
  · exact (trapHere_same ..).form h
  · exact inEpochs_form h ((snapshot_same ..).form h)
  · exact withEntry_form h (fun _ _ _ hu => form_ite _ (blockTimed_form hu)
      (inEpochs_form hu ((snapshot_same ..).form (readHome_form hu))))

theorem execCommit_form {sc : BitVec 3} (h : s.Form) : Keeps (execCommit sc s) := by
  unfold execCommit
  extract_lets _ s1
  have h1 : s1.Form := joinHeld_form h
  refine keeps_next ?_
  refine form_ite _ (trapReserved_form h) ?_
  split
  · exact h
  · exact form_ite _ ((trapHere_same ..).form h) (form_ite _ (block_form h) (post_form (modMem_form h1)))

theorem execSquash_form (h : s.Form) : Keeps (execSquash s) := by
  unfold execSquash
  extract_lets
  refine keeps_next ?_
  split
  · exact h
  · exact form_ite _ ((trapHere_same ..).form h) (squashHeld_form h)

theorem takeMembers_form {x : Nat} {t : Task} {a : List LineWrite} {u : State} (h : s.Form)
    (e : takeMembers s x t = (a, u)) : u.Form := by
  simp only [takeMembers] at e
  cases e
  exact leaveSaved_form (form_foldl _ (fun _ _ hu => leaveHeld_form (joinHeld_form hu)) _ _ h)

theorem execGuard_form {d a : BitVec 6} (h : s.Form) : Keeps (execGuard d a s) := by
  unfold execGuard
  extract_lets
  refine keeps_next ?_
  split
  · exact form_ite _ (block_form h) (form_ite _ (post_form (modMem_form (joinHeld_form (takeMembers_form h rfl))))
      ((writeS_same ..).form (failPair_form (leaveHeld_form (joinHeld_form h)))))
  · exact form_ite _ (block_form h) ((writeS_same ..).form (dropPair_form (unpark_form h)))
  · exact (trapHere_same ..).form h

/-! ### Slot C: latency symbols (19 R342, R343, R354 to R356) -/

theorem declare_form {x : Nat} {ys : List (Nat × Symbol)} (h : s.Form) : (declare s x ys).Form := modCtx_form h

theorem declareNext_form {ys : List (Nat × Symbol)} (h : s.Form) : (declareNext s ys).Form :=
  form_ite _ (modCur_form h) (declare_form h)

theorem execSymdecl_form {a : BitVec 6} {m : BitVec 16} (h : s.Form) : Keeps (execSymdecl a m s) := by
  unfold execSymdecl
  extract_lets
  refine keeps_next ?_
  refine form_ite _ h ?_
  refine form_ite _ ((trapHere_same ..).form h) ?_
  refine form_ite _ ((trapHere_same ..).form h) ?_
  refine form_ite _ (block_form h) ?_
  split
  · exact (trapHere_same ..).form (logFault_form h)
  next _ _ _ e0 =>
    split
    · exact (trapHere_same ..).form (readIssuer_form h e0)
    · split
      · exact trapReserved_form (readIssuer_form h e0)
      · split
        next _ _ e1 =>
          exact declareNext_form (launchOp_form ((learn_same ..).form (takeReads_form (readIssuer_form h e0) e1)))

/-! ### Slot C: deadlines and steps (21 R362 to R373) -/

theorem State.charge_form {account unit weight bytes : Nat} (h : s.Form) : (s.charge account unit weight bytes).Form :=
  form_mk h

theorem State.chargeWeight_form {account d w : Nat} (h : s.Form) : (s.chargeWeight account d w).Form := charge_form h

theorem State.chargeBytes_form {account n bytes : Nat} {pa : Option Nat} (h : s.Form) :
    (s.chargeBytes account n bytes pa).Form := by
  unfold chargeBytes
  extract_lets s1
  have h1 : s1.Form := charge_form h
  split
  · exact charge_form h1
  · exact h1

theorem State.moveStep_form {p slot member d : Nat} (h : s.Form) : (s.moveStep p slot member d).Form := by
  unfold moveStep
  extract_lets
  split
  · exact h
  · exact form_ite _ h (modDie_form (dropStep_form h))

theorem State.govern_form (h : s.Form) : s.govern.Form := form_ite _ (form_mk h) h

theorem State.reportStep_form {e : StepEntry} (h : s.Form) : (s.reportStep e).Form := form_mk h

theorem State.endStep_form {k : Nat × Nat × Nat} {e : StepEntry} (h : s.Form) : (s.endStep k e).Form :=
  form_ite _ (govern_form (dropStep_form (reportStep_form h))) (dropStep_form (reportStep_form h))

theorem State.addWeight_form {x w : Nat} (h : s.Form) : (s.addWeight x w).Form := by
  unfold addWeight
  extract_lets
  split
  · exact h
  · exact modDie_form h

theorem execDeadline_form {a : BitVec 6} {c : BitVec 16} (h : s.Form) : Keeps (execDeadline a c s) := by
  unfold execDeadline
  extract_lets _ _ s1 _ _ _ _ s2
  have h1 : s1.Form := by
    unfold s1
    split
    · exact endStep_form h
    · exact h
  have h2 : s2.Form := modDie_form h1
  exact keeps_next (form_ite _ ((pendLight_same ..).form h2) h2)

theorem execStepend_form {d : BitVec 6} (h : s.Form) : Keeps (execStepend d s) := by
  unfold execStepend
  extract_lets
  refine keeps_next ?_
  split
  · exact (writeS_same ..).form h
  · exact endStep_form ((writeS_same ..).form h)

theorem execColl_form {a t : BitVec 6} (h : s.Form) : Keeps (execColl a t s) := by
  unfold execColl
  extract_lets _ _ f1
  have h1 : ∀ (u : State) x2 x3 x4 x5, u.Form → (f1 u x2 x3 x4 x5).Form := fun _ _ _ _ _ hu => fork_form hu
  refine keeps_next ?_
  refine form_ite _ (trapHeld_form h) ?_
  refine form_ite _ ((trapHere_same ..).form h) ?_
  refine form_ite _ ((trapHere_same ..).form h) ?_
  refine form_ite _ ((blockFor_same ..).form h) ?_
  refine form_ite _ (block_form h) ?_
  split
  · exact h1 _ _ _ _ _ h
  next _ _ _ e1 =>
    extract_lets
    refine form_ite _ (h1 _ _ _ _ _ (readIssuer_form h e1)) ?_
    split
    · exact h1 _ _ _ _ _ (readIssuer_form h e1)
    next _ _ _ e2 => exact h1 _ _ _ _ _ (readIssuer_form (readIssuer_form h e1) e2)

/-! ### A slot of a bundle -/

theorem slotMeaning_form {i : Instr} (h : s.Form) : Keeps (slotMeaning i s) := by
  cases i
  case add | sub | mul | mulh | mulhu | divu | remu | and | or | xor | shl | shr | sra | min | max | minu | maxu | slt
      | sltu | seq | sel | mov | popc | clz | ctz | fnsb | brev | addi | andi | ori | xori | shli | shri | srai | movi
      | movk | extr | depo | symrd | symgen =>
    exact keeps_next ((writeS_same ..).form h)
  case vadd | vsub | vmul | vmulh | vmin | vmax | vand | vor | vxor | vandn | vfnsb =>
    exact keeps_next (vecInt_form h)
  case vabs | vpopc | vclz | vctz | vbrev => exact keeps_next (vecInt1_form h)
  case vshl | vshr | vsra | vrot => exact keeps_next (vecShift_form h)
  case vcmp | vfcmp => exact keeps_next (needGrant_form h (form_ite _ (trapReserved_form h) (writeK_form h)))
  case vsel | vmovi => exact keeps_next (needGrant_form h (form_ite _ (trapReserved_form h) (writeV_form h)))
  case vmov | xcl | vred =>
    exact keeps_next (needGrant_form h (form_ite _ (trapReserved_form h) ((schedule_same ..).form h)))
  case vbcast | vperm | vfneg =>
    exact keeps_next (needGrant_form h (form_ite _ (trapReserved_form h) (writeElems_form h)))
  case vextr => exact keeps_next (needGrant_form h (form_ite _ (trapReserved_form h) ((writeS_same ..).form h)))
  case vfadd | vfsub | vfmul | vfma => exact keeps_next (vecFloat_form h)
  case vfmin | vfmax => exact keeps_next (vecPick_form h)
  case kand | kor | kxor | knot | kmov => exact keeps_next (maskOp_form h)
  case fexp2 | flog2 | frcp | frsq | fsqrt | ftanh | fscl | frnd => exact keeps_next (specSame_form h)
  case fcvt => exact execFcvt_form h
  case fbpk => exact execFbpk_form h
  case fbunpk => exact execFbunpk_form h
  case bobpop => exact keeps_next ((writeS_same ..).form (popBobbin_form h rfl))
  case ldx | ldw => exact keeps_next (vecStoreLoad_form h)
  case stx | stw => exact keeps_next (vecStoreChecks_form h ((schedule_same ..).form h))
  case ldxs => exact execLdxs_form h
  case stxs =>
    exact keeps_next
      (form_ite _ (trapReserved_form h) (form_ite _ ((trapHere_same ..).form h) (form_ite _
      ((trapHere_same ..).form h) ((schedule_same ..).form h))))
  case lda => exact execLda_form h
  case sta => exact keeps_next (needGrant_form h (form_ite _ ((trapHere_same ..).form h) ((schedule_same ..).form h)))
  case ldg => exact keeps_next (form_ite _ (trapReserved_form h) (scalarAccess_form (fun _ _ hu => load_form hu) h))
  case stg => exact keeps_next (form_ite _ (trapReserved_form h) (scalarAccess_form (fun _ _ hu => store_form hu) h))
  case vldg => exact keeps_next (vectorAccess_form (fun _ _ hu => load_form hu) h)
  case vstg => exact keeps_next (vectorAccess_form (fun _ _ hu => store_form hu) h)
  case vgath => exact keeps_next (elementAccess_form (fun _ _ hu => load_form hu) h)
  case vscat => exact keeps_next (elementAccess_form (fun _ _ hu => store_form hu) h)
  case ldacq =>
    exact keeps_next
      (form_ite _ (trapReserved_form h) (form_ite _ ((trapHere_same ..).form h) (access_form h
      (fun _ _ hu => launchOp_form hu))))
  case strel =>
    exact keeps_next
      (form_ite _ (trapReserved_form h) (form_ite _ (trapHeld_form h) (form_ite _ ((trapHere_same ..).form h)
      (access_form h (fun _ _ hu => postPublication_form hu)))))
  case aadd | amin | amax | axchg | acas | afadd | chunk => exact keeps_next (atomicOp_form h)
  case ldblk =>
    exact keeps_next
      (form_ite _ ((trapHere_same ..).form h) (form_ite _ (releaseBlock_form h) (form_ite _
      ((trapHere_same ..).form h) (form_ite _ ((trapHere_same ..).form h)
      (form_ite _ (block_form h) (form_ite _ (modCur_form h) (fork_form (releaseBlock_form h))))))))
  case bufhold | buffree => exact keeps_next (inUseOp_form h)
  case scacc => exact execScacc_form h
  case mxpushWstore => exact keeps_next (pushWstore_form h)
  case mxpushStream => exact keeps_next (pushStream_form h)
  case mxflip => exact keeps_next ((schedule_same ..).form h)
  case mxacc => exact keeps_next (accBeat_form h)
  case mxbp => exact keeps_next (planeBeat_form h)
  case mxdrain => exact keeps_next (drainBeat_form h)
  case mxzero => exact keeps_next (zeroBeat_form h)
  case mxhed => exact execMxhed_form h
  case mxunpin => exact keeps_next (closeStream_form h)
  case mxgang => exact keeps_next (form_ite _ (trapReserved_form h) (pushStream_form h))
  case br => exact keeps_next (jump_form h)
  case jmpi | ret => exact keeps_next (jumpAddr_form h)
  case call => exact keeps_next (jump_form ((writeS_same ..).form h))
  case rep | yield => exact keeps_next (modCur_form h)
  case trap => exact keeps_next ((trapHere_same ..).form h)
  case rett => exact keeps_next (form_ite _ (jump_form ((setCtl_same ..).form h)) (trapReserved_form h))
  case rettResume | rettSkip | rettEnd => exact keeps_next (returnOther_form h)
  case copy => exact execCopy_form h
  case copych => exact keeps_next (form_ite _ ((blockFor_same ..).form h) (form_ite _ (block_form h) (fork_form h)))
  case copymc =>
    exact keeps_next
      (form_ite _ ((trapHere_same ..).form h) (form_ite _ ((trapHere_same ..).form h) (form_ite _
      ((trapHere_same ..).form h) (form_ite _ ((blockFor_same ..).form h)
      (form_ite _ (bindDone_form h) (fork_form h))))))
  case cancel => exact keeps_next (modCore_form h)
  case waitany =>
    exact keeps_next (form_ite _ (blockTimed_form h) (inEpochs_form h ((writeS_same ..).form (passTags_form h))))
  case waitall => exact keeps_next (form_ite _ (blockTimed_form h) (inEpochs_form h (passTags_form h)))
  case ffrdy => exact keeps_next ((writeS_same ..).form (joinTags_form h))
  case tagclr => exact keeps_next (form_foldl _ (fun _ _ hu => form_ite _ ((setTag_same ..).form hu) hu) _ _ h)
  case tagst => exact keeps_next ((writeS_same ..).form (form_ite _ (joinTag_form h) h))
  case barinit =>
    exact keeps_next
      (form_ite _ (trapHeld_form h) (withBarrier_form h (fun _ _ hu => postBarrier_form hu (armBarrier_form hu))))
  case bararr =>
    exact keeps_next
      (form_ite _ (trapHeld_form h) (withBarrier_form h (fun _ _ hu => postBarrier_form hu (arriveAt_form hu))))
  case barwait => exact execBarwait_form h
  case phase => exact keeps_next (form_ite _ (trapReserved_form h) (postAll_form h))
  case fence => exact keeps_next (modMem_form h)
  case subscr => exact execSubscr_form h
  case slotwait =>
    exact keeps_next
      (withRing_form h (fun _ => whenSlot_form h ((writeS_same ..).form ((snapshot_same ..).form (joinKey_form h)))))
  case slotpop =>
    exact keeps_next
      (withRing_form h (fun _ => whenSlot_form h (form_ite _ ((snapshot_same ..).form (joinKey_form h)) (setRing_form
      ((snapshot_same ..).form (joinKey_form h))))))
  case slotdone =>
    exact keeps_next
      (withRing_form h (fun _ => whenSlot_form h (form_ite _ ((snapshot_same ..).form (joinKey_form h)) (setRing_form
      ((mend_same ..).form ((snapshot_same ..).form (joinKey_form h)))))))
  case unsub =>
    exact keeps_next
      (form_ite _ (trapReserved_form h) (form_ite _ ((trapHere_same ..).form h) (form_ite _ (block_form h)
      ((writeS_same ..).form (freeRing_form h)))))
  case seqld => exact execSeqld_form h
  case seqgo => exact execSeqgo_form h
  case seqwait =>
    exact keeps_next
      (form_ite _ (blockTimed_form h) (inEpochs_form h ((snapshot_same ..).form (form_foldl _
      (fun _ _ hu => joinKey_form hu) _ _ h))))
  case gang => exact execGang_form h
  case spawn => exact execSpawn_form h
  case taskend => exact keeps_next (endOfTask_form h)
  case trigger => exact keeps_next (form_ite _ (trapHeld_form h) (postAll_form h))
  case decide =>
    exact keeps_next
      (form_ite _ (trapHeld_form h) (form_ite _ ((trapHere_same ..).form h) (form_ite _ (block_form h)
      (access_form h (fun _ _ hu => form_ite _ ((trapHere_same ..).form hu) (form_ite _ ((trapHere_same ..).form hu)
      (decideInTurn_form hu)))))))
  case pkadv => exact execPkadv_form h
  case pkset => exact execPkset_form h
  case waitl => exact execWaitl_form h
  case held => exact keeps_next (form_ite _ h (form_ite _ (block_form h) (modMem_form h)))
  case commit => exact execCommit_form h
  case squash => exact execSquash_form h
  case guard => exact execGuard_form h
  case symdecl => exact execSymdecl_form h
  case deadline => exact execDeadline_form h
  case stepend => exact execStepend_form h
  case rdctl => exact execRdctl_form h
  case wrctl => exact execWrctl_form h
  case coll => exact execColl_form h
  all_goals exact keeps_next h

theorem runSlot_form {i : Instr} (h : s.Form) : (runSlot i s).Form := by
  unfold runSlot
  split
  next _ e0 => exact slotMeaning_form h _ e0
  · exact h

end

end Sys2Proof.Machine

/-! SUPPORT. The canonical form of memory: the issue of bundles and the events of contexts, engines and cards (02, 04,
08 to 14). -/

namespace Sys2Proof.Machine

open State

section

variable {s : State}

/-! ### Fetch, issue and attempt (02 R25 to R54, 04 R86 to R98, 14 R284 to R294) -/

theorem State.fetchWords_form {x : Nat} {a : List Nat} {t : State} (h : s.Form) (e : s.fetchWords x = .ok (a, t)) :
    t.Form := by
  simp only [fetchWords] at e
  split at e
  · cases e
  next _ _ e0 =>
    split at e
    · cases e
    · cases e
      exact (touchL2_same ..).form (forgetWalks_form (translate_form _ _ _ _ _ _ _ h e0))

theorem State.startIssue_form {x : Nat} {b : Bundle} (h : s.Form) : (s.startIssue x b).Form := form_mk h

theorem State.runAt_form {b : Bundle} {latch : List Latched} {i : Nat} (h : s.Form) : (runAt b latch s i).Form := by
  unfold runAt
  extract_lets s1
  have h1 : s1.Form := modCur_form h
  refine form_ite _ h ?_
  split
  · exact h1
  · exact trapReserved_form h1
  · exact runSlot_form h1

theorem State.startForks_form (h : s.Form) : s.startForks.Form :=
  form_ite _ h (form_foldl _ (fun _ _ hu => startEngine_form (releaseBlock_form hu)) _ _ (modCur_form h))

theorem State.runSlots_form {b : Bundle} {latch : List Latched} {on : List Nat} (h : s.Form) :
    (s.runSlots b latch on).Form :=
  startForks_form (form_foldl _ (fun _ _ hu => runAt_form hu) _ _ h)

theorem State.cutBefore_form {x b1 : Nat} (h : s.Form) : (s.cutBefore x b1).Form := by
  unfold cutBefore
  extract_lets _ s1 _ _ s2 s3
  have h1 : s1.Form := sampleIf_form _ _ _ _ _ _ h
  have h2 : s2.Form := form_ite _ h1 ((traceTrigger_same ..).form h1)
  have h3 : s3.Form := form_ite _ ((setCtl_same ..).form h2) (form_ite _ ((setCtl_same ..).form h1) h1)
  exact form_ite _ ((pendLight_same ..).form h3) h3

theorem State.cutAfter_form {x : Nat} (h : s.Form) : (s.cutAfter x).Form := modCtx_form h

theorem State.bundleStop_form {x : Nat} {b : Bundle} {t : Trap} {done : BitVec 10} {leaf : Nat}
    {before : Option (Bool × Nat)} {syms : Option (Tab Symbol × BitVec 64)} {latch : List Latched} (h : s.Form) :
    (s.bundleStop x b t done leaf before syms latch).Form :=
  (takeTrap_same ..).form h

theorem State.countIssue_form {x : Nat} (h : s.Form) : (s.countIssue x).Form := form_ite _ ((modIss_same ..).form h) h

theorem State.preciseStop_form {x : Nat} {p : Plan} {t : Trap} {faulted : List Nat} {latch : List Latched}
    {next : BitVec 58} {rep repSet : Option Nat} {jumped : Bool} (h : s.Form) :
    (s.preciseStop x p t faulted latch next rep repSet jumped).Form :=
  (takeTrap_same ..).form (countIssue_form h)

theorem State.lightTrap_form {x : Nat} (h : s.Form) : (s.lightTrap x).Form := by
  unfold lightTrap
  extract_lets _ _ _ _ _ _ s1 s2 _ s3 s4
  have h1 : s1.Form := (setCtl_same ..).form ((setCtl_same ..).form h)
  have h2 : s2.Form := (setCtl_same ..).form ((setCtl_same ..).form
    ((setCtl_same ..).form ((setCtl_same ..).form h1)))
  have h3 : s3.Form := form_ite _ h2 ((setCtl_same ..).form ((modTrap_same ..).form h2))
  have h4 : s4.Form := (setCtl_same ..).form h3
  exact form_ite _ h ((traceTrigger_same ..).form (modCtx_form h4))

theorem State.yieldUnit_form {x n : Nat} (h : s.Form) : (s.yieldUnit x n).Form :=
  (modIss_same ..).form ((releaseUnit_same ..).form (countIssue_form h))

theorem State.noteIssue_form {x : Nat} {p : Plan} {ok : List Nat} {drift : Option ℤ} {pc : BitVec 58} (h : s.Form) :
    (s.noteIssue x p ok drift pc).Form :=
  modCore_form h

theorem State.noteDraft_form {x : Nat} {p : Plan} {board backs : List DraftWrite} (h : s.Form) :
    (s.noteDraft x p board backs).Form :=
  (modIss_same ..).form h

theorem State.enter_form {x : Nat} {p : Plan} {cut : Bool} (h : s.Form) : (s.enter x p cut).Form :=
  form_ite _ (cutAfter_form (modCur_form (cutBefore_form ((modTrap_same ..).form ((modIss_same ..).form h)))))
    ((modTrap_same ..).form ((modIss_same ..).form h))

theorem State.unwait_form {x : Nat} (h : s.Form) : (s.unwait x).Form := (modIss_same ..).form h

theorem State.weigh_form {x account : Nat} {p : Plan} (h : s.Form) : (s.weigh x account p).Form :=
  form_ite _ (chargeWeight_form (addWeight_form h)) h

theorem State.issue_form {x : Nat} {p : Plan} {cut : Bool} (h : s.Form) : (s.issue x p cut).Form := by
  unfold issue
  extract_lets _ _ _ s1 s2 s3 _ _ _ _ s4 s5 s6 _ _ _ _ _ s7
  have h1 : s1.Form := enter_form h
  have h2 : s2.Form := runSlots_form h1
  have h3 : s3.Form := weigh_form (form_ite _ h2 (unwait_form h2))
  have h4 : s4.Form := noteIssue_form h3
  have h5 : s5.Form := form_ite _ h4 (noteDraft_form h4)
  have h6 : s6.Form := declare_form h5
  have h7 : s7.Form := continueAt_form h6
  refine form_ite _ h4 ?_
  split
  · exact preciseStop_form h6
  · split
    · exact yieldUnit_form h7
    · exact form_ite _ (yieldUnit_form h7) (form_ite _ (lightTrap_form h7) h7)

theorem State.breakStop_form {x : Nat} {p : Plan} {r slot : Nat} {cut : Bool} (h : s.Form) :
    (s.breakStop x p r slot cut).Form :=
  bundleStop_form
    (countIssue_form ((traceTrigger_same ..).form (sampleRecord_form ((modIss_same ..).form
    (noteIssue_form (weigh_form (unwait_form (enter_form h))))))))

theorem State.runPlan_form {x : Nat} {p : Plan} {cut breaks : Bool} (h : s.Form) : (s.runPlan x p cut breaks).Form :=
    by
  unfold runPlan
  extract_lets v0
  clear_value v0
  split
  · exact Attempt.form_ite _ trivial trivial
  · split
    · exact trivial
    · split
      · exact breakStop_form h
      · exact issue_form h

theorem State.fullIssue_form {x : Nat} {b : Bundle} {skip : BitVec 10} (h : s.Form) : (s.fullIssue x b skip).Form :=
    by
  unfold fullIssue
  extract_lets s1 _ _ _ _ _ _ _ _ s2
  have h1 : s1.Form := startIssue_form h
  have h2 : s2.Form := (modTrap_same ..).form h1
  split
  · exact trivial
  · split
    · exact trivial
    · refine Attempt.form_ite _ (bundleStop_form h1) ?_
      refine Attempt.form_ite _ (bundleStop_form h1) ?_
      split
      · exact bundleStop_form h1
      · exact runPlan_form h2

theorem State.completeIssue_form {x : Nat} {st : Stop} (h : s.Form) : (s.completeIssue x st).Form := by
  unfold completeIssue
  extract_lets _ s1
  have h1 : s1.Form := modCur_form (startIssue_form h)
  split
  · exact trivial
  · exact runPlan_form ((modTrap_same ..).form h1)

theorem State.gated_form {x : Nat} {ok : Attempt} (hok : ok.Form) : (s.gated x ok).Form := by
  unfold gated
  split
  · exact trivial
  · exact hok

theorem State.fetchStop_form {x : Nat} {t : Trap} (h : s.Form) : (s.fetchStop x t).Form :=
  bundleStop_form (form_ite _ (logWalk_form h) h)

theorem State.attempt_form {x : Nat} (h : s.Form) : (s.attempt x).Form := by
  unfold attempt
  extract_lets _ s1 _ f2 f3
  have h1 : s1.Form := form_ite _ ((snapshot_same ..).form h) h
  have h2 : ∀ (u : Attempt), u.Form → (f2 u).Form := by
    intro _ hu1
    refine gated_form ?_
    split
    · exact trivial
    · exact hu1
  have h3 : ∀ x1, (f3 x1).Form := by
    intro _
    unfold f3
    split
    · exact h2 _ (fetchStop_form h1)
    next _ _ e2 => exact Attempt.form_ite _ trivial (h2 _ (fullIssue_form (fetchWords_form h1 e2)))
  refine Attempt.form_ite _ (gated_form (finishTask_form ((modIss_same ..).form h1))) ?_
  split
  · exact Attempt.form_ite _ (h3 _) (Attempt.form_ite _ trivial (gated_form (completeIssue_form h1)))
  · exact h3 _

theorem State.deliver_form {x : Nat} (h : s.Form) : (s.deliver x).Form := by
  unfold deliver
  extract_lets
  split
  · exact h
  · extract_lets _ _ s1
    have h1 : s1.Form := (modTrap_same ..).form h
    refine form_ite _ h ?_
    split
    next _ e1 => exact clearBehind_form ((attempt_form h).of_eq e1)
    next _ e1 => exact h
    next _ e1 => exact clearBehind_form ((takeTrap_same ..).form h1)

theorem State.wake_form {x : Nat} (h : s.Form) : (s.wake x).Form := by
  unfold wake
  extract_lets
  split
  · exact form_ite _ ((modIss_same ..).form h) h
  · exact h

theorem State.enterHeld_form {x : Nat} (h : s.Form) : (s.enterHeld x).Form := by
  unfold enterHeld
  split
  · exact form_ite _ (modMem_form h) h
  · exact h

theorem State.settleWinner_form {x : Nat} (h : s.Form) : (s.settleWinner x).Form := by
  unfold settleWinner
  split
  · exact form_ite _ (post_form (modMem_form (joinHeld_form h))) h
  · exact h

theorem State.rewait_form {x : Nat} (h : s.Form) : (s.rewait x).Form := by
  unfold rewait
  extract_lets
  refine form_ite _ h ?_
  split
  · exact (modIss_same ..).form (form_ite _ h ((waitFor_same ..).form h))
  · exact (modIss_same ..).form h
  next _ e0 => exact (modIss_same ..).form h

theorem State.takeUnit_form {n x : Nat} (h : s.Form) : (s.takeUnit n x).Form :=
  clearBehind_form ((modIss_same ..).form (modCore_form h))

theorem State.noteHold_form {n x k : Nat} (h : s.Form) : (s.noteHold n x k).Form :=
  form_ite _ (modCore_form ((modIss_same ..).form h)) ((modIss_same ..).form h)

theorem State.noteCauses_form {n : Nat} (h : s.Form) : (s.noteCauses n).Form :=
  form_foldl _ (fun _ _ hu => (modIss_same ..).form hu) _ _ h

theorem State.choose_form {n fuel : Nat} (h : s.Form) : (choose n fuel s).Form := by
  induction fuel generalizing s with
  | zero => exact h
  | succ fuel ih =>
    unfold choose
    extract_lets best cur s1
    clear_value best cur
    have h1 : s1.Form := by
      unfold s1
      split
      · exact form_ite _ (takeUnit_form ((modIss_same ..).form ((releaseUnit_same ..).form h))) h
      · exact takeUnit_form h
      · exact h
    split
    · exact h1
    · extract_lets
      split
      · exact (modIss_same ..).form h1
      · exact noteHold_form h1
      · exact ih ((modIss_same ..).form ((waitFor_same ..).form h1))
      next _ e1 => exact ih ((attempt_form h1).of_eq e1)
      next _ e1 => exact (attempt_form h1).of_eq e1
      next _ e1 => exact (attempt_form h1).of_eq e1

theorem execBundleIssue_form {n : Nat} (h : s.Form) : Keeps (execBundleIssue n s) := by
  unfold execBundleIssue
  extract_lets _ s1 _ s2 s3
  have h1 : s1.Form := modCore_form ((landDue_same ..).form h)
  have h2 : s2.Form := form_foldl _
    (fun _ _ hu1 => deliver_form (settleWinner_form (reopen_form (enterHeld_form (wake_form hu1))))) _ _ h1
  have h3 : s3.Form := form_foldl _ (fun _ _ hu2 => rewait_form hu2) _ _ h2
  exact keeps_next (form_ite _ h (modCur_form (noteCauses_form (choose_form h3))))

/-! ### Replays (16 R320) -/

theorem State.setReplay_form {f i : Nat} {r : Replay} (h : s.Form) : (s.setReplay f i r).Form := modFront_form h

/-! ### Events of a context (02 R38, R40, 08 R182, 12 R266) -/

theorem State.memoryTurn_form {u id : Nat} {ls : List Nat} {must : optParam (List Nat) []} {a : Bool} {t : State}
    (h : s.Form) (e : s.memoryTurn u id ls must = (a, t)) : t.Form := by
  simp only [memoryTurn] at e
  split at e
  · cases e
    exact dropWalks_form (form_foldl _ (fun _ _ hu => serveLine_form hu) _ _
      (form_foldl _ (fun _ _ hu => drainBacks_form hu) _ _ (keepWalks_form h)))
  · cases e
    exact form_foldl _ (fun _ _ hu => (queueLine_same ..).form hu) _ _ (form_foldl _
      (fun _ _ hu => drainBacks_form hu) _ _ (keepWalks_form h))

theorem State.keepRequests_form {u id : Nat} {ls : List Nat} (h : s.Form) : (s.keepRequests u id ls).Form := form_mk h

theorem State.hwTurn_form {u id : Nat} {ls : List Nat} {a : Bool} {t : State} (h : s.Form)
    (e : s.hwTurn u id ls = (a, t)) : t.Form := by
  simp only [hwTurn] at e
  cases e
  exact form_ite _ ((touchLines_same ..).form (memoryTurn_form (keepRequests_form h) rfl)) (memoryTurn_form
    (keepRequests_form h) rfl)

theorem State.touchNear_form {line : Nat} (h : s.Form) : (s.touchNear line).Form := form_ite _ (form_mk h) h

theorem State.sampleSince_form {x src start : Nat} (h : s.Form) : (s.sampleSince x src start).Form :=
  form_ite _ h ((giveSample_same ..).form h)

theorem State.dropOp_form {x id : Nat} (h : s.Form) : (s.dropOp x id).Form := modMem_form h

theorem State.interlockEnds_form {x key dest src : Nat} (h : s.Form) : (s.interlockEnds x key dest src).Form := by
  unfold interlockEnds
  extract_lets
  split
  · exact form_ite _ (sampleIf_form _ _ _ _ _ _ h) h
  · exact h

theorem State.landOp_form {x : Nat} {o : MemOp} {v : BitVec 8192} {src : Nat} (h : s.Form) : (s.landOp x o v src).Form :=
  sampleSince_form (form_ite _ ((setRegS_same ..).form (dropOp_form (interlockEnds_form h)))
    ((setRegV_same ..).form (dropOp_form (interlockEnds_form h))))

theorem State.failOp_form {x : Nat} {o : MemOp} {va src : Nat} (h : s.Form) : (s.failOp x o va src).Form :=
  pendFailed_form (dropOp_form (interlockEnds_form h))

theorem State.publishOwnLine_form {x scope line : Nat} (h : s.Form) : (s.publishOwnLine x scope line).Form :=
  form_ite _ h ((learn_same ..).form (publishAs_form _ _ _ _ _ _ (modMem_form ((retain_same ..).form h))))

theorem State.writeHome_form {x : Nat} {o : MemOp} {bs : List (BitVec 8)} (h : s.Form) : (s.writeHome x o bs).Form :=
  homeUpdate_form h

theorem State.prepareHome_form {x : Nat} {o : MemOp} {op : HomeOp} (h : s.Form) : (s.prepareHome x o op).Form := by
  unfold prepareHome
  extract_lets _ s1
  have h1 : s1.Form := form_ite _ h (form_mk h)
  split
  · exact h
  · exact touchNear_form (publishOwnLine_form h1)
  · exact touchNear_form (publishOwnLine_form h)

theorem State.performHome_form {x : Nat} {o : MemOp} {op : HomeOp} {a : Nat} {t : State} (h : s.Form)
    (e : s.performHome x o op = (a, t)) : t.Form := by
  have k : (s.performHome x o op).2.Form := by
    unfold performHome
    split
    · extract_lets _ _ s1
      have h1 : s1.Form := by
        unfold s1
        split
        · exact h
        · exact (touchL2_same ..).form (readHome_form h)
      exact form_ite _ ((snapshot_same ..).form h1) h1
    · extract_lets c s1
      clear_value c
      have h1 : s1.Form := readHome_form h
      split
      · exact h1
      · exact writeHome_form h1
    · extract_lets
      split
      · exact (touchL2_same ..).form (readHome_form h)
      · exact writeHome_form h
  rw [e] at k
  exact k

theorem State.performPost_form {x : Nat} {p : Pending} (h : s.Form) : (s.performPost x p).Form := by
  unfold performPost
  split
  · exact armBarrier_form h
  · exact arriveAt_form h
  · exact decideAt_form h
  · exact (modIss_same ..).form (publishLines_form _ _ _ _ _ _ h)
  · exact afterPublication_form (publishLines_form _ _ _ _ _ _ h)

theorem execGlobalLoadReturn_form {n k id : Nat} (h : s.Form) : Keeps (execGlobalLoadReturn n k id s) := by
  unfold execGlobalLoadReturn
  extract_lets _ s1
  have h1 : s1.Form := (landDue_same ..).form h
  refine keeps_next ?_
  split
  · exact h1
  · extract_lets
    refine form_ite _ h1 ?_
    refine form_ite _ ?_ ?_
    · split
      next _ e1 => exact memoryTurn_form h1 e1
      next _ e1 => exact dropOp_form ((touchLines_same ..).form (memoryTurn_form h1 e1))
    · split
      next _ e1 => exact memoryTurn_form h1 e1
      next _ e1 =>
        extract_lets s3
        have h3 : s3.Form := (touchLines_same ..).form (memoryTurn_form h1 e1)
        split
        · exact failOp_form h3
        · exact landOp_form h3

theorem execAtomicPerformed_form {n k id : Nat} (h : s.Form) : Keeps (execAtomicPerformed n k id s) := by
  unfold execAtomicPerformed
  extract_lets _ s1
  have h1 : s1.Form := (landDue_same ..).form h
  refine keeps_next ?_
  split
  · exact h1
  · extract_lets
    split
    · exact h1
    · refine form_ite _ ?_ h1
      split
      next _ e1 =>
        exact memoryTurn_form h1 e1
      next _ e1 =>
        extract_lets s3
        have h3 : s3.Form := prepareHome_form (memoryTurn_form h1 e1)
        split
        · exact failOp_form h3
        · exact landOp_form (performHome_form h3 Prod.mk.eta.symm)

theorem execPublication_form {x : Nat} (h : s.Form) : Keeps (execPublication x s) := by
  unfold execPublication
  refine keeps_next ?_
  split
  · exact h
  · exact form_ite _ h (form_ite _ h (performPost_form (modMem_form h)))

theorem execForcedSnapshotBoundary_form {x : Nat} (h : s.Form) : Keeps (execForcedSnapshotBoundary x s) := by
  unfold execForcedSnapshotBoundary
  refine keeps_next ?_
  split
  · exact modMem_form h
  · exact form_ite _ h (sampleRecord_form (reopen_form ((modTrap_same ..).form ((dropSnapshot_same ..).form h))))

theorem timeoutStop_form {x code : Nat} {fa info : BitVec 64} (h : s.Form) : (timeoutStop s x code fa info).Form :=
  (takeTrap_same ..).form h

theorem execBarrierTimeout_form {x : Nat} (h : s.Form) : Keeps (execBarrierTimeout x s) := by
  unfold execBarrierTimeout
  extract_lets s1
  have h1 : s1.Form := (landDue_same ..).form h
  refine keeps_next ?_
  split
  · exact h1
  · exact timeoutStop_form h1

/-! ### Events of the engines (08 R194 to R197, 09 R216, R223, 10, 11 R260, 21 R373) -/

theorem State.landHeld_form {x key : Nat} {held : Bool} {ls : List LineWrite} (h : s.Form) :
    (s.landHeld x key held ls).Form := by
  unfold landHeld
  extract_lets s1
  have h1 : s1.Form := pairFull_form h
  split
  · exact Move.form_ite _ trivial (landLines_form h)
  · refine Move.form_ite _ (landLines_form h) ?_
    split
    · exact h
    · exact Move.form_ite _ (landLines_form h) trivial
    · exact Move.form_ite _ h1 h1
  · exact landLines_form h

theorem State.moveBytes_form {n x key dst : Nat} {held : Bool} {bs : List (BitVec 8)} {bad : List Nat} (h : s.Form) :
    (s.moveBytes n x key dst held bs bad).Form := by
  unfold moveBytes
  refine Move.form_ite _ h ?_
  split
  · exact writeStore_form h
  · exact writeStore_form h
  · exact h
  · split
    · exact h
    next _ _ e0 => exact landHeld_form (writePages_form h e0)

theorem State.spoilRange_form {n x key dst len : Nat} {held : Bool} (h : s.Form) :
    (s.spoilRange n x key dst len held).Form := by
  unfold spoilRange
  split
  next _ _ e0 =>
    extract_lets f2
    have h2 : ∀ x1, (f2 x1).Form := fun _ => moveBytes_form (fresh_form h e0)
    split
    next _ e2 => exact (h2 _).of_eq e2
    next _ _ _ e2 =>
      refine form_ite _ ?_ (fresh_form h e0)
      split
      next _ e3 => exact (h2 _).of_eq e3
      next _ e3 => exact fresh_form h e0
    next _ e2 => exact fresh_form h e0

theorem State.moveOp_form {n : Nat} {e : EngineOp} {dst : Nat} {bs : List (BitVec 8)} {bad : List Nat} (h : s.Form) :
    (s.moveOp n e dst bs bad).Form := by
  unfold moveOp
  refine Move.form_ite _ h ?_
  split
  · exact landSectors_form h
  · exact landSectors_form h
  · exact h
  · split
    · exact h
    next _ _ e0 => exact landHeld_form (fresh_form (writePages_form h e0) rfl)

theorem State.chargeMove_form {x bytes : Nat} {ranges : List (Nat × Nat)} (h : s.Form) :
    (s.chargeMove x bytes ranges).Form :=
  form_foldl _ (fun _ _ hu => charge_form hu) _ _ (charge_form h)

theorem State.engineTurn_form {n id : Nat} {ls : List Nat} {a : Bool} {t : State} (h : s.Form)
    (e : s.engineTurn n id ls = (a, t)) : t.Form := by
  simp only [engineTurn] at e
  split at e
  next _ e0 =>
    cases e
    exact memoryTurn_form h e0
  next _ e0 =>
    cases e
    exact (touchLines_same ..).form (memoryTurn_form h e0)

theorem State.refuseGranule_form {n rc g : Nat} (h : s.Form) : (s.refuseGranule n rc g).Form :=
  form_ite _ ((log_same ..).form h) (form_ite _ ((modTrap_same ..).form h) ((pend_same ..).form h))

theorem State.decideGranules_form {n rc : Nat} {gs : List Nat} {l a : Landed} {t : State} (h : s.Form)
    (e : decideGranules n rc gs s l = (a, t)) : t.Form := by
  induction gs generalizing s l with
  | nil => cases e; exact h
  | cons g gs ih =>
    simp only [decideGranules] at e
    split at e
    · exact ih h e
    · split at e
      · exact ih (refuseGranule_form h) e
      · exact ih h e

theorem State.writePiece_form {rc base : Nat} {data : List (BitVec 8)} {poison accepted : List Nat} {done k : Nat}
    {want : Nat → Bool} (h : s.Form) : (s.writePiece rc base data poison accepted done k want).Form :=
  form_foldl _ (fun _ _ hu => form_ite _ (writeStore_form hu) hu) _ _ h

theorem State.countLanding_form {x rc boff : Nat} (h : s.Form) : (s.countLanding x rc boff).Form := setBarrier_form h

theorem State.landPiece_form {n rc x base len boff : Nat} {data : List (BitVec 8)} {poison : List Nat} {l : Landed}
    {a : Landed} {t : State} (h : s.Form) (e : s.landPiece n rc x base len boff data poison l = (a, t)) : t.Form := by
  simp only [landPiece] at e
  split at e
  · cases e
    exact writePiece_form (decideGranules_form h rfl)
  · cases e
    exact form_ite _ (setBarrier_form (writePiece_form (decideGranules_form h rfl))) (stray_form
      (mendBarrier_form (writePiece_form (decideGranules_form h rfl))))

theorem State.landNext_form {n rc x base len boff : Nat} {data : List (BitVec 8)} {poison : List Nat} {l : Landed}
    {a : Landed} {t : State} (h : s.Form) (e : s.landNext n rc x base len boff data poison l = (a, t)) : t.Form := by
  simp only [landNext] at e
  split at e
  · cases e
    exact countLanding_form (landPiece_form h rfl)
  · exact landPiece_form h e

theorem State.withSource_form {n : Nat} {e : EngineOp} {base len : Nat} {a : EngineOp} {t : State} (h : s.Form)
    (e : s.withSource n e base len = (a, t)) : t.Form := by
  simp only [withSource] at e
  split at e
  · cases e
    exact h
  · cases e
    exact (mend_same ..).form h

theorem State.pieceEarly_form {rc base len : Nat} {data : List (BitVec 8)} {poison : List Nat} {k : Nat} {l : Landed}
    {a : Landed} {t : State} (h : s.Form) (e : s.pieceEarly rc base len data poison k l = (a, t)) : t.Form := by
  simp only [pieceEarly] at e
  cases e
  exact writePiece_form h

theorem State.piecesEarly_form {n k : Nat} {e : EngineOp} {ps : List (Nat × Nat × List (BitVec 8) × List Nat)} (h : s.Form) :
    (s.piecesEarly n k e ps).Form := by
  refine setEngine_form (foldl_form Prod.snd _ (fun acc p hp => ?_) _ _ h)
  extract_lets
  split
  · exact landSectors_form hp
  · exact landSectors_form hp
  · exact hp

theorem State.landEarly_form {n id : Nat} (h : s.Form) : (s.landEarly n id).Form := by
  unfold landEarly
  split
  · exact h
  · split
    next _ _ e0 =>
      extract_lets f2
      have h2 : ∀ (u : State) x2 x3 x4 x5, u.Form → (f2 u x2 x3 x4 x5).Form := by
        intro _ _ _ _ _ hu1
        refine form_ite _ hu1 ?_
        split
        next _ _ e2 =>
          extract_lets _ f4
          have h4 : ∀ x1 x2 x3, (f4 x1 x2 x3).Form := fun _ _ _ => setEngine_form (landSectors_form (fresh_form hu1
            e2))
          split
          · exact h4 _ _ _
          · exact h4 _ _ _
          · exact fresh_form hu1 e2
      refine form_ite _ (fresh_form h e0) ?_
      split
      · exact h2 _ _ _ _ _ (fresh_form h e0)
      · split
        · exact fresh_form h e0
        next _ _ _ e2 =>
          refine form_ite _ (fresh_form h e0) ?_
          split
          · exact fresh_form h e0
          next _ _ _ _ e3 =>
            exact h2 _ _ _ _ _ (setEngine_form (recordData_form (chainRecord_form (fresh_form h e0) e2) e3))
      · refine form_ite _ (fresh_form h e0) ?_
        split
        next _ _ e4 =>
          refine setEngine_form (foldl_form Prod.snd _ (fun acc q hq => ?_) _ _ (withSource_form (fresh_form h e0) e4))
          extract_lets
          split
          · exact pieceEarly_form hq rfl
          · exact hq
      · split
        · exact fresh_form h e0
        · exact piecesEarly_form (fresh_form h e0)
      · exact fresh_form h e0

theorem State.homeBlock_form {b : Block} (h : s.Form) : (s.homeBlock b).Form :=
  (touchLines_same ..).form (form_mk (form_foldl _ (fun _ _ hu => dropL2_form hu) _ _ h))

theorem State.failRing_form {n h tile code va : Nat} (hs : s.Form) : (s.failRing n h tile code va).Form := by
  unfold failRing
  extract_lets _ s1
  have h1 : s1.Form := by
    unfold s1
    split
    · exact form_ite _ (logWalk_form hs) hs
    · exact hs
  exact setRing_form h1

theorem State.readRing_form {n h x : Nat} (hs : s.Form) : (s.readRing n h x).Form := by
  unfold readRing
  extract_lets
  split
  · exact failRing_form hs
  next _ _ _ e0 =>
    extract_lets
    split
    next _ e1 => exact memoryTurn_form (takeReads_form (readGlobal_form hs e0) rfl) e1
    next _ e1 =>
      extract_lets s3
      have h3 : s3.Form := modMem_form ((touchLines_same ..).form
        (memoryTurn_form (takeReads_form (readGlobal_form hs e0) rfl) e1))
      exact form_ite _ (failRing_form h3) (form_ite _ (failRing_form h3)
        (form_ite _ (failRing_form h3) (setRing_form h3)))

theorem State.readRows_form {n p x : Nat} {r : Ring} {vas : List Nat} {off : Nat} {a : List (BitVec 8)} {b : List Nat}
    {t : State} (h : s.Form) (e : readRows n p x r vas off s = .ok (a, b, t)) : t.Form := by
  induction vas generalizing s off a b with
  | nil => cases e; exact h
  | cons va vas ih =>
    simp only [readRows] at e
    split at e
    · cases e
    · split at e
      · cases e
      · split at e
        · cases e
        next _ _ _ e1 =>
          split at e
          · cases e
          next _ _ _ e2 =>
            cases e
            exact ih (readGlobal_form h e1) e2

theorem State.rowLines_form {x : Nat} {r : Ring} {bs : List (BitVec 8)} {bad vas : List Nat} {off : Nat}
    {a : List LineWrite} {t : State} (h : s.Form) (e : rowLines x r bs bad vas off s = .ok (a, t)) : t.Form := by
  induction vas generalizing s off a with
  | nil => cases e; exact h
  | cons va vas ih =>
    simp only [rowLines] at e
    split at e
    · cases e
    next _ _ e1 =>
      split at e
      · cases e
      · split at e
        · cases e
        next _ _ e2 =>
          cases e
          exact ih (writePages_form h e1) e2

theorem State.startFill_form {n h x : Nat} {a : List (BitVec 8)} {b : List Nat} {t : State} (hs : s.Form)
    (e : s.startFill n h x = .ok (a, b, t)) : t.Form := by
  simp only [startFill] at e
  split at e
  · cases e
    exact hs
  · split at e
    · cases e
    next _ _ _ e0 =>
      cases e
      exact setRing_form (modMem_form (takeReads_form (readRows_form hs e0) rfl))

theorem State.fillEarly_form {n h : Nat} (hs : s.Form) : (s.fillEarly n h).Form := by
  unfold fillEarly
  extract_lets
  split
  · exact hs
  · split
    next _ _ e0 =>
      extract_lets
      refine form_ite _ (fresh_form hs e0) ?_
      split
      · exact fresh_form hs e0
      next _ _ _ e1 => exact setRing_form (landSectors_form (startFill_form (fresh_form hs e0) e1))

theorem State.movePieces_form {n : Nat} {e : EngineOp} {ps : List (Nat × Nat × List (BitVec 8) × List Nat)} (h : s.Form) :
    (movePieces n e ps s).Form := by
  induction ps generalizing s with
  | nil => exact h
  | cons p ps ih =>
    unfold movePieces
    split
    · exact ih (landSectors_form h)
    · exact ih (landSectors_form h)
    · split
      next _ e1 => exact ih ((moveBytes_form h).of_eq e1)
      · exact moveBytes_form h

theorem State.spoilColl_form {n : Nat} {e : EngineOp} {c : CollDesc} (h : s.Form) : (s.spoilColl n e c).Form :=
  form_foldl _ (fun _ _ hu => spoilRange_form hu) _ _ h

theorem State.reportSkew_form {x key skew : Nat} (h : s.Form) : (s.reportSkew x key skew).Form := by
  unfold reportSkew
  extract_lets _ v1 _ _ _ s1
  clear_value v1
  have h1 : s1.Form := form_mk h
  refine form_ite _ ?_ h1
  refine form_foldl _ ?_ _ _ h1
  intro _ _ hu1
  extract_lets
  split
  · exact hu1
  · exact form_ite _ (form_mk hu1) (form_mk hu1)

theorem State.landColl_form {n : Nat} {e : EngineOp} {c : CollDesc}
    {r : Nat × List (Nat × List (BitVec 8) × List Nat)} (h : s.Form) : (s.landColl n e c r).Form := by
  unfold landColl
  split
  next _ e0 => exact reportSkew_form (finish_form (chargeMove_form ((movePieces_form h).of_eq e0)))
  next _ _ _ e0 => exact finish_form (spoilColl_form ((movePieces_form h).of_eq e0))
  · exact h
  next _ e0 => exact (movePieces_form h).of_eq e0

theorem execCopyComplete_form {n id : Nat} (h : s.Form) : Keeps (execCopyComplete n id s) := by
  unfold execCopyComplete
  extract_lets s1
  have h1 : s1.Form := (landDue_same ..).form h
  refine keeps_next ?_
  split
  · exact h1
  · split
    · extract_lets f2
      have h2 : ∀ (u : State) x2, u.Form → (f2 u x2).Form := fun _ _ hu1 => finish_form (spoilRange_form hu1)
      refine form_ite _ h1 ?_
      refine form_ite _ (h2 _ _ h1) ?_
      split
      next _ e2 => exact engineTurn_form h1 e2
      next _ e2 =>
        split
        next _ _ e3 =>
          split
          next _ e4 =>
            exact sampleSince_form
              (finish_form (chargeMove_form ((moveOp_form (fresh_form (engineTurn_form h1 e2) e3)).of_eq e4)))
          next _ _ _ e4 => exact h2 _ _ ((moveOp_form (fresh_form (engineTurn_form h1 e2) e3)).of_eq e4)
          · exact engineTurn_form h1 e2
          next _ e4 => exact (moveOp_form (fresh_form (engineTurn_form h1 e2) e3)).of_eq e4
    · exact h1

theorem State.afterRecord_form {n : Nat} {e : EngineOp} {p : Nat} {r : ChainRecord} {st : Nat} (h : s.Form) :
    (s.afterRecord n e p r st).Form := by
  unfold afterRecord
  extract_lets
  split
  · exact finish_form h
  next _ _ e0 =>
    extract_lets
    split
    next _ _ _ e1 => exact finish_form ((landHeld_form (writePages_form h e0)).of_eq e1)
    · exact writePages_form h e0
    next _ e1 => exact (landHeld_form (writePages_form h e0)).of_eq e1
    next _ e1 =>
      exact form_ite _ (sampleSince_form (finish_form ((landHeld_form (writePages_form h e0)).of_eq e1)))
        (setEngine_form ((landHeld_form (writePages_form h e0)).of_eq e1))

theorem execChainRecord_form {n id : Nat} (h : s.Form) : Keeps (execChainRecord n id s) := by
  unfold execChainRecord
  extract_lets s1
  have h1 : s1.Form := (landDue_same ..).form h
  refine keeps_next ?_
  split
  · exact h1
  · split
    · split
      · exact finish_form h1
      next _ _ _ e1 =>
        extract_lets f3
        have h3 : ∀ (u : State) x2 x3, u.Form → (f3 u x2 x3).Form := fun _ _ _ hu2 => finish_form (spoilRange_form
          hu2)
        refine form_ite _ h1 ?_
        refine form_ite _ (sampleSince_form (finish_form (chainRecord_form h1 e1))) ?_
        split
        · exact h3 _ _ _ (chainRecord_form h1 e1)
        next _ _ _ _ e3 =>
          split
          next _ e4 => exact setEngine_form (engineTurn_form (recordData_form (chainRecord_form h1 e1) e3) e4)
          next _ e4 =>
            split
            next _ _ e5 =>
              split
              next _ e6 =>
                exact afterRecord_form
                  (chargeMove_form ((moveOp_form (fresh_form (engineTurn_form (recordData_form
                  (chainRecord_form h1 e1) e3) e4) e5)).of_eq e6))
              next _ _ _ e6 =>
                exact h3 _ _ _
                  ((moveOp_form (fresh_form (engineTurn_form (recordData_form (chainRecord_form h1 e1) e3) e4)
                  e5)).of_eq e6)
              · exact setEngine_form (engineTurn_form (recordData_form (chainRecord_form h1 e1) e3) e4)
              next _ e6 =>
                exact (moveOp_form (fresh_form (engineTurn_form (recordData_form (chainRecord_form h1 e1) e3) e4)
                  e5)).of_eq e6
    · exact h1

theorem execCancelAcknowledge_form {n id : Nat} (h : s.Form) : Keeps (execCancelAcknowledge n id s) := by
  unfold execCancelAcknowledge
  extract_lets s1
  have h1 : s1.Form := (landDue_same ..).form h
  refine keeps_next ?_
  split
  · exact h1
  · exact form_ite _ (acknowledge_form h1) h1

theorem execMulticastPieceLanding_form {n id q : Nat} (h : s.Form) : Keeps (execMulticastPieceLanding n id q s) := by
  unfold execMulticastPieceLanding
  extract_lets _ s1
  have h1 : s1.Form := (landDue_same ..).form ((landDue_same ..).form h)
  refine keeps_next ?_
  split
  · exact h1
  · split
    · refine form_ite _ h1 ?_
      split
      next _ _ e2 =>
        extract_lets r2 r3
        have h2 : r2.2.Form := landNext_form (withSource_form h1 e2) rfl
        have h3 : r3.2.Form := form_ite _ (noteJoin_form h2) h2
        exact form_ite _ (finish_form (chargeMove_form h3)) (setEngine_form h3)
    · exact h1

theorem execLoadBlockFill_form {n id tag : Nat} (h : s.Form) : Keeps (execLoadBlockFill n id tag s) := by
  unfold execLoadBlockFill
  extract_lets s1
  have h1 : s1.Form := (landDue_same ..).form h
  refine keeps_next ?_
  split
  · exact h1
  · split
    · refine form_ite _ h1 ?_
      split
      · exact finish_form h1
      next _ _ e1 =>
        extract_lets
        refine form_ite _ (finish_form (translateRange_form _ _ _ _ _ _ _ _ h1 e1)) ?_
        split
        next _ e2 => exact memoryTurn_form (translateRange_form _ _ _ _ _ _ _ _ h1 e1) e2
        next _ e2 =>
          exact finish_form
            (chargeMove_form (homeBlock_form (memoryTurn_form (translateRange_form _ _ _ _ _ _ _ _ h1 e1) e2)))
    · exact h1

theorem execShuttleFill_form {n h : Nat} (hs : s.Form) : Keeps (execShuttleFill n h s) := by
  unfold execShuttleFill
  extract_lets s1
  have h1 : s1.Form := (landDue_same ..).form hs
  refine keeps_next ?_
  split
  · exact h1
  · refine form_ite _ h1 ?_
    refine form_ite _ (form_ite _ h1 (readRing_form h1)) ?_
    refine form_ite _ h1 ?_
    split
    · exact failRing_form h1
    next _ _ _ e1 =>
      split
      next _ e2 => exact memoryTurn_form (startFill_form h1 e1) e2
      next _ e2 =>
        exact sampleSince_form
          (chargeMove_form (setRing_form (landSectors_form (memoryTurn_form (startFill_form h1 e1) e2))))

theorem execShuttlePull_form {n h : Nat} (hs : s.Form) : Keeps (execShuttlePull n h s) := by
  unfold execShuttlePull
  extract_lets s1
  have h1 : s1.Form := (landDue_same ..).form hs
  refine keeps_next ?_
  split
  · exact h1
  · refine form_ite _ h1 ?_
    refine form_ite _ (form_ite _ h1 (readRing_form h1)) ?_
    refine form_ite _ h1 ?_
    split
    · exact h1
    · extract_lets
      split
      · exact failRing_form h1
      next _ _ e1 =>
        split
        next _ e2 => exact memoryTurn_form (rowLines_form h1 e1) e2
        next _ e2 =>
          split
          next _ _ _ e3 => exact failRing_form ((landHeld_form (memoryTurn_form (rowLines_form h1 e1) e2)).of_eq e3)
          · exact h1
          next _ e3 => exact (landHeld_form (memoryTurn_form (rowLines_form h1 e1) e2)).of_eq e3
          next _ e3 =>
            exact chargeMove_form (setRing_form ((landHeld_form (memoryTurn_form (rowLines_form h1 e1) e2)).of_eq e3))

theorem execHeddleRowArrival_form {n h : Nat} (hs : s.Form) : Keeps (execHeddleRowArrival n h s) := by
  unfold execHeddleRowArrival
  extract_lets
  refine keeps_next ?_
  split
  · exact hs
  · refine form_ite _ hs ?_
    split
    next _ e0 => exact memoryTurn_form hs e0
    next _ e0 =>
      extract_lets s2 s3 s4 s5
      have h2 : s2.Form := form_ite _ (memoryTurn_form hs e0) ((touchL2_same ..).form (memoryTurn_form hs e0))
      have h3 : s3.Form := setStream_form h2
      have h4 : s4.Form := form_foldl _ (fun _ _ hu3 => interlockEnds_form hu3) _ _ h3
      have h5 : s5.Form := chargeBytes_form h4
      exact form_ite _ (sampleSince_form h5) h5

theorem execDeckLoadComplete_form {n id : Nat} (h : s.Form) : Keeps (execDeckLoadComplete n id s) := by
  unfold execDeckLoadComplete
  refine keeps_next ?_
  split
  · exact h
  · extract_lets
    split
    · extract_lets
      split
      next _ e0 => exact engineTurn_form h e0
      next _ e0 => exact finish_form (chargeMove_form (modCore_form (engineTurn_form h e0)))
    · exact h

theorem execCollComplete_form {n id : Nat} {peers : List PeerPart} (h : s.Form) :
    Keeps (execCollComplete n id peers s) := by
  unfold execCollComplete
  extract_lets s1
  have h1 : s1.Form := (landDue_same ..).form h
  refine keeps_next ?_
  split
  · exact h1
  · extract_lets
    split
    · extract_lets
      refine form_ite _ (finish_form h1) ?_
      split
      · exact form_ite _ h1 (landColl_form h1)
      · refine form_ite _ h1 ?_
        split
        next _ e1 => exact engineTurn_form h1 e1
        next _ e1 =>
          exact form_ite _ (engineTurn_form h1 e1) (form_ite _ (finish_form (spoilColl_form (engineTurn_form h1 e1)))
            (form_ite _ (setEngine_form (engineTurn_form h1 e1)) (landColl_form (engineTurn_form h1 e1))))
    · exact h1

theorem execSpawnComplete_form {x : Nat} (h : s.Form) : Keeps (execSpawnComplete x s) := by
  unfold execSpawnComplete
  extract_lets s1
  have h1 : s1.Form := (landDue_same ..).form h
  refine keeps_next ?_
  split
  · exact h1
  · refine form_ite _ ?_ h1
    split
    next _ e1 => exact memoryTurn_form h1 e1
    next _ e1 => exact landOp_form ((touchLines_same ..).form (memoryTurn_form h1 e1))

/-! ### The card sequencer (09 R218 to R229) -/

theorem State.modSeq_form {n : Nat} {f : Sequencer → Sequencer} (h : s.Form) : (s.modSeq n f).Form := modCore_form h

theorem State.stopDeck_form {n : Nat} {faults : List (Nat × Trap)} (h : s.Form) : (s.stopDeck n faults).Form := by
  unfold stopDeck
  extract_lets
  refine form_foldl _ ?_ _ _ h
  intro _ _ hu
  extract_lets _ s2
  have h2 : s2.Form := modSeq_form hu
  split
  · exact (pend_same ..).form h2
  · exact form_ite _ ((pend_same ..).form h2) h2

theorem State.runStep_form {n : Nat} {i : Instr} {row a : Nat} (h : s.Form) : (s.runStep n i row a).Form := by
  cases i
  case mxpushWstore => exact pushWstore_form h
  case mxpushStream | mxgang => exact pushStream_form h
  case mxflip => exact (schedule_same ..).form h
  case mxacc => exact accBeat_form h
  case mxbp => exact planeBeat_form h
  case mxdrain => exact drainBeat_form h
  case mxzero => exact zeroBeat_form h
  all_goals exact h

theorem State.cardWeight_form {n w : Nat} (h : s.Form) : (s.cardWeight n w).Form :=
  chargeWeight_form (addWeight_form h)

theorem State.emitStep_form {n : Nat} {a : Option Trap} {t : State} (h : s.Form) (e : s.emitStep n = (a, t)) : t.Form := by
  have k : (s.emitStep n).2.Form := by
    unfold emitStep
    extract_lets _ _ _ _ s0
    have h0 : s0.Form := modCur_form h
    split
    · exact h
    · exact h
    · extract_lets lone
      clear_value lone
      split
      · exact h
      · split
        · exact h
        · extract_lets s1
          have h1 : s1.Form := runStep_form h0
          split
          · exact modCur_form h1
          · exact cardWeight_form (modCore_form (modCur_form (modSeq_form h1)))
  rw [e] at k
  exact k

theorem State.freeSteps_form {n before : Nat} (h : s.Form) : (s.freeSteps n before).Form := form_mk (modCore_form h)

theorem State.emitAll_form {ms : List Nat} {a : List (Nat × Trap)} {t : State} (h : s.Form) (e : emitAll ms s = (a, t)) :
    t.Form := by
  induction ms generalizing s a with
  | nil => cases e; exact h
  | cons m ms ih =>
    cases e
    exact ih (emitStep_form h rfl) rfl

theorem State.requestCopy_form {n : Nat} (h : s.Form) : (s.requestCopy n).Form := by
  unfold requestCopy
  extract_lets _ _ _ _ _ _ _ _ s1
  have h1 : s1.Form := by
    refine form_ite _ (fork_form h) ?_
    split
    · exact fork_form h
    next _ _ _ e0 => exact fork_form (readIssuer_form h e0)
  exact chargeWeight_form (modCore_form (modSeq_form h1))

theorem State.queueCopies_form {ms : List Nat} (h : s.Form) : (s.queueCopies ms).Form :=
  form_foldl _ (fun _ _ hu => form_ite _ (modSeq_form hu) hu) _ _ h

theorem State.advance_form {n : Nat} {nx : Next} (h : s.Form) : (s.advance n nx).Form :=
  modSeq_form (form_foldl _ (fun _ _ hu => form_ite _ (mendBarrier_form hu) hu) _ _ h)

theorem State.finishDeck_form {n : Nat} (h : s.Form) : (s.finishDeck n).Form :=
  form_foldl _ (fun _ _ hu => form_ite _ (modCore_form (modSeq_form hu)) (modSeq_form hu)) _ _ h

theorem State.endVisit_form {n : Nat} (h : s.Form) : (s.endVisit n).Form :=
  form_ite _ (finishDeck_form (form_foldl _ (fun _ _ hu => advance_form hu) _ _ h)) (form_foldl _
    (fun _ _ hu => advance_form hu) _ _ h)

theorem State.arriveDue_form {n : Nat} (h : s.Form) : (s.arriveDue n).Form :=
  form_ite _ h (form_foldl _ (fun _ _ hu => arriveAt_form (form_ite _ (noteJoin_form hu) hu)) _ _ (modCore_form h))

theorem execCardStep_form {n : Nat} (h : s.Form) : Keeps (execCardStep n s) := by
  unfold execCardStep
  extract_lets s1 _ _ _ _ _ s2
  have h1 : s1.Form := form_foldl _ (fun _ _ hu => (landDue_same ..).form hu) _ _ ((landDue_same ..).form h)
  have h2 : s2.Form := form_ite _ (emitAll_form h1 rfl) (form_foldl _ (fun _ _ hu1 => freeSteps_form hu1) _ _
    (emitAll_form h1 rfl))
  refine keeps_next ?_
  refine form_ite _ h1 ?_
  refine form_ite _ h1 ?_
  split
  · exact emitAll_form h1 rfl
  · exact stopDeck_form h2

theorem execCardCopyRequest_form {n : Nat} (h : s.Form) : Keeps (execCardCopyRequest n s) := by
  unfold execCardCopyRequest
  extract_lets s1
  have h1 : s1.Form := (landDue_same ..).form h
  refine keeps_next ?_
  refine form_ite _ h1 ?_
  refine form_ite _ (queueCopies_form h1) ?_
  split
  · exact endVisit_form (form_foldl _ (fun _ _ hu1 => requestCopy_form hu1) _ _ h1)
  · exact stopDeck_form h1

theorem execCardVisit_form {n : Nat} (h : s.Form) : Keeps (execCardVisit n s) := by
  unfold execCardVisit
  extract_lets s1
  have h1 : s1.Form := arriveDue_form ((landDue_same ..).form h)
  refine keeps_next ?_
  refine form_ite _ h1 ?_
  split
  · exact stopDeck_form h1
  · exact endVisit_form h1

end

end Sys2Proof.Machine

/-! SUPPORT. The canonical form of memory: the events of tasks, streams, the memory system, the governor and the system,
time, and O12. -/

namespace Sys2Proof.Machine

open State

section

variable {s : State}

/-! ### The dispatchers (04 R87, R92, 16 R304, R310 to R313) -/

theorem State.acquireCounter_form {p slot x : Nat} (h : s.Form) : (s.acquireCounter p slot x).Form := by
  unfold acquireCounter
  refine form_ite _ h ?_
  split
  · exact readHome_form h
  · exact h

theorem State.startMember_form {p : Nat} {k : Placing} {n member : Nat} (h : s.Form) :
    (s.startMember p k n member).Form := by
  unfold startMember
  extract_lets
  split
  · exact h
  · exact (snapshot_same ..).form (acquireCounter_form (form_mk (modStore_form (setCtx_form h))))

theorem State.place_form {p : Nat} {k : Placing} {cores : List Nat} (h : s.Form) : (s.place p k cores).Form := by
  unfold place
  extract_lets s1 s2
  have h1 : s1.Form := slotPut_form (slotPut_form h)
  have h2 : s2.Form := by
    unfold s2
    split
    · exact setWeft_form h1
    · exact h1
  exact form_foldl _ (fun _ _ hu2 => startMember_form hu2) _ _ h2

theorem State.passOthers_form {p d l : Nat} (h : s.Form) : (s.passOthers p d l).Form := modPart_form h

theorem State.dispatchOne_form {p d : Nat} (h : s.Form) : (s.dispatchOne p d).Form := by
  unfold dispatchOne
  extract_lets
  split
  · exact h
  · extract_lets s1 s2
    have h1 : s1.Form := setLevel_form h
    have h2 : s2.Form := by
      unfold s2
      split
      · exact place_form h1
      · exact (log_same ..).form (failSlot_form h1)
    exact modDie_form (passOthers_form h2)

theorem State.hwReads_form {u p id : Nat} {rs : List (Nat × Nat)} {a : Bool} {t : State} (h : s.Form)
    (e : s.hwReads u p id rs = (a, t)) : t.Form := by
  simp only [hwReads] at e
  exact hwTurn_form (form_foldl _ (fun _ _ hu => hwWalks_form _ _ _ _ _ hu) _ _ h) e

theorem State.inHwTurn_form {u p : Nat} {rs : List (Nat × Nat)} {act : State → State} (h : s.Form)
    (hact : ∀ u, u.Form → (act u).Form) : (s.inHwTurn u p rs act).Form := by
  unfold inHwTurn
  refine form_ite _ h ?_
  split
  next _ e0 => exact hact _ (hwReads_form h e0)
  next _ e0 => exact hwReads_form h e0

theorem State.refillOne_form {p d : Nat} (h : s.Form) : (s.refillOne p d).Form := by
  unfold refillOne
  extract_lets _ s1
  have h1 : s1.Form := modPart_form h
  split
  · exact h
  · exact form_ite _ h1 (enqueue_form h1)

theorem State.hostRequeue_form {p head fuel : Nat} (h : s.Form) : (hostRequeue p head fuel s).Form := by
  induction fuel generalizing s with
  | zero => exact h
  | succ fuel ih =>
    unfold hostRequeue
    refine form_ite _ h ?_
    split
    · exact h
    · exact ih (refillOne_form h)

theorem execRingRefill_form {p : Nat} (h : s.Form) : Keeps (execRingRefill p s) := by
  unfold execRingRefill
  refine keeps_next ?_
  refine form_ite _ h ?_
  split
  · exact h
  · split
    · exact enqueue_form (modPart_form h)
    · exact form_ite _ h (inHwTurn_form h (fun _ hu => refillOne_form hu))

/-! ### Saves and resumption (14 R295 to R300) -/

theorem State.writeImage_form {p addr : Nat} {parts : List (Nat × List (BitVec 8))} (h : s.Form) :
    (s.writeImage p addr parts).Form :=
  form_foldl _ (fun _ _ hu => hwWrite_form _ _ _ _ hu) _ _ h

theorem State.beginOne_form {alone : Bool} {x : Nat} (h : s.Form) : (beginOne alone s x).Form := by
  unfold beginOne
  extract_lets _ s1 _ s2 s3 s4
  have h1 : s1.Form := (landDue_same ..).form h
  have h2 : s2.Form := modCore_form ((modTrap_same ..).form h1)
  have h3 : s3.Form := (modIss_same ..).form ((releaseUnit_same ..).form h2)
  have h4 : s4.Form := clearBehind_form h3
  exact form_ite _ h (form_ite _ (modSeq_form h4) h4)

theorem State.beginSave_form {x : Nat} {alone : Bool} (h : s.Form) : (s.beginSave x alone).Form :=
  form_foldl _ (fun _ _ hu => beginOne_form hu) _ _ h

theorem State.leaveCore_form {x : Nat} {alone : Bool} (h : s.Form) : (s.leaveCore x alone).Form :=
  setCtx_form
    (clearBehind_form (modCore_form (form_foldl _ (fun _ _ hu => setRing_form hu) _ _ (releaseBlocks_form
    (form_ite _ (giveUnits_form h) h)))))

theorem State.mendCore_form {n : Nat} (h : s.Form) : (s.mendCore n).Form :=
  form_foldl _ (fun _ _ hu => modStore_form ((mend_same ..).form hu)) _ _ h

theorem State.saveCore_form {p n addr : Nat} (h : s.Form) : (s.saveCore p n addr).Form := by
  unfold saveCore
  extract_lets s1 _ s2 _ s3
  have h1 : s1.Form := mendCore_form (fillBobbin_form h)
  have h2 : s2.Form := writeImage_form h1
  have h3 : s3.Form := form_mk h2
  exact modCore_form h3

theorem State.gatherCore_form {p n : Nat} (h : s.Form) : (s.gatherCore p n).Form := by
  unfold gatherCore
  refine form_ite _ h ?_
  split
  · exact h
  · exact chargeBytes_form (saveCore_form h)

theorem State.saveCores_form {p : Nat} {on : Nat → Bool} (h : s.Form) : (s.saveCores p on).Form :=
  form_foldl _ (fun _ _ hu => gatherCore_form ((landDue_same ..).form hu)) _ _ (form_foldl _
    (fun _ _ hu => form_ite _ ((modIss_same ..).form hu) (beginSave_form ((landDue_same ..).form hu))) _ _ (form_mk
    h))

theorem State.endSave_form {x : Nat} {alone : Bool} (h : s.Form) : (s.endSave x alone).Form := by
  unfold endSave
  extract_lets _ _ s1 _ s2 s3
  have h1 : s1.Form := joinAll_form h
  have h2 : s2.Form := modMem_form h1
  have h3 : s3.Form := publishLines_form _ _ _ _ _ _ h2
  refine form_ite _ (modMem_form h2) ?_
  split
  · exact h1
  · extract_lets _ s4 _ s5 s6
    have h4 : s4.Form := chargeBytes_form (writeImage_form h3)
    have h5 : s5.Form := form_mk h4
    have h6 : s6.Form := leaveCore_form h5
    refine form_ite _ ?_ h6
    refine form_ite _ h1 ?_
    split
    · exact h1
    · exact chargeBytes_form (saveCore_form h6)

theorem State.endSaves_form {x : Nat} (h : s.Form) : (s.endSaves x).Form := by
  unfold endSaves
  extract_lets _ _ s1
  have h1 : s1.Form := form_foldl _ (fun _ _ hu => endSave_form hu) _ _ h
  split
  · exact endSave_form h
  · exact form_ite _ h1 h

theorem State.reopenRing_form {x : Nat} {h : Nat × Ring} (hs : s.Form) : (s.reopenRing x h).Form := setRing_form hs

theorem State.dropSaved_form {r : SaveRecord} {x : Nat} (h : s.Form) : (s.dropSaved r x).Form := by
  unfold dropSaved
  extract_lets s1 s2
  have h1 : s1.Form := closeUnits_form (giveUnits_form h)
  have h2 : s2.Form := modStore_form h1
  split
  · exact h2
  · exact form_ite _ (slotPut_form (dropStep_form (endPick_form h2))) (dropSlot_form
      (dropStep_form (endPick_form h2)))

theorem State.restoreAt_form {r : SaveRecord} {x : Nat} (h : s.Form) : (s.restoreAt r x).Form := by
  unfold restoreAt
  extract_lets _ _ _ _ _ _ s1 s2 s3 s4 s5 s6 s7
  have h1 : s1.Form := modStore_form (setCtx_form h)
  have h2 : s2.Form := modCore_form (giveUnits_form h1)
  have h3 : s3.Form := form_ite _ h2 ((snapshot_same ..).form h2)
  have h4 : s4.Form := form_foldl _ (fun _ _ hu3 => reopenRing_form hu3) _ _ h3
  have h5 : s5.Form := by
    unfold s5
    split
    · exact modSeq_form h4
    · exact h4
  have h6 : s6.Form := by
    unfold s6
    split
    · exact moveStep_form h5
    · exact h5
  have h7 : s7.Form := chargeBytes_form h6
  exact form_ite _ ((sendMessage_same ..).form h7) h7

theorem State.resumeAt_form {r : SaveRecord} {x : Nat} (h : s.Form) : (s.resumeAt r x).Form :=
  form_ite _ (dropSaved_form h) (restoreAt_form h)

theorem State.noteMove_form {p old n : Nat} (h : s.Form) : (s.noteMove p old n).Form := modPart_form (form_mk h)

theorem State.loadCore_form {r : CoreSave} {n : Nat} (h : s.Form) : (s.loadCore r n).Form :=
  modCore_form (fillBobbin_form h)

theorem State.resumeAlone_form {r : SaveRecord} (h : s.Form) : (s.resumeAlone r).Form := by
  unfold resumeAlone
  extract_lets
  refine form_ite _ ?_ h
  split
  · exact resumeAt_form (form_mk h)
  · exact h

theorem State.resumeWith_form {n : Nat} {q : SaveRecord} (h : s.Form) : (resumeWith n s q).Form := by
  unfold resumeWith
  extract_lets
  split
  · exact form_ite _ (resumeAt_form h) (form_mk h)
  · exact form_mk h

theorem State.resumeCore_form {r : SaveRecord} {n : Nat} (h : s.Form) : (s.resumeCore r n).Form := by
  unfold resumeCore
  extract_lets
  split
  · exact gatherCore_form ((landDue_same ..).form h)
  · exact form_ite _ (form_foldl _ (fun _ _ hu => resumeWith_form hu) _ _
      (chargeBytes_form (noteMove_form (loadCore_form (form_mk h))))) h

theorem State.stopForDump_form {x : Nat} (h : s.Form) : (s.stopForDump x).Form :=
  clearBehind_form ((takeTrap_same ..).form ((modTrap_same ..).form h))

theorem execContextSave_form {x : Nat} (h : s.Form) : Keeps (execContextSave x s) := by
  unfold execContextSave
  extract_lets s1
  have h1 : s1.Form := (landDue_same ..).form h
  refine keeps_next ?_
  refine form_ite _ h1 ?_
  split
  · exact beginSave_form h1
  · exact form_ite _ (endSaves_form (beginSave_form h1)) (beginSave_form h1)

theorem execResumption_form {r n : Nat} (h : s.Form) : Keeps (execResumption r n s) := by
  unfold execResumption
  extract_lets s1
  have h1 : s1.Form := (landDue_same ..).form h
  refine keeps_next ?_
  split
  · exact h
  · exact form_ite _ (resumeAlone_form h1) (resumeCore_form h1)

/-! ### Stream front ends (16 R305, R318 to R321) -/

theorem State.frontWrite_form {p va : Nat} {bs : List (BitVec 8)} {t : State} (h : s.Form)
    (e : s.frontWrite p va bs = .ok t) : t.Form := by
  simp only [frontWrite] at e
  split at e
  · cases e
  · cases e
    exact repairPoison_form _ _ (publishCells_form _ _ _ _ _ (hwWalks_form _ _ _ _ _ h))

theorem State.putStatus_form {f v : Nat} (h : s.Form) : (s.putStatus f v).Form :=
  form_ite _ h (hwWrite_form _ _ _ _ h)

theorem State.haltFront_form {f code : Nat} (h : s.Form) : (s.haltFront f code).Form :=
  (notice_same ..).form (putStatus_form (setFront_form h))

theorem State.inFrontTurn_form {f : Nat} {act : State → State} (h : s.Form) (hact : ∀ u, u.Form → (act u).Form) :
    (s.inFrontTurn f act).Form :=
  inHwTurn_form h (fun _ hu => hact _ hu)

theorem State.consume_form {f : Nat} {src : Source} {len : Nat} (h : s.Form) : (s.consume f src len).Form := by
  unfold consume
  extract_lets _ s1 s2
  have h1 : s1.Form := setFront_form h
  have h2 : s2.Form := hwWrite_form _ _ _ _ h1
  split
  · exact setReplay_form h
  · exact putStatus_form h2

theorem State.setLaunch_form {f : Nat} {src : Source} {l : Launch} (h : s.Form) : (s.setLaunch f src l).Form := by
  unfold setLaunch
  split
  · exact modFront_form h
  · exact setReplay_form h

theorem State.addTasks_form {f : Nat} {src : Source} {qs : List Queued} (h : s.Form) : (s.addTasks f src qs).Form :=
    by
  unfold addTasks
  split
  · exact modFront_form h
  · exact setReplay_form h

theorem State.runKind_form {f k : Nat} {act : Source → List (BitVec 8) → State → Ran}
    {qs : List (Source × Except Nat (List (BitVec 8)))} (hact : ∀ src bs u, u.Form → (act src bs u).Form) (h : s.Form) :
    (runKind f k act qs s).Form := by
  induction qs generalizing s with
  | nil => exact h
  | cons q rest ih =>
    obtain ⟨src, bs | bs⟩ := q
    · exact ih h
    · have hr : (if reservedSet bs then Ran.halts 0x02 s else act src bs s).Form := Ran.form_ite _ h (hact _ _ _ h)
      unfold runKind
      refine form_ite _ ?_ (ih h)
      generalize (if reservedSet bs then Ran.halts 0x02 s else act src bs s) = r at hr ⊢
      cases r with
      | waits => exact ih h
      | halts code s1 => exact haltFront_form hr
      | goes s1 => exact hr
      | done s1 => exact consume_form hr

theorem State.onKind_form {f k : Nat} {act : Source → List (BitVec 8) → State → Ran} (h : s.Form)
    (hact : ∀ x1 x2 u, u.Form → (act x1 x2 u).Form) : (s.onKind f k act).Form :=
  form_ite _ (inFrontTurn_form h (fun _ hu => runKind_form (fun _ _ _ hu1 => hact _ _ _ hu1) hu)) h

theorem State.joinView_form {f : Nat} (h : s.Form) : (s.joinView f).Form := modFront_form h

theorem State.releaseView_form {f : Nat} (h : s.Form) : (s.releaseView f).Form := form_mk h

theorem State.startWeft_form {p n : Nat} {fields : List (BitVec 8)} {a : Nat} {t : State} (h : s.Form)
    (e : s.startWeft p n fields = .ok (a, t)) : t.Form := by
  simp only [startWeft] at e
  split at e
  · cases e
  · cases e
    exact modPart_form (hwWriteAs_form h)

theorem State.startLaunch_form {f : Nat} {src : Source} {bs : List (BitVec 8)} (h : s.Form) :
    (s.startLaunch f src bs).Form := by
  unfold startLaunch
  extract_lets
  refine Ran.form_ite _ h ?_
  split
  · exact h
  · exact h
  · extract_lets
    refine Ran.form_ite _ h ?_
    refine Ran.form_ite _ h ?_
    refine Ran.form_ite _ h ?_
    refine Ran.form_ite _ h ?_
    refine Ran.form_ite _ h ?_
    refine Ran.form_ite _ ?_ (setLaunch_form h)
    split
    · exact h
    next _ _ e0 => exact setLaunch_form (startWeft_form h e0)

theorem State.produce_form {f i : Nat} {packet : List (BitVec 8)} (h : s.Form) : (s.produce f i packet).Form := by
  unfold produce
  extract_lets _ s1
  have h1 : s1.Form := fillSlot_form h
  split
  next _ e1 => exact queueTask_form h1 e1
  next _ e1 => exact trivial
  next _ _ e1 => exact h

theorem State.producePick_form {f : Nat} {src : Source} {l : Launch} {w : Weft} {packet : List (BitVec 8)} {i : Nat}
    (h : s.Form) : (s.producePick f src l w packet i).Form := by
  unfold producePick
  extract_lets _ _ f1
  have h1 : ∀ (u : State), u.Form → (f1 u).Form := fun _ hu => setLaunch_form (addTasks_form (setWeft_form hu))
  refine Ran.form_ite _ trivial ?_
  refine Ran.form_ite _ ?_ ?_
  · split
    next _ e1 => exact h1 _ ((produce_form h).of_eq e1)
    next _ e1 => exact produce_form h
  · split
    · exact trivial
    · exact Ran.form_ite _ trivial (h1 _ (enqueue_form (fillSlot_form h)))

theorem State.producePair_form {f : Nat} {src : Source} {l : Launch} {coord i j : Nat} (h : s.Form) :
    (s.producePair f src l coord i j).Form := by
  unfold producePair
  extract_lets _ _ _ _ s1 s2
  have h1 : s1.Form := fillSlot_form h
  have h2 : s2.Form := modPart_form h1
  split
  next _ e2 => exact setLaunch_form (addTasks_form ((produce_form h2).of_eq e2))
  next _ _ e2 => exact h
  next _ e2 => exact trivial

theorem State.stepLaunch_form {f : Nat} {src : Source} {l : Launch} (h : s.Form) : (s.stepLaunch f src l).Form := by
  unfold stepLaunch
  extract_lets _ _ _ v3
  clear_value v3
  refine Ran.form_ite _ h ?_
  split
  · split
    · exact h
    · refine Ran.form_ite _ h ?_
      split
      · exact trivial
      · exact producePick_form h
  · refine Ran.form_ite _ ?_ ?_
    · split
      · exact producePair_form h
      · exact trivial
    · split
      · exact trivial
      · split
        next _ e0 => exact setLaunch_form (addTasks_form ((produce_form h).of_eq e0))
        next _ e0 => exact produce_form h

theorem State.sigsem_form {f : Nat} {src : Source} {bs : List (BitVec 8)} (h : s.Form) : (s.sigsem f src bs).Form :=
    by
  unfold sigsem
  extract_lets _ _ _ s1
  have h1 : s1.Form := releaseView_form (form_ite _ (joinView_form h) h)
  refine Ran.form_ite _ h ?_
  refine Ran.form_ite _ trivial ?_
  split
  · exact h
  · extract_lets
    split
    · exact h
    next _ e1 => exact frontWrite_form h1 e1

theorem State.waitsem_form {f : Nat} {bs : List (BitVec 8)} (h : s.Form) : (s.waitsem f bs).Form := by
  unfold waitsem
  extract_lets
  refine Ran.form_ite _ h ?_
  split
  · exact h
  · exact Ran.form_ite _ (joinView_form h) trivial

theorem State.patch_form {f : Nat} {bs : List (BitVec 8)} (h : s.Form) : (s.patch f bs).Form := by
  unfold patch
  extract_lets
  refine Ran.form_ite _ h ?_
  refine Ran.form_ite _ trivial ?_
  split
  · exact h
  next _ e0 => exact frontWrite_form h e0

theorem State.replay_form {f : Nat} {bs : List (BitVec 8)} (h : s.Form) : (s.replay f bs).Form := by
  unfold replay
  extract_lets
  refine Ran.form_ite _ h ?_
  split
  · exact h
  · extract_lets _ _ f1
    have h1 : ∀ (u : State) x2 x3 x4, u.Form → (f1 u x2 x3 x4).Form := fun _ _ _ _ hu => modFront_form (hwWrite_form _
      _ _ _ hu)
    refine Ran.form_ite _ h ?_
    refine Ran.form_ite _ trivial ?_
    refine Ran.form_ite _ ?_ ?_
    · split
      · exact h
      next _ e1 => exact h1 _ _ _ _ (frontWrite_form h e1)
    · refine Ran.form_ite _ ?_ trivial
      split
      · exact h
      · split
        · exact h
        next _ e1 =>
          split
          · exact h
          next _ e2 => exact h1 _ _ _ _ (frontWrite_form (frontWrite_form h e1) e2)

theorem State.startPending_form {p g : Nat} (h : s.Form) : (s.startPending p g).Form := form_mk h

theorem State.readTail_form {f : Nat} (h : s.Form) : (s.readTail f).Form := by
  unfold readTail
  extract_lets
  split
  · exact haltFront_form h
  · extract_lets s1
    have h1 : s1.Form := putStatus_form (setFront_form h)
    split
    · exact haltFront_form h1
    · exact haltFront_form h1
    · exact h1

theorem State.launchStep_form {f : Nat} (h : s.Form) : (s.launchStep f).Form := by
  unfold launchStep
  refine onKind_form h ?_
  intro _ _ _ hu
  split
  · exact startLaunch_form hu
  · exact stepLaunch_form hu

theorem execFencePacket_form {f : Nat} (h : s.Form) : Keeps (execFencePacket f s) := by
  unfold execFencePacket
  refine keeps_next ?_
  refine onKind_form h ?_
  intro _ _ _ hu
  refine Ran.form_ite _ trivial ?_
  split
  · exact joinView_form (modFront_form hu)
  · exact joinView_form (setReplay_form hu)

theorem State.endReplay_form {f i : Nat} (h : s.Form) : (s.endReplay f i).Form := by
  unfold endReplay
  extract_lets
  split
  · exact haltFront_form h
  · exact form_ite _ (startPending_form (modFront_form (hwWrite_form _ _ _ _ h))) (modFront_form
      (hwWrite_form _ _ _ _ h))

theorem execReplayComplete_form {f : Nat} (h : s.Form) : Keeps (execReplayComplete f s) := by
  unfold execReplayComplete
  refine keeps_next ?_
  split
  · exact h
  · exact inFrontTurn_form h (fun _ hu => endReplay_form hu)

/-! ### The memory system and bus masters (22 R378 to R390, 24 R405 to R408) -/

theorem State.editRecord_form {p kind core va len stalled : Nat} (h : s.Form) :
    (s.editRecord p kind core va len stalled).Form :=
  form_ite _ h (modPart_form (hwWrite_form _ _ _ _ h))

theorem State.editLogged_form {p kind core addr n : Nat} (h : s.Form) : (s.editLogged p kind core addr n).Form :=
  form_foldl _ (fun _ _ hu => editRecord_form hu) _ _ h

theorem State.dropEntries_form {p va len : Nat} (h : s.Form) : (s.dropEntries p va len).Form := form_mk h

theorem State.scrub_form {source line : Nat} {found : ScrubFinding} (h : s.Form) : (s.scrub source line found).Form := by
  unfold scrub
  split
  · exact (log_same ..).form ⟨h.1, Memory.wf_set _ _ _ h.2⟩
  · exact h

theorem State.freeze_form {m : Nat} {memory : Bool} (h : s.Form) : (s.freeze m memory).Form := by
  unfold freeze
  extract_lets s1 s2
  have h1 : s1.Form := modMaster_form h
  have h2 : s2.Form := by
    unfold s2
    split
    · exact form_foldl _ (fun _ _ hu1 => haltFront_form hu1) _ _ h1
    · exact h1
  exact form_ite _ (form_mk h2) h2

theorem State.serve_form {m addr n : Nat} {data : Option (List (BitVec 8))} (h : s.Form) :
    (s.serve m addr n data).Form := by
  unfold serve
  refine form_ite _ (freeze_form h) ?_
  split
  · exact form_ite _ (modMaster_form h) (modMaster_form ((touchLines_same ..).form h))
  · extract_lets _ s1
    have h1 : s1.Form := sysWrite_form _ _ _ h
    split
    · exact editLogged_form h1
    · exact h1

theorem State.request_form {m addr n : Nat} {data : Option (List (BitVec 8))} (h : s.Form) :
    (s.request m addr n data).Form := by
  unfold request
  extract_lets f1
  have h1 : ∀ (u : State), u.Form → (f1 u).Form := fun _ hu => modMaster_form hu
  refine form_ite _ (h1 _ h) ?_
  refine form_ite _ (modMaster_form h) ?_
  refine form_ite _ (modMaster_form h) ?_
  refine form_ite _ (modMaster_form h) ?_
  refine form_ite _ (freeze_form h) ?_
  refine form_ite _ (h1 _ h) ?_
  split
  next _ e1 => exact serve_form (memoryTurn_form h e1)
  next _ e1 => exact h1 _ (memoryTurn_form h e1)

theorem execTranslationWalk_form {d p va : Nat} {wr : Bool} (h : s.Form) : Keeps (execTranslationWalk d p va wr s) :=
    by
  unfold execTranslationWalk
  refine keeps_next ?_
  refine form_ite _ h ?_
  split
  · exact logWalk_form h
  · exact form_ite _ (forgetWalks_form (walked_form h rfl)) h

theorem execShootDownComplete_form {i : Nat} (h : s.Form) : Keeps (execShootDownComplete i s) := by
  unfold execShootDownComplete
  refine keeps_next ?_
  split
  · exact h
  · exact form_ite _ (editRecord_form (form_mk h)) h

theorem execSliceScrub_form {d line : Nat} {found : ScrubFinding} (h : s.Form) : Keeps (execSliceScrub d line found s) := by
  unfold execSliceScrub
  extract_lets _ s1
  have h1 : s1.Form := by
    unfold s1
    split
    · exact form_ite _ (charge_form (scrub_form h)) h
    · exact h
  exact keeps_next (form_ite _ h (modDie_form h1))

/-! ### The governor and the dies (21 R359 to R372) -/

theorem State.setSupplies_form {d : Nat} {f : Nat → Nat} (h : s.Form) : (s.setSupplies d f).Form := modDie_form h

theorem State.setProfiles_form {d profile : Nat} {slew : Nat → Nat} (h : s.Form) : (s.setProfiles d profile slew).Form :=
  form_foldl _ (fun _ _ hu => modCore_form hu) _ _ h

theorem State.grantProfiles_form {d : Nat} {e : Entry} (h : s.Form) : (s.grantProfiles d e).Form :=
  form_ite _ (setProfiles_form h)
    (form_ite _ h (form_foldl _ (fun _ _ hu => modCore_form hu) _ _ (setProfiles_form h)))

theorem State.grantAll_form (h : s.Form) : s.grantAll.Form :=
  form_foldl _ (fun _ _ hu => form_ite _ hu (grantProfiles_form hu)) _ _ h

theorem State.rebind_form {d : Nat} (h : s.Form) : (s.rebind d).Form := form_mk h

theorem State.setClock_form {d i : Nat} (h : s.Form) : (s.setClock d i).Form :=
  rebind_form (grantProfiles_form (modDie_form (setSupplies_form h)))

theorem State.force_form {d i : Nat} (h : s.Form) : (s.force d i).Form := form_ite _ h (setClock_form h)

theorem State.toLowest_form {d : Nat} (h : s.Form) : (s.toLowest d).Form := by
  unfold toLowest
  split
  · exact form_ite _ h (force_form h)
  · exact h

theorem State.holdLimits_form (h : s.Form) : s.holdLimits.Form :=
  grantAll_form (form_foldl _ (fun _ _ hu => form_ite _ hu (force_form hu)) _ _ h)

theorem State.divideEnergy_form {measured : List Nat} (h : s.Form) : (s.divideEnergy measured).Form :=
  form_mk (form_foldl _ (fun _ _ hu => form_ite _ hu (modPart_form hu)) _ _ h)

theorem State.noteSafe_form (h : s.Form) : s.noteSafe.Form := form_mk h

theorem State.gateDie_form {d : Nat} (h : s.Form) : (s.gateDie d).Form :=
  rehash_form (modDie_form (form_foldl _ (fun _ _ hu => modCore_form (fillBobbin_form hu)) _ _ h))

theorem State.requeue_form {p d : Nat} (h : s.Form) : (s.requeue p d).Form :=
  form_foldl _ (fun _ _ hu => releaseTask_form hu) _ _ (form_foldl _ (fun _ _ hu => setLevel_form hu) _ _ h)

theorem execBobbinPauseEnd_form {n : Nat} (h : s.Form) : Keeps (execBobbinPauseEnd n s) := by
  unfold execBobbinPauseEnd
  refine keeps_next ?_
  split
  · exact h
  · exact form_ite _ h (modCore_form (fillBobbin_form h))

theorem execClockSwitchPauseEnd_form {d : Nat} (h : s.Form) : Keeps (execClockSwitchPauseEnd d s) := by
  unfold execClockSwitchPauseEnd
  refine keeps_next ?_
  split
  · exact h
  · exact form_ite _ h (modDie_form h)

theorem execDeadlineRisk_form {d k : Nat} (h : s.Form) : Keeps (execDeadlineRisk d k s) := by
  unfold execDeadlineRisk
  refine keeps_next ?_
  split
  · exact h
  · extract_lets
    split
    · exact h
    · exact form_ite _ ((pendLight_same ..).form (modDie_form h)) h

theorem execMarginAlarm_form {d col : Nat} (h : s.Form) : Keeps (execMarginAlarm d col s) := by
  unfold execMarginAlarm
  extract_lets _ _ s1
  have h1 : s1.Form := (log_same ..).form h
  refine keeps_next ?_
  refine form_ite _ h ?_
  refine form_ite _ (setDie_form h) ?_
  split
  · exact setClock_form h1
  · exact h1

theorem execUngateComplete_form {d : Nat} (h : s.Form) : Keeps (execUngateComplete d s) := by
  unfold execUngateComplete
  extract_lets s1 s2
  have h1 : s1.Form := rehash_form (modDie_form h)
  have h2 : s2.Form := form_ite _ (toLowest_form h1) (form_ite _ h1 (force_form h1))
  refine keeps_next ?_
  split
  · exact h
  · exact form_ite _ h (grantProfiles_form h2)

/-! ### The system (23 R391, R400, 24) -/

theorem State.byOwner_form {m : Nat} {act : State} (h : s.Form) (hact : act.Form) : (s.byOwner m act).Form :=
  form_ite _ hact (freeze_form h)

theorem State.refuse_form {m : Nat} (h : s.Form) : (s.refuse m).Form := modMaster_form h

theorem State.clearCore_form {n : Nat} (h : s.Form) : (s.clearCore n).Form := modCore_form h

theorem State.clearTrace_form {q : Nat} (h : s.Form) : (s.clearTrace q).Form := form_ite _ (modDie_form h) h

theorem State.moveQuads_form {old new : BitVec 192} (h : s.Form) : (s.moveQuads old new).Form :=
  form_foldl _
    (fun _ _ hu => form_ite _ hu (form_ite _ (form_foldl _ (fun _ _ hu1 => clearCore_form hu1) _ _ (clearTrace_form
    hu)) (clearTrace_form hu))) _ _ h

theorem State.restartFronts_form {p : Nat} (h : s.Form) : (s.restartFronts p).Form :=
  form_foldl _ (fun _ _ hu => putStatus_form (modFront_form hu)) _ _ h

theorem State.startPart_form {p : Nat} (h : s.Form) : (s.startPart p).Form := restartFronts_form (modPart_form h)

theorem State.stopPart_form {p : Nat} (h : s.Form) : (s.stopPart p).Form :=
  form_ite _ (modPart_form h) (saveCores_form (modPart_form (form_foldl _ (fun _ _ hu => haltFront_form hu) _ _ h)))

theorem State.clearPart_form {p : Nat} (h : s.Form) : (s.clearPart p).Form :=
  form_mk (setPart_form (moveQuads_form (form_foldl _ (fun _ _ hu => freeContext_form (closeUnits_form hu)) _ _ h)))

theorem State.setEntry_form {p : Nat} {new : PartEntry} (h : s.Form) : (s.setEntry p new).Form :=
  modPart_form (form_mk (form_ite _ (moveQuads_form h) h))

theorem State.writeEntry_form {m p o : Nat} {bs : List (BitVec 8)} (h : s.Form) : (s.writeEntry m p o bs).Form := by
  unfold writeEntry
  extract_lets _ _ _ _ s1 s2 s3
  have h1 : s1.Form := form_ite _ (stopPart_form h) h
  have h2 : s2.Form := setEntry_form h1
  have h3 : s3.Form := form_ite _ (hostRequeue_form h2) h2
  exact form_ite _ (refuse_form h) (form_ite _ (form_ite _ h (clearPart_form h)) (form_ite _ (startPart_form h3) h3))

theorem State.writeFront_form {m f o : Nat} {bs : List (BitVec 8)} (h : s.Form) : (s.writeFront m f o bs).Form :=
  form_ite _ (refuse_form h) (form_ite _ (setFront_form h) (setFront_form h))

theorem State.writeTrace_form {m d word : Nat} (h : s.Form) : (s.writeTrace m d word).Form :=
  form_ite _ (refuse_form h) (modDie_form h)

theorem State.writePackage_form {o v : Nat} (h : s.Form) : (s.writePackage o v).Form := by
  unfold writePackage
  extract_lets
  exact form_ite _ (form_mk h)
    (form_ite _ (form_mk h) (form_ite _ (form_mk h) (form_ite _ (form_mk h) (form_ite _ (grantAll_form (form_mk h))
    (form_ite _ (modMaster_form h) (form_ite _ (form_foldl _ (fun _ _ hu => form_ite _ hu (modPart_form hu)) _ _ h)
    (form_ite _ (form_mk h) (form_ite _ (modMaster_form h) (form_ite _ (modPart_form h) h)))))))))

theorem State.editTable_form {d : Nat} {f : Die → Tab (BitVec 64)} (h : s.Form) : (s.editTable d f).Form :=
  form_ite _
    (toLowest_form (form_ite _ (setSupplies_form (modDie_form (setSupplies_form h))) (modDie_form
    (setSupplies_form h)))) (form_ite _ (setSupplies_form (modDie_form (setSupplies_form h))) (modDie_form
    (setSupplies_form h)))

theorem State.writeWord_form {m w v : Nat} (h : s.Form) : (s.writeWord m w v).Form :=
  form_ite _ (writePackage_form h)
    (form_ite _ (form_ite _ (form_ite _ (editTable_form h) (refuse_form h)) (form_ite _ (writeTrace_form h) h))
    (form_ite _ (form_ite _ (modCore_form h) h) h))

theorem State.writePart_form {m o : Nat} {bs : List (BitVec 8)} (h : s.Form) : (s.writePart m o bs).Form :=
  form_ite _ (writeEntry_form h) (form_ite _ (form_ite _ (writeFront_form h) h)
    (form_foldl _ (fun _ _ hu => writeWord_form hu) _ _ h))

theorem State.writeWindow_form {m o : Nat} {bs : List (BitVec 8)} (h : s.Form) : (s.writeWindow m o bs).Form :=
  form_foldl _ (fun _ _ hu => writePart_form hu) _ _ h

theorem State.windowWrite_form {m o : Nat} {bs : List (BitVec 8)} (h : s.Form) : (s.windowWrite m o bs).Form :=
  form_ite _ (modMaster_form h) (byOwner_form h (writeWindow_form h))

theorem State.proceed_form {m : Nat} (h : s.Form) : (s.proceed m).Form :=
  form_foldl _ (fun _ _ hu => form_ite _ (windowWrite_form hu) (request_form hu)) _ _ (modMaster_form h)

theorem State.afterReset_form (h : s.Form) : s.afterReset.Form := form_mk h

theorem State.loadTables_form {image : Nat} (h : s.Form) : (s.loadTables image).Form := by
  unfold loadTables
  refine form_foldl _ ?_ _ _ h
  intro _ _ hu
  extract_lets _ _ _ _ v4 v5
  clear_value v4 v5
  refine form_ite _ hu ?_
  split
  · exact setSupplies_form (form_ite _ (modDie_form (modDie_form hu)) (setClock_form (modDie_form hu)))
  · exact hu

theorem State.endCheckpoint_form {p : Nat} (h : s.Form) : (s.endCheckpoint p).Form :=
  form_foldl _ (fun _ _ hu => form_ite _ hu (proceed_form hu)) _ _ (form_ite _ (startPart_form (form_mk h))
    (form_mk h))

theorem execPackageReset_form {stage : Nat} {images : List Nat} (h : s.Form) : Keeps (execPackageReset stage images s) := by
  unfold execPackageReset
  extract_lets s1 _ s2
  have h1 : s1.Form := afterReset_form h
  have h2 : s2.Form := form_mk h1
  refine keeps_next ?_
  split
  · exact form_ite _ (loadTables_form h2) h2
  · exact h2

theorem execHandoverAcceptance_form {m : Nat} (h : s.Form) : Keeps (execHandoverAcceptance m s) := by
  unfold execHandoverAcceptance
  extract_lets
  refine keeps_next ?_
  split
  · exact form_ite _ (form_mk h) h
  · exact h

theorem execHandoverTimeout_form (h : s.Form) : Keeps (execHandoverTimeout s) := by
  unfold execHandoverTimeout
  extract_lets
  refine keeps_next ?_
  split
  · exact form_ite _ h (form_mk h)
  · exact h

theorem execOwnershipLapse_form (h : s.Form) : Keeps (execOwnershipLapse s) := by
  unfold execOwnershipLapse
  extract_lets
  refine keeps_next ?_
  split
  · exact form_mk h
  · exact h

theorem execHostOrPeerRequest_form {m addr len : Nat} {data : Option (List (BitVec 8))} (h : s.Form) :
    Keeps (execHostOrPeerRequest m addr len data s) := by
  unfold execHostOrPeerRequest
  refine keeps_next ?_
  split
  · exact form_ite _ (windowWrite_form h) (request_form h)
  · exact request_form h

/-! ### Every instruction and event -/

theorem exec_form {i : Instr} (h : s.Form) : Keeps (exec i s) := by
  have hs := slotMeaning_form (i := i) h
  cases i
  case bundleIssue => exact execBundleIssue_form h
  case yieldWake => exact keeps_next (wake_form h)
  case waitTimeout =>
    exact keeps_next (form_ite _ (timeoutStop_form ((landDue_same ..).form h)) ((landDue_same ..).form h))
  case barrierTimeout => exact execBarrierTimeout_form h
  case globalLoadReturn => exact execGlobalLoadReturn_form h
  case atomicPerformed => exact execAtomicPerformed_form h
  case publication => exact execPublication_form h
  case forcedSnapshotBoundary => exact execForcedSnapshotBoundary_form h
  case copyComplete => exact execCopyComplete_form h
  case chainRecord => exact execChainRecord_form h
  case cancelAcknowledge => exact execCancelAcknowledge_form h
  case multicastPieceLanding => exact execMulticastPieceLanding_form h
  case loadBlockFill => exact execLoadBlockFill_form h
  case shuttleFill => exact execShuttleFill_form h
  case shuttlePull => exact execShuttlePull_form h
  case heddleRowArrival => exact execHeddleRowArrival_form h
  case deckLoadComplete => exact execDeckLoadComplete_form h
  case cardVisit => exact execCardVisit_form h
  case cardStep => exact execCardStep_form h
  case cardCopyRequest => exact execCardCopyRequest_form h
  case collComplete => exact execCollComplete_form h
  case spawnComplete => exact execSpawnComplete_form h
  case dispatch =>
    exact keeps_next
      (form_ite _ h (form_ite _ (launchHandler_form h) (form_ite _ h (inHwTurn_form h
      (fun _ hu => dispatchOne_form hu)))))
  case ringRefill => exact execRingRefill_form h
  case contextSave => exact execContextSave_form h
  case resumption => exact execResumption_form h
  case streamTailRead => exact keeps_next (form_ite _ h (inHwTurn_form h (fun _ hu => readTail_form hu)))
  case launchPacket => exact keeps_next (form_ite _ (haltFront_form (launchStep_form h)) (launchStep_form h))
  case waitsemPacket => exact keeps_next (onKind_form h (fun _ _ _ hu => waitsem_form hu))
  case sigsemPacket => exact keeps_next (onKind_form h (fun _ _ _ hu => sigsem_form hu))
  case patchPacket => exact keeps_next (onKind_form h (fun _ _ _ hu => patch_form hu))
  case replayPacket => exact keeps_next (onKind_form h (fun _ _ _ hu => replay_form hu))
  case fencePacket => exact execFencePacket_form h
  case replayComplete => exact execReplayComplete_form h
  case shootDownComplete => exact execShootDownComplete_form h
  case refreshInterval => exact keeps_next (form_ite _ h (drainBacks_form (setChannel_form h)))
  case perBankRefresh | allBankRefresh => exact keeps_next (form_ite _ (setChannel_form h) h)
  case bobbinPauseEnd => exact execBobbinPauseEnd_form h
  case governorEpoch =>
    exact keeps_next (form_ite _ h (govern_form (grantAll_form (form_mk (noteSafe_form (divideEnergy_form h))))))
  case clockChange => exact keeps_next (form_ite _ (setClock_form h) h)
  case clockSwitchPauseEnd => exact execClockSwitchPauseEnd_form h
  case deadlineRisk => exact execDeadlineRisk_form h
  case ballastBundle => exact keeps_next (form_ite _ h (chargeWeight_form (modCore_form h)))
  case watchdogExpiry => exact keeps_next (holdLimits_form (form_mk h))
  case dieGate => exact keeps_next (form_ite _ (gateDie_form h) h)
  case ungateComplete => exact execUngateComplete_form h
  case handoverTimeout => exact execHandoverTimeout_form h
  case ownershipLapse => exact execOwnershipLapse_form h
  case tracePostExpiry | dieUngate => exact keeps_next (form_ite _ (modDie_form h) h)
  case checkpoint =>
    exact keeps_next (form_ite _ (form_ite _ (stopPart_form h) (form_ite _ h (endCheckpoint_form h)))
      (form_ite _ h (form_mk (stopPart_form h))))
  case fixedLatencyWriteback => exact keeps_next ((landDue_same ..).form h)
  case dump =>
    exact keeps_next
      (form_mk (form_foldl _ (fun _ _ hu => fillBobbin_form hu) _ _ (form_foldl _
      (fun _ _ hu => form_ite _ ((landDue_same ..).form hu) (stopForDump_form ((landDue_same ..).form hu))) _ _ h)))
  case translationWalk => exact execTranslationWalk_form h
  case shootDown => exact keeps_next (form_mk (dropEntries_form h))
  case temperatureRead =>
    exact keeps_next (form_ite _ h (form_ite _ ((log_same ..).form (setChannel_form h)) (setChannel_form h)))
  case patrolScrub => exact keeps_next (form_ite _ h (setChannel_form (charge_form (scrub_form h))))
  case sliceScrub => exact execSliceScrub_form h
  case bobbinPush => exact keeps_next (form_ite _ h (form_ite _ (modCore_form h) (modCore_form h)))
  case bobbinHealthFailure => exact keeps_next ((log_same ..).form (modCore_form (fillBobbin_form h)))
  case hostEntryChoice =>
    exact keeps_next
      (form_ite _ h (form_ite _ (setProfiles_form h) (form_ite _ (setProfiles_form (setClock_form h)) h)))
  case columnTrimTick => exact keeps_next (form_ite _ h (setDie_form h))
  case marginAlarm => exact execMarginAlarm_form h
  case currentLimit | currentBelowLimit => exact keeps_next (modDie_form h)
  case thermalTrip => exact keeps_next (toLowest_form (modDie_form h))
  case thermalRecovery =>
    exact keeps_next
      (form_ite _ h (form_ite _ (govern_form (modDie_form h)) (form_ite _ (modDie_form h) (force_form
      (modDie_form h)))))
  case shrink => exact keeps_next (form_ite _ h (saveCores_form (requeue_form (modPart_form h))))
  case grow => exact keeps_next (form_ite _ h (form_ite _ (modDie_form (modPart_form h)) (modPart_form h)))
  case packageReset => exact execPackageReset_form h
  case ownershipClaim => exact keeps_next (form_ite _ (form_mk h) h)
  case ownerHandover => exact keeps_next (byOwner_form h (form_mk h))
  case handoverAcceptance => exact execHandoverAcceptance_form h
  case controlWindowWrite | partitionStart | partitionStop | traceStart | traceStop =>
    exact keeps_next (windowWrite_form h)
  case masterRelease => exact keeps_next (byOwner_form h (form_ite _ (proceed_form (modMaster_form h)) h))
  case attestation => exact keeps_next (form_mk h)
  case firmwareUpdate =>
    exact keeps_next
      (form_ite _ h (form_ite _ (form_ite _ (loadTables_form (form_mk h)) (form_mk h)) (holdLimits_form (form_mk h))))
  case hostOrPeerRequest => exact execHostOrPeerRequest_form h
  case translationMemoryEdit => exact keeps_next (form_ite _ (editLogged_form (sysWrite_form _ _ _ h)) h)
  all_goals exact hs

/-! ### Time (log entry 33) -/

theorem State.traceCycle_form {d : Nat} (h : s.Form) : (s.traceCycle d).Form := form_ite _ (setDie_form h) h

theorem State.countCause_form {n : Nat} (h : s.Form) : (s.countCause n).Form := form_ite _ h (modCore_form h)

theorem State.countQuiet_form {d : Nat} (h : s.Form) : (s.countQuiet d).Form := modDie_form h

theorem State.upset_form {n : Nat} (h : s.Form) : (s.upset n).Form := by
  unfold upset
  split
  · exact h
  · split
    · exact h
    · exact form_ite _ h (modStore_form h)

theorem State.endCycle_form {d : Nat} (h : s.Form) : (s.endCycle d).Form :=
  modDie_form
    (form_mk (form_foldl _ (fun _ _ hu => upset_form (countCause_form hu)) _ _ (countQuiet_form (traceCycle_form h))))

theorem State.passTime_form {dt d : Nat} (h : s.Form) : (s.passTime dt d).Form :=
  form_ite _ h (form_ite _ (setDie_form h) (endCycle_form (setDie_form h)))

theorem State.goOn_form (h : s.Form) : s.goOn.Form :=
  form_foldl _ (fun _ _ hu => proceed_form hu) _ _
    (form_foldl _ (fun _ _ hu => form_foldl _ (fun _ _ hu1 => fillEarly_form hu1) _ _ (form_foldl _
    (fun _ _ hu1 => landEarly_form hu1) _ _ hu)) _ _ h)

theorem State.tick_form (h : s.Form) : s.tick.Form :=
  form_foldl _ (fun _ _ hu => passTime_form hu) _ _ (goOn_form (form_mk h))

theorem step_form (h : s.Form) : Keeps (step s) := by
  unfold step
  split
  · exact exec_form (form_mk h)
  · exact keeps_next (tick_form h)

end

/-- Settles O12: every operation of the model that writes memory or its poison keeps their form (12 R265, 08 R181), so each
instruction, each event and the passing of time do. -/
theorem stepKeepsForm : Obligations.StepKeepsForm := fun _ t h e => step_form h t e

end Sys2Proof.Machine

/-! SUPPORT. What the operations of global memory leave alone: the cores, and where the contexts stand in their issue
(12 R265, R266, 22 R382, R386). -/

namespace Sys2Proof.Machine

/-- Neither a core nor the issue of a context differs. -/
def SameIssue (s t : State) : Prop := t.cores = s.cores ∧ ∀ y, (t.ctx y).iss = (s.ctx y).iss

namespace SameIssue

theorem refl (s : State) : SameIssue s s := ⟨rfl, fun _ => rfl⟩

theorem trans {s t u : State} (h : SameIssue s t) (k : SameIssue t u) : SameIssue s u :=
  ⟨k.1.trans h.1, fun y => (k.2 y).trans (h.2 y)⟩

theorem ite {s t u : State} (c : Prop) [Decidable c] (h : SameIssue s t) (k : SameIssue s u) :
    SameIssue s (if c then t else u) := by
  split
  · exact h
  · exact k

theorem foldl {α : Type} {f : State → α → State} (hf : ∀ s a, SameIssue s (f s a)) (l : List α) (s : State) :
    SameIssue s (l.foldl f s) :=
  List.foldlRecOn (motive := SameIssue s) l f (.refl s) fun t h a _ => h.trans (hf t a)

end SameIssue

namespace State

/-! ### Publications of a context (12 R265, R266) -/

theorem modMem_issue (s : State) (x : Nat) (f : CtxMem → CtxMem) : SameIssue s (s.modMem x f) := by
  refine ⟨rfl, fun y => ?_⟩
  by_cases h : y = x
  · subst h; rw [modMem, ctx_modCtx]
  · exact congrArg Ctx.iss (ctx_modCtx_other _ _ _ _ h)

theorem queueBack_issue (s : State) (l : Nat) : SameIssue s (s.queueBack l) := by
  obtain h | ⟨v, h⟩ := s.queueBack_cases l <;> rw [h]
  · exact .refl s
  · exact ⟨rfl, fun _ => rfl⟩

theorem touchL2_issue (s : State) (l : Nat) (d : Bool) : SameIssue s (s.touchL2 l d) := by
  unfold touchL2; split
  · exact SameIssue.trans (t := { s with l2 := _ }) ⟨rfl, fun _ => rfl⟩ (SameIssue.foldl (fun s _ => queueBack_issue s _) _ _)
  · exact .refl s

theorem touchLines_issue (s : State) (ls : List Nat) (d : Bool) : SameIssue s (s.touchLines ls d) :=
  SameIssue.foldl (fun s l => touchL2_issue s l d) _ _

theorem publishCells_issue (s : State) (w sc u : Nat) (cells : List (Nat × BitVec 8)) :
    SameIssue s (s.publishCells w sc u cells) := by
  unfold publishCells; split
  · exact ⟨rfl, fun _ => rfl⟩
  · exact SameIssue.trans ⟨rfl, fun _ => rfl⟩ (touchLines_issue ..)

theorem repairPoison_issue (s : State) (cells : List (Nat × BitVec 8)) : SameIssue s (s.repairPoison cells) :=
  .ite _ (.refl s) ⟨rfl, fun _ => rfl⟩

theorem addRelease_issue (s : State) (r : Release) : SameIssue s (s.addRelease r) := by
  unfold addRelease; split
  · exact ⟨rfl, fun _ => rfl⟩
  · exact .refl s

theorem widen_issue (s : State) (g : Agent) (sc : Nat) (rel : Bool) : SameIssue s (s.widen g sc rel) :=
  .ite _ (.refl s) ⟨rfl, fun _ => rfl⟩

theorem publishAs_issue (s : State) (g : Agent) (sc : Nat) (ls : List LineWrite) (rel : Bool) (w : Option Nat) :
    SameIssue s (s.publishAs g sc ls rel w) := by
  have poisoned (u : State) (bad : List Nat) :
      SameIssue u (if bad.isEmpty then u else { u with poison := setPoison u.poison bad }) := .ite _ (.refl u) ⟨rfl, fun _ => rfl⟩
  refine SameIssue.trans ?_ (poisoned _ (ls.flatMap poisonSectors))
  refine SameIssue.trans ?_ (.ite _ (addRelease_issue ..) (.refl _))
  exact ((widen_issue ..).trans (publishCells_issue ..)).trans (repairPoison_issue ..)

theorem learn_issue (s : State) (x : Nat) (es : List Nat) : SameIssue s (s.learn x es) := .ite _ (.refl s) (modMem_issue ..)

theorem retain_issue (s : State) (x : Nat) (ls : List Nat) : SameIssue s (s.retain x ls) := by
  simp only [retain]; split
  · exact .refl s
  · exact SameIssue.foldl (fun s l => .ite _ (modMem_issue ..) (.refl s)) _ _

theorem publishLines_issue (s : State) (x sc : Nat) (ls : List LineWrite) (rel : Bool) (w : Option Nat) :
    SameIssue s (s.publishLines x sc ls rel w) :=
  ((retain_issue ..).trans (publishAs_issue ..)).trans (learn_issue ..)

theorem enterLine_issue (s : State) (x : Nat) (w : LineWrite) : SameIssue s (s.enterLine x w) := by
  simp only [enterLine]
  split
  · exact modMem_issue ..
  · refine .ite _ (modMem_issue ..) ?_
    split <;> exact modMem_issue ..

theorem storeBytes_issue (s : State) (x va a : Nat) (bs : List (BitVec 8)) : SameIssue s (s.storeBytes x va a bs) :=
  SameIssue.foldl (fun s l => enterLine_issue s x l) _ _

/-! ### Writes of hardware, and its walks (22 R386) -/

theorem logRecord_issue (s : State) (r : LogRecord) : SameIssue s (s.logRecord r) := by
  rw [logRecord_eq]; exact ⟨rfl, fun _ => rfl⟩

theorem sysWrite_issue (s : State) (a : Nat) (bs : List (BitVec 8)) : SameIssue s (s.sysWrite a bs) :=
  (publishCells_issue ..).trans (repairPoison_issue ..)

theorem markLeaf_issue (s : State) (l : Leaf) (wr : Bool) : SameIssue s (s.markLeaf l wr).2 :=
  .ite _ (.refl s) (sysWrite_issue ..)

theorem logWalk_issue (s : State) (p va : Nat) : SameIssue s (s.logWalk p va) := by
  unfold logWalk; split
  · exact logRecord_issue ..
  · exact .refl s

theorem hwWalks_issue (s : State) (p va n : Nat) (k : Access) : SameIssue s (s.hwWalks p va n k) := by
  refine SameIssue.foldl (fun s va => ?_) _ _
  split
  · exact logWalk_issue ..
  · exact .ite _ ((touchLines_issue ..).trans (markLeaf_issue ..)) (.refl s)

theorem hwWrite_issue (s : State) (p va : Nat) (bs : List (BitVec 8)) : SameIssue s (s.hwWrite p va bs) := by
  let u := s.hwWalks p va bs.length .write
  let cells := u.hwCells p va bs
  have h : SameIssue s ((u.publishCells 0 5 0 cells).repairPoison cells) :=
    ((hwWalks_issue ..).trans (publishCells_issue ..)).trans (repairPoison_issue ..)
  exact .ite _ h (h.trans (logRecord_issue ..))

theorem readPath_issue (s : State) (es : List (Nat × Nat)) : SameIssue s (s.readPath es) :=
  (touchLines_issue ..).trans ⟨rfl, fun _ => rfl⟩

end State
end Sys2Proof.Machine

/-! SUPPORT. What a publication at one eo point does, at once or posted (12 R266, R271), and O36. -/

namespace Sys2Proof.Machine

namespace State

theorem modMem_congr {s : State} {x : Nat} {f g : CtxMem → CtxMem} (h : f (s.ctx x).mem = g (s.ctx x).mem) :
    s.modMem x f = s.modMem x g :=
  congrArg (fun m => s.setCtx x { s.ctx x with mem := m }) h

/-- The state that a publication starts from: nothing of the context is unpublished any more. -/
def takeUnpub (s : State) (x : Nat) : State := s.modMem x fun m => { m with unpub := [] }

theorem takeUnpub_mem (s : State) (x : Nat) : ((s.takeUnpub x).ctx x).mem = { (s.ctx x).mem with unpub := [] } :=
  congrArg Ctx.mem (ctx_modCtx ..)

theorem post_waits {s : State} {x scope : Nat} {lines : List LineWrite} {after : After} (h : s.mustPost x lines after = true) :
    s.post x scope lines after = s.modMem x fun m => { m with
      pubs := m.pubs ++ [⟨scope, lines, none, decide (after = .snap), true, after, m.nextId⟩] } := if_pos h

theorem post_made {s : State} {x scope : Nat} {lines : List LineWrite} {after : After} (h : ¬ s.mustPost x lines after = true) :
    s.post x scope lines after =
      (s.publishLines x scope lines (decide (after = .snap)) none).afterPublication x after := if_neg h

/-- A publication of all that is unpublished takes it, and is made or waits behind the publications that the context has. -/
theorem postAll_eq (s : State) (x scope : Nat) (after : After) :
    let m := (s.ctx x).mem
    s.postAll x scope after =
      if (s.takeUnpub x).mustPost x m.unpub after then (s.takeUnpub x).modMem x fun k => { k with
        pubs := m.pubs ++ [⟨scope, m.unpub, none, decide (after = .snap), true, after, m.nextId⟩] }
      else ((s.takeUnpub x).publishLines x scope m.unpub (decide (after = .snap)) none).afterPublication x after := by
  intro m
  have hpost : s.postAll x scope after = (s.takeUnpub x).post x scope m.unpub after := rfl
  split
  case isTrue hwait =>
    rw [hpost, post_waits hwait]
    exact modMem_congr (by rw [takeUnpub_mem])
  case isFalse hnow => exact hpost.trans (post_made hnow)

theorem afterPublication_snap {s : State} {x : Nat} (h : (s.ctx x).iss.phase ≠ .stopped) :
    s.afterPublication x .snap = s.snapshot x := if_neg h

end State

open State

theorem phase_reserved {s : State} {sc : BitVec 3} (h : 6 ≤ sc.toNat) :
    exec (.phase sc) s = .next (s.trapHere 0x02 0 s.cur.word) := congrArg Host.Outcome.next (if_pos h)

theorem phase_posts {s : State} {sc : BitVec 3} (h : sc.toNat < 6) :
    exec (.phase sc) s = .next (s.postAll s.cur.ctx sc.toNat .snap) := congrArg Host.Outcome.next (if_neg (by omega))

theorem trigger_held {s : State} (h : s.isHeld s.cur.ctx = true) : exec .trigger s = .next (s.trapHere 0x11 0 0) :=
  congrArg Host.Outcome.next (if_pos h)

theorem trigger_posts {s : State} (h : s.isHeld s.cur.ctx = false) :
    exec .trigger s = .next (s.postAll s.cur.ctx 3 .trigger) :=
  congrArg Host.Outcome.next (if_neg (by rw [h]; exact Bool.false_ne_true))

/-- Settles O36: phase and trigger are `postAll` with what follows each; a publication leaves a context that runs running, so
that a snapshot follows the one of phase. -/
theorem publications : Obligations.Publications := by
  intro s sc x m taken waits
  refine ⟨rfl, fun hsc hrun => ?_, phase_reserved, fun hfree => ?_, trigger_held⟩
  · have hphase : ((taken.publishLines x sc.toNat m.unpub true none).ctx x).iss.phase ≠ .stopped := by
      rw [((modMem_issue s x _).trans (publishLines_issue taken x sc.toNat m.unpub true none)).2 x]
      exact hrun
    rw [phase_posts hsc, postAll_eq]
    show Host.Outcome.next (if _ then _ else (taken.publishLines x sc.toNat m.unpub true none).afterPublication x .snap) = _
    rw [afterPublication_snap hphase]
    rfl
  · rw [trigger_posts hfree, postAll_eq]
    rfl

end Sys2Proof.Machine

/-! SUPPORT. The canonical form of the local stores: landings and translations keep it (02 R38, R39, 22 R386), and O11. -/

namespace Sys2Proof.Machine

/-- The X-store and the W-store list their bytes in canonical form. -/
def CoreStore.Wf (st : CoreStore) : Prop := st.xstore.wf = true ∧ st.wstore.wf = true

namespace State

theorem inv_iff {s : State} : s.Inv ↔ s.Form ∧ s.storesWf :=
  ⟨fun ⟨hmem, hpoison, hst⟩ => ⟨⟨hmem, hpoison⟩, hst⟩, fun ⟨⟨hmem, hpoison⟩, hst⟩ => ⟨hmem, hpoison, hst⟩⟩

theorem storesWf_core {s : State} (h : s.storesWf) (n : Nat) : (s.core n).st.Wf := h n

/-! ### Operations that change no store -/

/-- A core that is not listed has the stores of reset, whatever its die. -/
theorem core_st_eq {s t : State} (h : t.cores = s.cores) (n : Nat) : (t.core n).st = (s.core n).st := by
  have get_st (c d : Core) (hcd : c.st = d.st) (l : Tab Core) : (l.get c n).st = (l.get d n).st := by
    induction l with
    | nil => exact hcd
    | cons p l ih => simp only [Tab.get]; split <;> [rfl; exact ih]
  simp only [core, h]
  exact get_st (t.quietCore n) (s.quietCore n) rfl _

theorem storesWf_of_cores {s t : State} (h : s.storesWf) (e : t.cores = s.cores) : t.storesWf := fun n => by
  rw [core_st_eq e]; exact h n

theorem storesWf_of_issue {s t : State} (h : s.storesWf) (k : SameIssue s t) : t.storesWf := storesWf_of_cores h k.1

theorem storesWf_modCore {s : State} {n : Nat} {f : Core → Core} (h : s.storesWf) (hf : (f (s.core n)).st.Wf) :
    (s.modCore n f).storesWf := fun m => by
  by_cases e : m = n
  · subst e; rw [core_modCore]; exact hf
  · rw [core_modCore_other _ _ _ _ e]; exact h m

theorem storesWf_modStore {s : State} {n : Nat} {f : CoreStore → CoreStore} (h : s.storesWf)
    (hf : ∀ st : CoreStore, st.Wf → (f st).Wf) : (s.modStore n f).storesWf :=
  storesWf_modCore h (hf _ (h n))

theorem storesWf_mend {s : State} (n : Nat) (sp : Space) (secs : List Nat) (h : s.storesWf) : (s.mend n sp secs).storesWf := by
  obtain ⟨-, -, hother, -, hst, -⟩ := mend_mended s n sp secs
  intro m
  by_cases e : m = n
  · subst e; rw [hst]; exact h m
  · rw [hother m e]; exact h m

theorem storesWf_noteWrite {s : State} (n : Nat) (sp : Space) (rs : List (Nat × Nat)) (h : s.storesWf) :
    (s.noteWrite n sp rs).storesWf := by
  refine storesWf_of_issue h (.ite _ (.refl s) (.foldl (fun s i => ?_) _ _))
  exact .ite _ (.refl s) (.ite _ (logRecord_issue ..) (.ite _ (logRecord_issue ..) (.refl s)))

/-! ### Landings (02 R38, R39) -/

theorem putBytes_wf {m : Memory} (h : m.wf = true) (parts : List (Nat × List (BitVec 8))) : (putBytes m parts).wf = true :=
  List.foldlRecOn (motive := fun m : Memory => m.wf = true) parts _ h fun m hm p _ => Memory.wf_write m p.1 p.2 hm

/-- A landing in the X-store or the W-store writes bytes of it; every other one leaves both as they are. -/
theorem landStore_wf {st : CoreStore} (h : st.Wf) (w : Write) : (landStore st w).Wf := by
  have rows {f : CoreStore → Nat → CoreStore} (n : Nat) (hf : ∀ st j, st.Wf → (f st j).Wf) :
      ((List.range n).foldl f st).Wf := List.foldlRecOn _ f h fun st hst j _ => hf st j hst
  cases w with
  | xstore parts => exact ⟨putBytes_wf h.1 parts, h.2⟩
  | wstore parts => exact ⟨h.1, putBytes_wf h.2 parts⟩
  | rows row data => exact rows _ fun _ _ hst => hst
  | zeroRows bank row cnt => exact rows cnt fun _ _ hst => hst
  | freeRows row n k => exact rows n fun _ _ hst => hst
  | _ => exact h

theorem storesWf_orFlags {s : State} (x : Nat) (f : BitVec 5) (h : s.storesWf) : (s.orFlags x f).storesWf := by
  unfold orFlags; split
  · exact h
  · exact storesWf_of_cores h rfl

theorem storesWf_landIn {s : State} (n : Nat) (w : Write) (h : s.storesWf) :
    (let s := s.mend n .acc (Write.reads w)
     let s := match Write.ranges w with | some q => s.noteWrite n q.1 q.2 | none => s
     s.modStore n fun st => landStore st w).storesWf := by
  refine storesWf_modStore ?_ fun st hst => landStore_wf hst w
  split
  · exact storesWf_noteWrite _ _ _ (storesWf_mend _ _ _ h)
  · exact storesWf_mend _ _ _ h

theorem storesWf_land {s : State} (n : Nat) (l : Landing) (h : s.storesWf) : (s.land n l).storesWf := by
  have hin := storesWf_landIn n l.what h
  refine storesWf_orFlags _ _ ?_
  revert hin
  cases l.what with
  | scalar r v =>
    intro _; simp only [setRegS]; split
    · exact h
    · exact storesWf_of_cores h rfl
  | vector r mask data => intro _; exact storesWf_modStore h fun _ hst => hst
  | mask r sel data =>
    intro _; simp only [setRegK]; split
    · exact h
    · exact storesWf_of_cores h rfl
  | ctl num v =>
    intro _; simp only [landCtl]; split
    · exact storesWf_of_cores h rfl
    · exact storesWf_of_cores h rfl
  | _ => exact id

theorem storesWf_landDue {s : State} (n : Nat) (h : s.storesWf) : (s.landDue n).storesWf := by
  simp only [landDue]; split
  · exact h
  · exact List.foldlRecOn (motive := State.storesWf) _ _ (storesWf_modCore h (h n)) fun s hs l _ => storesWf_land n l hs

/-! ### Translation (22 R386) -/

/-- A walk fills the caches of a die and of a core; it touches no store. -/
theorem storesWf_translate {s t : State} {n p va pa : Nat} {k : Access} (h : s.storesWf)
    (e : s.translate n p va k = .ok (pa, t)) : t.storesWf := by
  have keep {u : State} {f : Core → Core} (hu : u.cores = s.cores) (hf : ∀ c, (f c).st = c.st) : (u.modCore n f).storesWf :=
    storesWf_modCore (storesWf_of_cores h hu) (by rw [hf]; exact storesWf_core (storesWf_of_cores h hu) n)
  simp only [translate] at e
  split at e
  · cases e
  · split at e
    · split at e <;> cases e
      exact h
    · split at e
      · split at e <;> cases e
        exact keep rfl fun _ => rfl
      · cases e
      · split at e <;> cases e
        exact keep ((readPath_issue ..).trans (markLeaf_issue ..)).1 fun _ => rfl

end State

open State

/-- Settles O11: memory and poison by what each operation keeps of their form, the stores because only landings write them. -/
theorem canonicalForms : Obligations.CanonicalForms := by
  intro s hinv
  obtain ⟨hform, hst⟩ := inv_iff.mp hinv
  refine ⟨fun n => ?landings, fun x sc ls rel w => ?publications, fun a bs => ?sysWrites, fun p va bs => ?hwWrites,
    fun x va a bs => ?stores, fun n p va k pa t e => ?translations⟩ <;> rw [inv_iff]
  case landings => exact ⟨(landDue_same s n).form hform, storesWf_landDue n hst⟩
  case publications => exact ⟨publishLines_form _ _ _ _ _ _ hform, storesWf_of_issue hst (publishLines_issue ..)⟩
  case sysWrites => exact ⟨sysWrite_form _ _ _ hform, storesWf_of_issue hst (sysWrite_issue ..)⟩
  case hwWrites => exact ⟨hwWrite_form _ _ _ _ hform, storesWf_of_issue hst (hwWrite_issue ..)⟩
  case stores => exact ⟨(storeBytes_same ..).form hform, storesWf_of_issue hst (storeBytes_issue ..)⟩
  case translations => exact ⟨translate_form _ _ _ _ _ _ _ hform e, storesWf_translate hst e⟩

end Sys2Proof.Machine

/-! The state after reset (24 R409): O13. -/

namespace Sys2Proof.Machine

open State

/-- Settles O13: every table of the state after reset is empty, so each unit has its reset value. -/
theorem resetState : Obligations.ResetState :=
  ⟨⟨rfl, rfl, fun _ => ⟨rfl, rfl⟩⟩, fun _ => ⟨rfl, rfl⟩, fun _ => ⟨rfl, rfl, rfl, rfl, rfl⟩,
    fun _ => rfl, rfl, fun _ => rfl⟩

end Sys2Proof.Machine

/-! SUPPORT. What the events of clocks, supplies and limits do (21 R359 to R370, R375), and O56, O57. -/

namespace Sys2Proof.Machine

open State

section
variable {s : State} {d : Nat}

/-! ### The governor and clocks (21 R359 to R367, R375) -/

/-- The next epoch of the governor begins with what is kept of the one before. -/
def State.nextEpoch (s : State) : State :=
  { s with pkg := { s.pkg with epoch := s.pkg.epoch + 1, epochAt := s.pkg.now } }

theorem exec_governorEpoch {compute memory : List Nat} (due : (s.pkg.epoch + 1) * 100000000 ≤ s.pkg.now)
    (dies : compute.length = 8) (rest : memory.length = 13) :
    exec (.governorEpoch compute memory) s =
      .next ((s.divideEnergy (compute ++ memory)).noteSafe.nextEpoch.grantAll.govern) :=
  congrArg Host.Outcome.next
    (if_neg (not_or.mpr ⟨Nat.not_lt.mpr due, not_or.mpr ⟨not_not.mpr dies, not_not.mpr rest⟩⟩))

theorem exec_clockChange {i : Nat} (governs : s.governing = true) (may : s.mayClock d i = true)
    (caps : capped s d i = true) (hardware : s.pkg.hostGovernor = false) :
    exec (.clockChange d i) s = .next (s.setClock d i) :=
  congrArg Host.Outcome.next (if_pos (by simp [governs, hardware, may, caps]))

/-- A die never stands at an entry that it may take. -/
theorem State.standsAt_of_mayClock {i : Nat} (may : s.mayClock d i = true) : s.standsAt d i = false := by
  simp only [mayClock, Bool.and_eq_true, Bool.not_eq_true'] at may
  exact may.2

theorem exec_hostEntryChoice {e : EpochChoice} (governs : s.governing = true) (may : s.mayClock d e.entry = true)
    (caps : capped s d e.entry = true) (host : s.pkg.hostGovernor = true) (least : 64 ≤ e.profile)
    (most : e.profile ≤ 16320) (slew : e.slew ≤ 16320) :
    exec (.hostEntryChoice d e) s = .next ((s.setClock d e.entry).setProfiles d e.profile fun _ => e.slew) := by
  change execHostEntryChoice d e s = _
  have proper : ¬(e.profile < 64 ∨ 16320 < e.profile ∨ 16320 < e.slew) := by omega
  simp [execHostEntryChoice, host, governs, proper, standsAt_of_mayClock may, may, caps]

theorem capped_iff {i : Nat} :
    capped s d i = true ↔ (s.entryAt d i).fmhz ≤ (s.die d).mhz ∨ s.withinCaps [] d i = true := by simp [capped]

theorem exec_clockSwitchPauseEnd {t : Nat} (paused : (s.die d).pauseEnd = some t) (ended : t ≤ (s.die d).cyc) :
    exec (.clockSwitchPauseEnd d) s = .next (s.modDie d fun v => { v with pauseEnd := none }) := by
  change execClockSwitchPauseEnd d s = _
  simp only [execClockSwitchPauseEnd, paused, if_neg (Nat.not_lt.mpr ended)]

theorem exec_deadlineRisk {k x : Nat} {q : StepEntry} (step : (s.die d).steps[k]? = some q)
    (runs : s.stepCtx q = some x) (risk : s.atRisk d q = true) :
    exec (.deadlineRisk d k) s =
      .next ((s.modDie d fun v => { v with steps := v.steps.set k { q with risk := true } }).pendLight x 1
        (BitVec.ofNat 64 (min (q.deadline.toNat - s.ptime.toNat) (2 ^ 32 - 1)))) := by
  change execDeadlineRisk d k s = _
  simp only [execDeadlineRisk, step, runs, risk, if_true]

/-! ### Supplies (21 R368) -/

section
variable {col : Nat} (clocked : (s.die d).gated = false) (governs : s.governing = true) (column : col < 12)
include clocked governs column

theorem exec_columnTrimTick (due : (s.die d).trimAt.get 0 col
      + (if (s.entryAt d (s.die d).entry).nt then 40000000 else 10000000) ≤ s.pkg.now) :
    exec (.columnTrimTick d col) s = .next (s.setDie d { s.die d with
      supply := (s.die d).supply.put col
        (max (max (s.entryAt d (s.die d).entry).vmin 420) (s.supplyOf d col - 5))
      trimAt := (s.die d).trimAt.put col s.pkg.now }) := by
  refine congrArg Host.Outcome.next (if_neg ?_)
  simp only [clocked, governs, Bool.false_eq_true, Bool.true_eq_false, false_or, not_or]
  exact ⟨Nat.not_le.mpr column, Nat.not_lt.mpr due⟩

theorem exec_marginAlarm (below : s.supplyOf d col < min (s.entryAt d (s.die d).entry).vmax 950) :
    exec (.marginAlarm d col) s = .next (s.setDie d { s.die d with
      supply := (s.die d).supply.put col
        (min (min (s.entryAt d (s.die d).entry).vmax 950) (s.supplyOf d col + 5)) }) := by
  have goes : ¬((s.die d).gated = true ∨ s.governing = false ∨ 12 ≤ col) := by simp [clocked, governs, column]
  exact congrArg Host.Outcome.next ((if_neg goes).trans (if_pos below))

end

/-- No supply leaves the range of the columns. -/
theorem State.supplyOf_range (s : State) (d c : Nat) : 420 ≤ s.supplyOf d c ∧ s.supplyOf d c ≤ 950 := by
  simp only [supplyOf, inRange]; omega

/-! ### Ballast, trips and recoveries (21 R361, R370) -/

theorem exec_ballastBundle {n : Nat} (idle : s.ballastWeight n ≠ 0) :
    exec (.ballastBundle n) s = .next ((s.modCore n fun c => { c with iss := { c.iss with
      ballastCyc := some (s.cyc n), weights := c.iss.weights ++ [(s.cyc n, s.ballastWeight n)] } }).chargeWeight 32 (dieOf n)
        (s.ballastWeight n)) := congrArg Host.Outcome.next (if_neg idle)

/-- Die d as it trips, before it goes to its lowest entry. -/
def State.tripping (s : State) (d : Nat) : State := s.modDie d fun v => { v with tripped := true, disturbed := true }

theorem exec_thermalTrip {i : Nat} (lowest : ((s.tripping d).usableEntries d).head? = some i)
    (clocked : (s.die d).gated = false) : exec (.thermalTrip d) s = .next ((s.tripping d).force d i) := by
  have h : ((s.tripping d).die d).gated = false := by simp [tripping, clocked]
  change Host.Outcome.next ((s.tripping d).toLowest d) = _
  simp [toLowest, lowest, h]

/-- Die d as it recovers from its trip, before anything chooses its entry. -/
def State.recovering (s : State) (d : Nat) : State := s.modDie d fun v => { v with tripped := false }

theorem exec_thermalRecovery_governed (tripped : (s.die d).tripped = true) (governs : (s.recovering d).governing = true) :
    exec (.thermalRecovery d) s = .next (s.recovering d).govern :=
  congrArg Host.Outcome.next ((if_neg (by simp [tripped])).trans (if_pos governs))

theorem exec_thermalRecovery_ungoverned (tripped : (s.die d).tripped = true)
    (faulty : (s.recovering d).governing = false) (clocked : (s.die d).gated = false) :
    exec (.thermalRecovery d) s = .next ((s.recovering d).force d ((s.recovering d).die d).lastSafe) := by
  have h : ((s.recovering d).die d).gated = false := by simp [recovering, clocked]
  refine congrArg Host.Outcome.next ((if_neg (by simp [tripped])).trans ((if_neg ?_).trans (if_neg ?_)))
  · exact Bool.not_eq_true _ ▸ faulty
  · exact Bool.not_eq_true _ ▸ h

end

/-- Settles O56: each event by its equation. -/
theorem clockEvents : Obligations.ClockEvents := by
  intro s d i k x t e compute memory q
  refine ⟨exec_governorEpoch, fun governs may caps => ⟨exec_clockChange governs may caps, fun host entry => ?_⟩,
    capped_iff.mpr, exec_clockSwitchPauseEnd, exec_deadlineRisk⟩
  subst entry
  exact exec_hostEntryChoice governs may caps host

/-- Settles O57: each event by its equation; the range of the supplies is that of their reading. -/
theorem powerEvents : Obligations.PowerEvents := by
  intro s d col n i v e top
  exact ⟨fun clocked governs column => ⟨exec_columnTrimTick clocked governs column, exec_marginAlarm clocked governs column⟩,
    fun c _ => supplyOf_range _ d c, rfl, rfl, exec_ballastBundle, rfl, exec_thermalTrip,
    fun tripped => ⟨exec_thermalRecovery_governed tripped, exec_thermalRecovery_ungoverned tripped⟩⟩

end Sys2Proof.Machine

/-! SUPPORT. What taking a trap does to the context that stops, and what a return names (14 R286 to R291), and O6, O34. -/

namespace Sys2Proof.Machine

namespace State

/-! ### What does not depend on a core's being listed (07 R159, 23 R394) -/

/-- The unit of a core that is not listed is free, whatever its die has counted. -/
theorem core_running_eq {s t : State} (h : t.cores = s.cores) (n : Nat) :
    (t.core n).iss.running = (s.core n).iss.running := by
  have quiet (l : Tab Core) (c d : Core) (hcd : c.iss.running = d.iss.running) :
      (l.get c n).iss.running = (l.get d n).iss.running := by
    induction l with
    | nil => exact hcd
    | cons a l ih =>
      simp only [Tab.get]
      split
      · rfl
      · exact ih
  rw [core, core, h]
  exact quiet _ _ _ rfl

/-! ### The parts of taking a trap (14 R286 to R289) -/

theorem notice_ctxs (s : State) (p v : Nat) : (s.notice p v).ctxs = s.ctxs := rfl

theorem log_ctxs_cores (s : State) (source code p addr : Nat) :
    (s.log source code p addr).ctxs = s.ctxs ∧ (s.log source code p addr).cores = s.cores := by
  rw [log, logRecord_eq]; exact ⟨rfl, rfl⟩

/-- A message goes to the partition or into the error log: no context and no core changes. -/
theorem sendMessage_ctxs_cores (s : State) (x : Nat) :
    (s.sendMessage x).ctxs = s.ctxs ∧ (s.sendMessage x).cores = s.cores := by
  have ite (c : Prop) [Decidable c] {t u : State} (ht : t.ctxs = s.ctxs ∧ t.cores = s.cores)
      (hu : u.ctxs = s.ctxs ∧ u.cores = s.cores) :
      (if c then t else u).ctxs = s.ctxs ∧ (if c then t else u).cores = s.cores := by
    split
    · exact ht
    · exact hu
  exact ite _ ⟨rfl, rfl⟩ (ite _ (log_ctxs_cores ..) ⟨rfl, rfl⟩)

theorem traceTrigger_ctxs_cores (s : State) (n k : Nat) :
    (s.traceTrigger n k).ctxs = s.ctxs ∧ (s.traceTrigger n k).cores = s.cores := by
  simp only [traceTrigger]; split <;> exact ⟨rfl, rfl⟩

/-- The control registers with the record of a trap. -/
def recordCtl (c : Tab (BitVec 64)) (t : Trap) (tpc tnext tdone : BitVec 64) : Tab (BitVec 64) :=
  (((((c.put 0x038 (tcode t)).put 0x039 tpc).put 0x03A tnext).put 0x03B t.fa).put 0x03C t.info).put 0x012 tdone

/-- The state that holds the record of a trap and its stop, before the context gives anything up. -/
def recorded (s : State) (x : Nat) (t : Trap) (tpc tnext tdone : BitVec 64) (st : Stop) : State :=
  ((((((s.setCtl x 0x038 (tcode t)).setCtl x 0x039 tpc).setCtl x 0x03A tnext).setCtl x 0x03B t.fa).setCtl x 0x03C
    t.info).setCtl x 0x012 tdone).modTrap x fun k => { k with stop := some st, stopTime := s.ptime }

theorem recorded_ctx (s : State) (x : Nat) (t : Trap) (tpc tnext tdone : BitVec 64) (st : Stop) :
    (s.recorded x t tpc tnext tdone st).ctx x = { s.ctx x with
      ctl := recordCtl (s.ctx x).ctl t tpc tnext tdone
      trap := { (s.ctx x).trap with stop := some st, stopTime := s.ptime } } := by
  simp [recorded, recordCtl, setCtl, modTrap]

theorem recorded_ctx_other (s : State) {x y : Nat} (t : Trap) (tpc tnext tdone : BitVec 64) (st : Stop) (h : y ≠ x) :
    (s.recorded x t tpc tnext tdone st).ctx y = s.ctx y := by
  simp [recorded, setCtl, modTrap, ctx_modCtx_other _ _ _ _ h]

/-- A context that gives up the issue unit keeps the cycles it held it, and nothing else of it changes. -/
theorem releaseUnit_ctx (s : State) (x : Nat) :
    ∃ k, (s.releaseUnit x).ctx x = { s.ctx x with iss := { (s.ctx x).iss with icyc := k } } := by
  simp only [releaseUnit]; split
  · exact ⟨_, by simp [modIss]; rfl⟩
  · exact ⟨(s.ctx x).iss.icyc, rfl⟩

theorem releaseUnit_ctx_other (s : State) {x y : Nat} (h : y ≠ x) : (s.releaseUnit x).ctx y = s.ctx y := by
  simp only [releaseUnit]; split
  · simp [modIss, ctx_modCtx_other _ _ _ _ h]
  · rfl

theorem releaseUnit_running (s : State) (x : Nat) : ((s.releaseUnit x).core (coreOf x)).iss.running ≠ some (x % 8) := by
  simp only [releaseUnit]; split
  · simp [core_modCore]
  · assumption

theorem releaseUnit_st (s : State) (x n : Nat) : ((s.releaseUnit x).core n).st = (s.core n).st := by
  simp only [releaseUnit]; split
  · by_cases h : n = coreOf x
    · subst h; simp [core_modCore]
    · simp [core_modCore_other _ _ _ _ h]
  · rfl

/-- The state in which a context has stopped, before the trace unit and the handler learn of it. -/
def stoppedAt (s : State) (x : Nat) : State :=
  ((s.releaseUnit x).dropSnapshot x).modIss x fun i =>
    { i with phase := .stopped, waitFrom := none, wait := none, sleepUntil := none }

theorem takeTrap_ctxs_cores (s : State) (x : Nat) (t : Trap) (tpc tnext tdone : BitVec 64) (st : Stop) :
    (s.takeTrap x t tpc tnext tdone st).ctxs = ((s.recorded x t tpc tnext tdone st).stoppedAt x).ctxs
      ∧ (s.takeTrap x t tpc tnext tdone st).cores = ((s.recorded x t tpc tnext tdone st).stoppedAt x).cores := by
  obtain ⟨hc, hn⟩ := sendMessage_ctxs_cores
    (if t.code = 0 then (s.recorded x t tpc tnext tdone st).stoppedAt x
      else ((s.recorded x t tpc tnext tdone st).stoppedAt x).traceTrigger (coreOf x) 1) x
  have e : s.takeTrap x t tpc tnext tdone st = State.sendMessage
    (if t.code = 0 then (s.recorded x t tpc tnext tdone st).stoppedAt x
      else ((s.recorded x t tpc tnext tdone st).stoppedAt x).traceTrigger (coreOf x) 1) x := rfl
  rw [e, hc, hn]
  split
  · exact ⟨rfl, rfl⟩
  · exact traceTrigger_ctxs_cores _ _ _

/-- The context after its trap: the record, the stop and what it gave up; its registers and its place stay. -/
theorem takeTrap_ctx (s : State) (x : Nat) (t : Trap) (tpc tnext tdone : BitVec 64) (st : Stop) :
    ∃ k, (s.takeTrap x t tpc tnext tdone st).ctx x = { s.ctx x with
      ctl := recordCtl (s.ctx x).ctl t tpc tnext tdone
      iss := { (s.ctx x).iss with
        icyc := k, phase := .stopped, waitFrom := none, wait := none, sleepUntil := none }
      mem := { (s.ctx x).mem with view := none, holding := [], kept := [] }
      trap := { (s.ctx x).trap with stop := some st, stopTime := s.ptime } } := by
  obtain ⟨k, hk⟩ := releaseUnit_ctx (s.recorded x t tpc tnext tdone st) x
  refine ⟨k, ?_⟩
  rw [ctx, (takeTrap_ctxs_cores ..).1, ← ctx]
  simp [stoppedAt, dropSnapshot, modIss, modMem, hk, recorded_ctx]

theorem takeTrap_ctx_other (s : State) {x y : Nat} (t : Trap) (tpc tnext tdone : BitVec 64) (st : Stop) (h : y ≠ x) :
    (s.takeTrap x t tpc tnext tdone st).ctx y = s.ctx y := by
  rw [ctx, (takeTrap_ctxs_cores ..).1, ← ctx]
  simp [stoppedAt, dropSnapshot, modIss, modMem, ctx_modCtx_other _ _ _ _ h, releaseUnit_ctx_other _ h,
    recorded_ctx_other _ _ _ _ _ _ h]

theorem takeTrap_running (s : State) (x : Nat) (t : Trap) (tpc tnext tdone : BitVec 64) (st : Stop) :
    ((s.takeTrap x t tpc tnext tdone st).core (coreOf x)).iss.running ≠ some (x % 8) := by
  rw [core_running_eq (takeTrap_ctxs_cores ..).2]
  exact releaseUnit_running _ x

theorem takeTrap_st (s : State) (x : Nat) (t : Trap) (tpc tnext tdone : BitVec 64) (st : Stop) (n : Nat) :
    ((s.takeTrap x t tpc tnext tdone st).core n).st = (s.core n).st := by
  have stopped : ((s.recorded x t tpc tnext tdone st).stoppedAt x).cores =
      ((s.recorded x t tpc tnext tdone st).releaseUnit x).cores := rfl
  rw [core_st_eq (takeTrap_ctxs_cores ..).2, core_st_eq stopped, releaseUnit_st]
  rfl

end State

open State

/-- Settles O6: the context after the trap is written out once (`takeTrap_ctx`); what the message and the trace unit change
afterwards is no context and no core. -/
theorem trapRecord : Obligations.TrapRecord := by
  intro s x t tpc tnext tdone st u
  obtain ⟨k, hx⟩ := takeTrap_ctx s x t tpc tnext tdone st
  have hctl (num : Nat) : u.ctl x num = (recordCtl (s.ctx x).ctl t tpc tnext tdone).get (ctlReset num) num := by
    rw [State.ctl, hx]
  have put {c : Tab (BitVec 64)} {d v : BitVec 64} {i j : Nat} (h : j ≠ i) := Tab.get_put_other d c i j v h
  refine ⟨?_, ?_, ?_, ?_, ?_, ?_, by rw [hx], by rw [hx], by rw [hx], takeTrap_running _ _ _ _ _ _ _, fun r => ?_, fun r => ?_,
    fun r => ?_, by rw [hx], fun y hy => takeTrap_ctx_other _ _ _ _ _ _ hy, (takeTrap_same ..).1⟩
  iterate 6 simp [hctl, recordCtl, put, tcode]
  · rw [regS, regS, hx]
  · rw [regV, regV, takeTrap_st, poolIndex, poolIndex, hx]
  · rw [regK, regK, hx]

/-! ### Returns (14 R291, R294) -/

/-- The context whose place a handle names. -/
def placeOfHandle (h : Nat) : Nat := 8 * (96 * (h / 2 ^ 10 % 8) + h / 2 ^ 3 % 128) + h % 8

theorem exec_rett {s : State} (h : (s.ctl s.cur.ctx 0x03E).getLsbD 0 = true) :
    exec .rett s = .next (jump (s.setCtl s.cur.ctx 0x03E (s.ctl s.cur.ctx 0x03E &&& ~~~1#64))
      (BitVec.ofNat 58 ((s.ctl s.cur.ctx 0x03E).toNat / 64))) := congrArg Host.Outcome.next (if_pos h)

section
variable {s : State} {a : BitVec 6} (named : a ≠ 0)
  (own : (s.readS a).toNat / 2 ^ 13 % 2 ^ 11 = (s.ctl s.cur.ctx 0x000).toNat / 2 ^ 13 % 2 ^ 11)
  (there : (s.readS a).toNat / 2 ^ 3 % 128 < 96)
include named own there

/-- A handle of this package and partition, of a core that there is, is a return to the context at its place. -/
theorem returnOther_named (mode : Nat) : returnOther a mode s = returnTo s (placeOfHandle (s.readS a).toNat) mode := by
  have here : ¬ bits (s.readS a) 23 13 ≠ bits (s.ctl s.cur.ctx 0x000) 23 13 := not_not.mpr own
  have core : ¬ 96 ≤ bits (s.readS a) 9 3 := Nat.not_le.mpr there
  simp only [returnOther, if_neg named, if_neg here, if_neg core]
  simp [placeOfHandle, bits]

end

theorem returnTo_running {s : State} {x : Nat} (h : (s.ctx x).iss.phase ≠ .stopped) (mode : Nat) : returnTo s x mode = s :=
  if_pos (.inl h)

theorem returnTo_stopped {s : State} {x : Nat} (stopped : (s.ctx x).iss.phase = .stopped)
    (unsaved : (s.ctx x).iss.saving = none)
    (leaf : ¬((s.ctl x 0x012).getLsbD 13 = true ∧ 4 < bits (s.ctl x 0x012) 12 10)) (mode : Nat) :
    returnTo s x mode = if mode = 2 then s.endTask x true else resumeStop s x (decide (mode = 1)) := by
  have held : ¬((s.ctx x).iss.phase ≠ .stopped ∨ (s.ctx x).iss.saving.isSome = true) := by simp [stopped, unsaved]
  simp only [returnTo, if_neg held, if_neg leaf]

/-- Settles O34: a return of either kind by its checks, a handle's through the one function of its three forms. -/
theorem returns : Obligations.Returns := by
  intro s a l h x tree
  refine ⟨exec_rett, fun named own there => ⟨fun running => ?_, fun stopped unsaved leaf => ?_⟩⟩
  · have stays (mode : Nat) : Host.Outcome.next (returnOther a mode s) = (.next s : Out) := by
      rw [returnOther_named named own there]
      exact congrArg _ (returnTo_running running mode)
    exact ⟨stays 0, stays 1, stays 2⟩
  · have goes (mode : Nat) := (returnOther_named named own there mode).trans (returnTo_stopped stopped unsaved leaf mode)
    exact ⟨congrArg Host.Outcome.next (goes 0), congrArg Host.Outcome.next (goes 1), congrArg Host.Outcome.next (goes 2)⟩

end Sys2Proof.Machine

/-! SUPPORT. What walks, shoot-downs, edits and the requests of masters do (22 R386 to R389, 24 R402 to R408), and O54. -/

namespace Sys2Proof

/-- The entry of a table whose entries have all been changed alike. -/
theorem Tab.get_map {α β : Type} (g : α → β) (d : α) (t : Tab α) (k : Nat) :
    Tab.get (g d) (t.map fun q => (q.1, g q.2)) k = g (t.get d k) := by
  induction t with
  | nil => rfl
  | cons a t ih =>
    simp only [List.map_cons, Tab.get]
    split
    · rfl
    · exact ih

namespace Machine

/-! ### What the masters keep while hardware writes and logs (24 R404, R408) -/

/-- A master without the vectors that notices have raised. -/
def Master.bare (m : Master) : Master := { m with vectors := [] }

/-- The masters are as before, but for the vectors that notices raise. -/
def SameMasters (s t : State) : Prop := (t.masters.map fun m => (m.1, Master.bare m.2)) = s.masters.map fun m => (m.1, Master.bare m.2)

namespace SameMasters

theorem refl (s : State) : SameMasters s s := rfl

theorem of_eq {s t : State} (h : t.masters = s.masters) : SameMasters s t := by rw [SameMasters, h]

theorem trans {s t u : State} (h : SameMasters s t) (k : SameMasters t u) : SameMasters s u := Eq.trans k h

theorem ite {s t u : State} (c : Prop) [Decidable c] (h : SameMasters s t) (k : SameMasters s u) :
    SameMasters s (if c then t else u) := by
  split
  · exact h
  · exact k

theorem foldl {α : Type} {f : State → α → State} (hf : ∀ s a, SameMasters s (f s a)) (l : List α) (s : State) :
    SameMasters s (l.foldl f s) :=
  List.foldlRecOn (motive := SameMasters s) l f (.refl s) fun t h a _ => h.trans (hf t a)

theorem master {s t : State} (h : SameMasters s t) (m : Nat) : Master.bare (t.master m) = Master.bare (s.master m) := by
  have bare (u : State) : Master.bare (u.master m) =
      Tab.get (Master.bare State.resetMaster) (u.masters.map fun q => (q.1, Master.bare q.2)) m := (Tab.get_map ..).symm
  rw [bare, bare, h]

end SameMasters

namespace State

theorem notice_masters (s : State) (p v : Nat) : SameMasters s (s.notice p v) := (notice_logsOnly s p v).2

theorem log_masters (s : State) (source code p addr : Nat) : SameMasters s (s.log source code p addr) :=
  (logRecord_logsOnly s _).2

theorem touchLines_masters (s : State) (ls : List Nat) (d : Bool) : (s.touchLines ls d).masters = s.masters := by
  have back (s : State) (l : Nat) : (s.queueBack l).masters = s.masters := by
    obtain h | ⟨v, h⟩ := s.queueBack_cases l <;> rw [h]; rfl
  have touched (s : State) (l : Nat) : (s.touchL2 l d).masters = s.masters := by
    unfold touchL2; split
    · exact (foldl_keeps (·.masters) (fun s (e : L2Line) => s.queueBack e.line) (fun s e => back s e.line) _ _).trans rfl
    · rfl
  exact foldl_keeps (·.masters) (fun s l => s.touchL2 l d) touched ls s

theorem sysWrite_masters (s : State) (a : Nat) (bs : List (BitVec 8)) : (s.sysWrite a bs).masters = s.masters := by
  have repaired (u : State) (cells : List (Nat × BitVec 8)) : (u.repairPoison cells).masters = u.masters := by
    simp only [repairPoison]; split <;> rfl
  simp only [sysWrite, repaired, publishCells]; split
  · rfl
  · exact touchLines_masters ..

theorem hwWalks_masters (s : State) (p va n : Nat) (k : Access) : SameMasters s (s.hwWalks p va n k) := by
  refine .foldl (fun s va => ?_) _ _
  split
  · simp only [logWalk]; split
    · exact log_masters ..
    · exact .refl s
  · refine .ite _ (.trans (.of_eq (touchLines_masters ..)) (.ite _ (.refl _) (.of_eq (sysWrite_masters ..)))) (.refl s)

theorem hwWrite_masters (s : State) (p va : Nat) (bs : List (BitVec 8)) : SameMasters s (s.hwWrite p va bs) := by
  have published (u : State) (cells : List (Nat × BitVec 8)) :
      SameMasters u ((u.publishCells 0 5 0 cells).repairPoison cells) := by
    have h : (u.publishCells 0 5 0 cells).masters = u.masters := by
      simp only [publishCells]; split
      · rfl
      · exact touchLines_masters ..
    exact .ite _ (.of_eq h) (.of_eq h)
  have h := (hwWalks_masters s p va bs.length .write).trans (published _ ((s.hwWalks p va bs.length .write).hwCells p va bs))
  exact .ite _ h (h.trans (log_masters ..))

theorem putStatus_masters (s : State) (f v : Nat) : SameMasters s (s.putStatus f v) :=
  .ite _ (.refl s) (hwWrite_masters ..)

theorem haltFront_masters (s : State) (f code : Nat) : SameMasters s (s.haltFront f code) := by
  have halted : SameMasters s (s.setFront f { s.front f with halted := true, code := code }) := .of_eq rfl
  exact (halted.trans (putStatus_masters ..)).trans (notice_masters ..)

end State

open State

/-! ### Walks, shoot-downs and edits (22 R386 to R389) -/

section
variable {s : State}

theorem exec_translationWalk {d p va : Nat} {wr : Bool} {l : Leaf} (clear : s.shooting p va 1 = false)
    (leaf : s.dieWalk d p va = some l) (serves : s.entryAllows p va (if wr then .write else .read) l = true) :
    exec (.translationWalk d p va wr) s = .next (s.walked d p va wr l).2.forgetWalks := by
  change execTranslationWalk d p va wr s = _
  have ok : (if wr then s.entryAllows p va .write l else s.entryAllows p va .read l || s.entryAllows p va .fetch l) = true := by
    cases wr with
    | true => exact serves
    | false => exact Bool.or_eq_true_iff.mpr (.inl serves)
  simp only [execTranslationWalk, clear, leaf, ok, Bool.false_eq_true, if_false, if_true]

theorem exec_shootDownComplete {n : Nat} {h : ShootDown} (shot : s.shoots[n]? = some h) (done : s.shotDone h = true) :
    exec (.shootDownComplete n) s = .next
      (({ s with shoots := s.shoots.eraseIdx n } : State).editRecord h.part 1 h.core h.va h.len h.stalled) := by
  change execShootDownComplete n s = _
  simp only [execShootDownComplete, shot, done, if_true]

theorem exec_translationMemoryEdit {c p va val : Nat} (aligned : va % 8 = 0) (tmem : s.inTmem p va 8 = true) :
    exec (.translationMemoryEdit c p va val) s = .next ((s.sysWrite va (bytesLE 8 val)).editLogged p 0 c va 8) :=
  congrArg Host.Outcome.next (if_pos ⟨aligned, tmem⟩)

/-! ### Requests (24 R404 to R408) -/

theorem exec_read (m va len : Nat) : exec (.hostOrPeerRequest m va len none) s = .next (s.request m va len none) := rfl

theorem exec_write {m va len : Nat} (bs : List (BitVec 8)) (device : va < 2 ^ 52) :
    exec (.hostOrPeerRequest m va len (some bs)) s = .next (s.request m va len (some bs)) :=
  congrArg Host.Outcome.next (if_neg (Nat.not_le.mpr device))

section DeviceRequests
variable {m va len : Nat} (runs : (s.master m).frozen = false) (first : (s.master m).requests = [])
include runs first

theorem State.request_window (off : Nat) : s.request m (2 ^ 52 + off) len none =
    s.modMaster m fun q => { q with answers := q.answers ++ [s.readWindow off len] } := by
  simp [request, runs, first, readsWindow]

variable (device : va < 2 ^ 52) (open_ : s.checkpointed va = false)
include device open_

/-- A request to the device that nothing holds as it comes reads the error log, lies outside its function's aperture, or goes
to the memory. -/
theorem State.request_device (data : Option (List (BitVec 8))) : s.request m va len data =
    if s.readsLog va len data then
      s.modMaster m fun q => { q with answers := q.answers ++ [(List.range len).map fun i => s.logByte (va - s.pkg.logBase + i)] }
    else if s.inAperture m va len = false then s.modMaster m fun q => { q with errors := q.errors + 1 }
    else if s.mayReach m va len data.isSome = false then s.freeze m true
    else if data.isSome && s.linesOff 8000 (physLines va len) then
      s.modMaster m fun q => { q with requests := q.requests ++ [⟨va, len, data, false⟩] }
    else match s.memoryTurn (11000 + m) 0 (physLines va len) with
      | (true, t) => t.serve m va len data
      | (false, t) => t.modMaster m fun q => { q with requests := q.requests ++ [⟨va, len, data, false⟩] } := by
  simp only [request, runs, first, readsWindow, Nat.not_le.mpr device, open_, decide_false, Bool.false_and, Bool.not_false,
    Bool.and_false, Bool.or_false, List.isEmpty_nil, Bool.not_true, Bool.false_eq_true, if_false] <;> rfl

theorem State.request_log (low : s.pkg.logBase ≤ va) (high : va + len ≤ s.pkg.logBase + s.pkg.logSize / 32 * 32) :
    s.request m va len none = s.modMaster m fun q =>
      { q with answers := q.answers ++ [(List.range len).map fun i => s.logByte (va - s.pkg.logBase + i)] } := by
  rw [request_device runs first device open_, if_pos (by simp [readsLog, low, high])]

theorem State.request_outside (other : s.readsLog va len none = false) (least : 1 ≤ m) (most : m ≤ 32)
    (outside : va < (s.master m).base ∨ (s.master m).base + (s.master m).size < va + len) :
    s.request m va len none = s.modMaster m fun q => { q with errors := q.errors + 1 } := by
  have missed : s.inAperture m va len = false := by simp only [inAperture, decide_eq_false_iff_not]; omega
  rw [request_device runs first device open_, if_neg (by simp [other]), if_pos missed]

variable (within : s.inAperture m va len = true)
include within

section
variable (other : s.readsLog va len none = false)
include other

theorem State.request_forbidden (bars : s.mayReach m va len false = false) : s.request m va len none = s.freeze m true := by
  rw [request_device runs first device open_, if_neg (by simp [other]), if_neg (by simp [within])]
  exact if_pos bars

theorem State.request_read {t : State} (turn : s.memoryTurn (11000 + m) 0 (physLines va len) = (true, t))
    (may : s.mayReach m va len false = true) (still : t.mayReach m va len false = true)
    (good : firstPoison t.poison va len = none) : s.request m va len none =
      (t.touchLines (physLines va len) false).modMaster m fun q => { q with answers := q.answers ++ [t.mem.read va len] } := by
  rw [request_device runs first device open_, if_neg (by simp [other]), if_neg (by simp [within]), turn]
  simp [may, serve, still, good]

end

section DeviceWrites
variable (may : s.mayReach m va len true = true) (bs : List (BitVec 8))
include may

theorem State.request_write {t : State} (turn : s.memoryTurn (11000 + m) 0 (physLines va len) = (true, t))
    (free : s.linesOff 8000 (physLines va len) = false) (still : t.mayReach m va len true = true)
    (plain : t.tmemOf va len = none) : s.request m va len (some bs) = t.sysWrite va (bs.take len) := by
  rw [request_device runs first device open_, if_neg (by simp [readsLog]), if_neg (by simp [within]), turn]
  simp [may, free, serve, still, plain]

theorem State.request_pressed (pressed : s.linesOff 8000 (physLines va len) = true) : s.request m va len (some bs) =
    s.modMaster m fun q => { q with requests := q.requests ++ [⟨va, len, some bs, false⟩] } := by
  rw [request_device runs first device open_, if_neg (by simp [readsLog]), if_neg (by simp [within])]
  simp [may, pressed]

end DeviceWrites
end DeviceRequests

/-! ### Frozen masters (24 R405, R407) -/

/-- A master that is frozen keeps nothing outstanding, and each of what it had, with what froze it, is an error. -/
theorem State.freeze_master (s : State) (m : Nat) (wr : Bool) : ((s.freeze m wr).master m).frozen = true
    ∧ ((s.freeze m wr).master m).requests = []
    ∧ ((s.freeze m wr).master m).errors = (s.master m).errors + (s.master m).requests.length + 1 := by
  let u := s.modMaster m fun q => { q with frozen := true, errors := q.errors + q.requests.length + 1, requests := [] }
  have kept : SameMasters u (s.freeze m wr) := by
    have halted : SameMasters u (match (u.master m).part with
        | some p => (u.fronts.filter fun f => decide (f.2.part = p) && f.2.bound && !f.2.halted).foldl
            (fun (v : State) f => v.haltFront f.1 0x07) u
        | none => u) := by
      split
      · exact .foldl (fun v f => haltFront_masters ..) _ _
      · exact .refl u
    exact .ite _ (halted.trans (.of_eq rfl)) halted
  have h := kept.master m
  rw [show u.master m = _ from master_modMaster ..] at h
  simp only [Master.bare, Master.mk.injEq] at h
  obtain ⟨frozen, requests, -, -, -, errors, -⟩ := h
  exact ⟨frozen, requests, errors⟩

theorem exec_masterRelease {m n : Nat} (own : s.pkg.owner = some m) (frozen : (s.master n).frozen = true) :
    exec (.masterRelease m n) s = .next ((s.modMaster n fun q => { q with frozen := false }).proceed n) :=
  congrArg Host.Outcome.next ((if_pos own).trans (if_pos frozen))

theorem exec_controlWindowWrite {m off size val : Nat} (runs : (s.master m).frozen = false) :
    exec (.controlWindowWrite m off size val) s = .next (s.byOwner m (s.writeWindow m off (bytesLE size val))) :=
  congrArg Host.Outcome.next (if_neg (by simp [runs]))

end

/-- Settles O54: each event by its equation, a request by the one case analysis of `request_device`. -/
theorem translationAndMasters : Obligations.TranslationAndMasters := by
  intro s d p va len c m n off size val wr l h bs e es w u
  refine ⟨exec_translationWalk, rfl, exec_shootDownComplete, exec_translationMemoryEdit,
    fun runs first device open_ other within => ⟨fun t turn => ⟨fun may still good => ?read, fun may free still plain => ?write⟩,
      fun may pressed => ?pressed, fun bars => ?forbidden⟩,
    fun runs first device open_ other least most outside => ?outside,
    fun runs first device open_ low high => ?log, freeze_master s m wr, fun runs first => ?window, exec_masterRelease,
    fun runs => ⟨fun own => ?owner, fun stranger => ?stranger⟩⟩
  case read => rw [exec_read, request_read runs first device open_ within other turn may still good]
  case write => rw [exec_write bs device, request_write runs first device open_ within may bs turn free still plain]
  case pressed => rw [exec_write bs device, request_pressed runs first device open_ within may bs pressed]
  case forbidden => rw [exec_read, request_forbidden runs first device open_ within other bars]
  case outside => rw [exec_read, request_outside runs first device open_ other least most outside]
  case log => rw [exec_read, request_log runs first device open_ low high]
  case window => rw [exec_read, request_window runs first]
  case owner => rw [exec_controlWindowWrite runs, byOwner, if_pos own]
  case stranger => rw [exec_controlWindowWrite runs, byOwner, if_neg stranger]

end Machine
end Sys2Proof

/-! SUPPORT. What boot, owners, partitions, trace units and updates do (23 R391, 24 R402 to R412), and O59, O60. -/

namespace Sys2Proof.Machine

/-! ### Bytes of a number (00 R5) -/

theorem bytesLE_succ (n v : Nat) : bytesLE (n + 1) v = BitVec.ofNat 8 v :: bytesLE n (v / 256) := by
  simp only [bytesLE, List.range_succ_eq_map, List.map_cons, List.map_map]
  refine congrArg₂ _ (by simp) (List.map_congr_left fun i _ => ?_)
  simp only [Function.comp_apply, Nat.div_div_eq_div_mul]
  congr 2
  rw [show 8 * (i + 1) = 8 + 8 * i by omega, Nat.pow_add]

/-- The number of the first n bytes of a number. -/
theorem ofBytesLE_bytesLE (n v : Nat) : ofBytesLE (bytesLE n v) = v % 2 ^ (8 * n) := by
  induction n generalizing v with
  | zero => simp [bytesLE, ofBytesLE, Nat.mod_one]
  | succ n ih =>
    rw [bytesLE_succ, ofBytesLE, ih, show 8 * (n + 1) = 8 + 8 * n by omega, Nat.pow_add, Nat.mod_mul]
    simp

@[simp] theorem bytesLE_length (n v : Nat) : (bytesLE n v).length = n := by simp [bytesLE]

namespace State

/-! ### The tables that a firmware image loads (21 R365, 24 R409) -/

/-- What the loading of tables leaves: the cores and what a die clocks change, no die is gated or ungated by it, no step opens
or ends and no walk is cached, and no context comes or goes. -/
def Retabled (s t : State) : Prop :=
  t = { s with cores := t.cores, dies := t.dies, ctxs := t.ctxs } ∧ t.ctxs.length = s.ctxs.length
    ∧ ∀ d, (t.die d).gated = (s.die d).gated ∧ (t.die d).steps = (s.die d).steps ∧ (t.die d).walks = (s.die d).walks

namespace Retabled

theorem refl (s : State) : Retabled s s := ⟨rfl, rfl, fun _ => ⟨rfl, rfl, rfl⟩⟩

theorem trans {s t u : State} (h : Retabled s t) (k : Retabled t u) : Retabled s u := by
  obtain ⟨ht, hl, hd⟩ := h
  obtain ⟨ku, kl, kd⟩ := k
  refine ⟨by rw [ku, ht], kl.trans hl, fun d => ?_⟩
  obtain ⟨a, b, c⟩ := hd d
  obtain ⟨a', b', c'⟩ := kd d
  exact ⟨a'.trans a, b'.trans b, c'.trans c⟩

theorem ite {s t u : State} (c : Prop) [Decidable c] (h : Retabled s t) (k : Retabled s u) :
    Retabled s (if c then t else u) := by
  split
  · exact h
  · exact k

theorem foldl {α : Type} {f : State → α → State} (hf : ∀ s a, Retabled s (f s a)) (l : List α) (s : State) :
    Retabled s (l.foldl f s) := by
  induction l generalizing s with
  | nil => exact refl s
  | cons a l ih => exact (hf s a).trans (ih _)

theorem modCore (s : State) (n : Nat) (f : Core → Core) : Retabled s (s.modCore n f) := ⟨rfl, rfl, fun _ => ⟨rfl, rfl, rfl⟩⟩

theorem modDie (s : State) (d : Nat) (f : Die → Die)
    (hf : ∀ v, (f v).gated = v.gated ∧ (f v).steps = v.steps ∧ (f v).walks = v.walks) : Retabled s (s.modDie d f) := by
  refine ⟨rfl, rfl, fun e => ?_⟩
  by_cases h : e = d
  · subst h; rw [die_modDie]; exact hf _
  · rw [die_modDie_other _ _ _ _ h]; exact ⟨rfl, rfl, rfl⟩

end Retabled

theorem setSupplies_retabled (s : State) (d : Nat) (f : Nat → Nat) : Retabled s (s.setSupplies d f) :=
  .modDie _ _ _ fun _ => ⟨rfl, rfl, rfl⟩

theorem setProfiles_retabled (s : State) (d profile : Nat) (slew : Nat → Nat) : Retabled s (s.setProfiles d profile slew) :=
  .foldl (fun _ _ => .modCore ..) _ _

theorem grantProfiles_retabled (s : State) (d : Nat) (e : Entry) : Retabled s (s.grantProfiles d e) :=
  .ite _ (setProfiles_retabled ..) (.ite _ (.refl s) ((setProfiles_retabled ..).trans (.foldl (fun _ _ => .modCore ..) _ _)))

theorem rebind_retabled (s : State) (d : Nat) : Retabled s (s.rebind d) :=
  ⟨rfl, List.length_map .., fun _ => ⟨rfl, rfl, rfl⟩⟩

theorem setClock_retabled (s : State) (d i : Nat) : Retabled s (s.setClock d i) := by
  unfold setClock
  refine Retabled.trans ?_ (rebind_retabled ..)
  refine Retabled.trans ?_ (grantProfiles_retabled ..)
  exact (setSupplies_retabled ..).trans (.modDie _ _ _ fun _ => ⟨rfl, rfl, rfl⟩)

/-- A die takes a new table. -/
def takeTable (s : State) (d : Nat) (t : Tab (BitVec 64)) (safe : Nat) : State :=
  s.modDie d fun v => { v with table := t, lastSafe := safe }

/-- A die whose clock is mhz stands at an entry of its table, its columns at the entry's ceiling. -/
def standAt (s : State) (d mhz i : Nat) : State :=
  let t := if (s.entryAt d i).fmhz = mhz then s.modDie d fun v => { v with entry := i } else s.setClock d i
  t.setSupplies d fun _ => (t.entryAt d i).vmax

theorem takeTable_retabled (s : State) (d : Nat) (t : Tab (BitVec 64)) (safe : Nat) : Retabled s (s.takeTable d t safe) :=
  .modDie _ _ _ fun _ => ⟨rfl, rfl, rfl⟩

theorem standAt_retabled (s : State) (d mhz i : Nat) : Retabled s (s.standAt d mhz i) := by
  unfold standAt
  refine Retabled.trans ?_ (setSupplies_retabled ..)
  split
  · exact .modDie _ _ _ fun _ => ⟨rfl, rfl, rfl⟩
  · exact setClock_retabled ..

theorem loadTables_retabled (s : State) (image : Nat) : Retabled s (s.loadTables image) := by
  refine .foldl (fun s d => .ite _ (.refl s) ?_) _ _
  extract_lets _ _ _ goal safe
  generalize goal = goal, safe = safe
  rcases goal, safe with ⟨_ | q, _ | k⟩
  case some.some => exact (takeTable_retabled ..).trans (standAt_retabled ..)
  all_goals exact .refl s

/-- The package after a reset whose images have been verified, before the last of them loads its tables (24 R409). -/
def booted (s : State) (images : List Nat) : State :=
  { s.afterReset with pkg := { s.afterReset.pkg with
    bootState := 0, open_ := true, firmware := images, chain := images.foldl chainLink 0 } }

end State

open State

theorem booted_dies (s : State) (images : List Nat) : (s.booted images).dies = [] := by
  unfold booted afterReset; rfl

theorem exec_packageReset (s : State) (images : List Nat) : ∃ u, exec (.packageReset 0 images) s = .next u
    ∧ Retabled (s.booted images) u ∧ (images = [] → u = s.booted images) := by
  change ∃ u, execPackageReset 0 images s = .next u ∧ _
  cases h : images.getLast? with
  | none => exact ⟨s.booted images, by simp [execPackageReset, h, booted], .refl _, fun _ => rfl⟩
  | some image =>
    refine ⟨(s.booted images).loadTables image, by simp [execPackageReset, h, booted], loadTables_retabled .., ?_⟩
    rintro rfl
    cases h

/-! ### Owners (24 R405, R406) -/

section OwnersAndUnits
variable {s : State} {m t : Nat}

theorem exec_ownershipClaim (none_ : s.pkg.owner = none) (claims : s.pkg.open_ = true) :
    exec (.ownershipClaim m true) s = .next { s with pkg := { s.pkg with
      owner := some m, ownerSince := s.pkg.now / 1000000000 + 1, open_ := false, target := none } } := by
  change execOwnershipClaim m true s = _
  simp [execOwnershipClaim, none_, claims]

theorem exec_handoverAcceptance (offer : s.pkg.target = some (m, t)) (intime : s.pkg.now ≤ t) :
    exec (.handoverAcceptance m) s =
      .next { s with pkg := { s.pkg with owner := some m, ownerSince := 0, target := none } } := by
  change execHandoverAcceptance m s = _
  simp [execHandoverAcceptance, offer, intime]

theorem exec_handoverTimeout (offer : s.pkg.target = some (m, t)) (late : t < s.pkg.now) :
    exec .handoverTimeout s = .next { s with pkg := { s.pkg with target := none } } := by
  change execHandoverTimeout s = _
  simp [execHandoverTimeout, offer, late]

theorem exec_ownershipLapse (own : s.pkg.owner = some m) :
    exec .ownershipLapse s = .next { s with pkg := { s.pkg with owner := none, open_ := true, target := none } } := by
  change execOwnershipLapse s = _
  simp [execOwnershipLapse, own]

theorem State.byOwner_owner (own : s.pkg.owner = some m) (act : State) : s.byOwner m act = act := if_pos own

/-! ### Writes of the control window by its owner (24 R402) -/

theorem State.windowWrite_owner (own : s.pkg.owner = some m) (runs : (s.master m).frozen = false) (o : Nat)
    (bs : List (BitVec 8)) : s.windowWrite m o bs = s.writeWindow m o bs := by
  simp [windowWrite, runs, byOwner_owner own]

/-- A write that stays within one entry is one write of that entry. -/
theorem State.writeWindow_within {o : Nat} {bs : List (BitVec 8)} (some_ : bs ≠ []) (within : o + bs.length ≤ entryEnd o) :
    s.writeWindow m o bs = s.writePart m o bs := by
  have whole : bs.take (entryEnd o - o) = bs := List.take_of_length_le (by omega)
  have left : bs.drop (entryEnd o - o) = [] := List.drop_of_length_le (by omega)
  have empty (n k : Nat) : splitWrite n k [] = [] := by cases n <;> rfl
  obtain ⟨n, hn⟩ : ∃ n, bs.length = n + 1 := ⟨bs.length - 1, by have := List.length_pos_iff.mpr some_; omega⟩
  simp [writeWindow, hn, splitWrite, some_, whole, left, empty]

/-! ### Partitions (24 R403) -/

/-- Partition entry e with its state byte written. -/
def PartEntry.withState (e : PartEntry) (v : BitVec 8) : PartEntry := e.ofImage (patchBytes e.image 0 [v])

theorem PartEntry.withState_state (e : PartEntry) (v : BitVec 8) : (e.withState v).state = v.toNat := by
  obtain ⟨b, rest, h⟩ : ∃ b rest, e.image = b :: rest := ⟨_, _, rfl⟩
  simp [withState, PartEntry.ofImage, h, patchBytes, ofBytesLE]

/-- The units of an entry stay as another names them. -/
def PartEntry.SameUnits (e w : PartEntry) : Prop := w.quads = e.quads ∧ w.groups = e.groups ∧ w.fronts = e.fronts

/-- State 2 written at an entry of state 1: the partition starts, or the write is refused. -/
theorem State.writeEntry_start {p : Nat} (units : (s.part p).ent.SameUnits ((s.part p).ent.withState 2))
    (idle : (s.part p).ent.state = 1) : s.writeEntry m p 0 [2] =
      if startable ((s.part p).ent.withState 2) = true then (s.setEntry p ((s.part p).ent.withState 2)).startPart p
      else s.refuse m := by
  obtain ⟨quads, groups, fronts⟩ := units
  have state : ((s.part p).ent.withState 2).state = 2 := PartEntry.withState_state _ 2
  unfold writeEntry
  extract_lets old new same head stopped entered moved
  change new.quads = _ at quads
  change new.groups = _ at groups
  change new.fronts = _ at fronts
  change new.state = _ at state
  change _ = if startable new = true then (s.setEntry p new).startPart p else s.refuse m
  clear_value new head
  cases starts : startable new <;> simp [moved, entered, stopped, same, old, quads, groups, fronts, state, idle]

/-- State 1 written at an entry of state 2: the partition stops. -/
theorem State.writeEntry_stop {u : State} {p : Nat} (units : (s.part p).ent.SameUnits ((s.part p).ent.withState 1))
    (works : (s.part p).ent.state = 2) (stops : (s.stopPart p).setEntry p ((s.part p).ent.withState 1) = u)
    (hardware : u.pkg.hostRefill = false) : s.writeEntry m p 0 [1] = u := by
  obtain ⟨quads, groups, fronts⟩ := units
  have state : ((s.part p).ent.withState 1).state = 1 := PartEntry.withState_state _ 1
  unfold writeEntry
  extract_lets old new same head stopped entered moved
  change new.quads = _ at quads
  change new.groups = _ at groups
  change new.fronts = _ at fronts
  change new.state = _ at state
  change (s.stopPart p).setEntry p new = u at stops
  clear_value new head
  simp [moved, entered, stopped, same, old, quads, groups, fronts, state, works, reachesUnits, stops, hardware]

section
variable {p : Nat} (own : s.pkg.owner = some m) (runs : (s.master m).frozen = false) (lists : p < 32)
include own runs lists

theorem State.windowWrite_state (v : BitVec 8) :
    s.windowWrite m (0x100000 + 1024 * (p % 32)) [v] = s.writeEntry m p 0 [v] := by
  have hp : p % 32 = p := Nat.mod_eq_of_lt lists
  have hend : entryEnd (0x100000 + 1024 * p) = (0x100000 + 1024 * p) / 1024 * 1024 + 1024 := by
    simp only [entryEnd, if_neg (show ¬ 0x100000 + 1024 * p < 0x100000 by omega),
      if_pos (show 0x100000 + 1024 * p < 0x108000 by omega)]
    omega
  rw [hp, windowWrite_owner own runs, writeWindow_within (by simp) (by rw [hend]; simp; omega), writePart,
    if_pos (by omega), show (0x100000 + 1024 * p - 0x100000) / 1024 = p by omega,
    show (0x100000 + 1024 * p) % 1024 = 0 by omega]

theorem exec_partitionStart (units : (s.part p).ent.SameUnits ((s.part p).ent.withState 2)) (idle : (s.part p).ent.state = 1) :
    exec (.partitionStart m p) s = .next (if startable ((s.part p).ent.withState 2) = true then
      (s.setEntry p ((s.part p).ent.withState 2)).startPart p
      else s.modMaster m fun q => { q with errors := q.errors + 1 }) :=
  congrArg Host.Outcome.next ((windowWrite_state own runs lists 2).trans (writeEntry_start units idle))

theorem exec_partitionStop {u : State} (units : (s.part p).ent.SameUnits ((s.part p).ent.withState 1)) (works : (s.part p).ent.state = 2)
    (stops : (s.stopPart p).setEntry p ((s.part p).ent.withState 1) = u) (hardware : u.pkg.hostRefill = false) :
    exec (.partitionStop m p) s = .next u :=
  congrArg Host.Outcome.next ((windowWrite_state own runs lists 1).trans (writeEntry_stop units works stops hardware))

end

/-! ### Trace units (23 R391) -/

/-- A trace control word that does not run, or names a core whose quad a partition holds, is taken. -/
theorem State.writeTrace_taken {d word : Nat} (taken : word / 2 ^ 7 % 2 = 0 ∨ word % 128 < 96
      ∧ ∃ q ∈ s.parts, q.2.ent.quads.getLsbD (24 * d + word % 128 / 4) = true) :
    s.writeTrace m d word = s.modDie d fun v => { v with traceWord := BitVec.ofNat 64 (word % 2 ^ 28), traceLeft := none } := by
  have low : bits (BitVec.ofNat 64 (word % 2 ^ 28)) 6 0 = word % 128 := by
    simp only [bits, BitVec.toNat_ofNat]; omega
  have run : (BitVec.ofNat 64 (word % 2 ^ 28)).getLsbD 7 = decide (word / 2 ^ 7 % 2 = 1) := by
    rw [BitVec.getLsbD_ofNat, Nat.testBit_mod_two_pow, Nat.testBit_eq_decide_div_mod_eq]
    simp
  refine if_neg ?_
  rw [low, run]
  obtain h | ⟨h, q, hq, held⟩ := taken
  · simp only [h]
    simp
  · have : (s.parts.any fun p => p.2.ent.quads.getLsbD (24 * d + word % 128 / 4)) = true :=
      List.any_eq_true.mpr ⟨q, hq, held⟩
    simp [h, this]

section
variable {d : Nat} (own : s.pkg.owner = some m) (runs : (s.master m).frozen = false) (lists : d < 8)
include own runs lists

/-- A doubleword written at a die's trace control word is that word's write. -/
theorem State.windowWrite_trace {bs : List (BitVec 8)} (size : bs.length = 8) :
    s.windowWrite m (0x400800 + 4096 * (d % 8)) bs = s.writeTrace m d (ofBytesLE bs) := by
  have hd : d % 8 = d := Nat.mod_eq_of_lt lists
  have hend : entryEnd (0x400800 + 4096 * d) = 2 ^ 52 := by
    simp only [entryEnd, if_neg (show ¬ 0x400800 + 4096 * d < 0x100000 by omega),
      if_neg (show ¬ 0x400800 + 4096 * d < 0x108000 by omega), if_neg (show ¬ 0x400800 + 4096 * d < 0x200000 by omega),
      if_neg (show ¬ 0x400800 + 4096 * d < 0x201000 by omega)]
  have words : wordsOf (0x400800 + 4096 * d) 8 = [0x400800 + 4096 * d] := by
    simp only [wordsOf, show (0x400800 + 4096 * d + 8 - 1) / 8 - (0x400800 + 4096 * d) / 8 + 1 = 1 by omega]
    simp; omega
  have whole (old w : Nat) : patchWord old w w bs = ofBytesLE bs := by
    refine congrArg ofBytesLE (List.ext_getElem (by simp [size]) fun i h _ => ?_)
    have hi : i < bs.length := by simpa [size] using h
    simp [hi]
  rw [hd, windowWrite_owner own runs, writeWindow_within (List.ne_nil_of_length_eq_add_one size) (by rw [hend, size]; omega),
    writePart, if_neg (by omega), if_neg (by omega), size, words]
  simp only [List.foldl_cons, List.foldl_nil, whole]
  rw [writeWord, if_neg (by omega), if_pos (by omega), show (0x400800 + 4096 * d - 0x400000) / 4096 = d by omega,
    show (0x400800 + 4096 * d) % 4096 = 2048 by omega]
  simp

theorem exec_traceStart {word : Nat} (core : (word ||| 0x80) % 2 ^ 28 % 128 < 96)
    (held : ∃ q ∈ s.parts, q.2.ent.quads.getLsbD (24 * d + (word ||| 0x80) % 2 ^ 28 % 128 / 4) = true) :
    exec (.traceStart m d word) s = .next (s.modDie d fun v => { v with
      traceWord := BitVec.ofNat 64 ((word ||| 0x80) % 2 ^ 28), traceLeft := none }) := by
  have low : (word ||| 0x80) % 2 ^ 64 % 128 = (word ||| 0x80) % 2 ^ 28 % 128 := by omega
  refine congrArg Host.Outcome.next ((windowWrite_trace own runs lists (bytesLE_length ..)).trans ?_)
  rw [ofBytesLE_bytesLE, writeTrace_taken (.inr (by rw [low]; exact ⟨core, held⟩))]
  rw [show (word ||| 0x80) % 2 ^ (8 * 8) % 2 ^ 28 = (word ||| 0x80) % 2 ^ 28 by omega]

theorem exec_traceStop : exec (.traceStop m d) s = .next (s.modDie d fun v => { v with
    traceWord := BitVec.ofNat 64 (((s.die d).traceWord &&& ~~~0x80#64).toNat % 2 ^ 28), traceLeft := none }) := by
  have stops : ((s.die d).traceWord &&& ~~~0x80#64).toNat / 2 ^ 7 % 2 = 0 := by
    have h : ((s.die d).traceWord &&& ~~~0x80#64).getLsbD 7 = false := by simp
    simpa [BitVec.getLsbD, Nat.testBit_eq_decide_div_mod_eq] using h
  have word : ((s.die d).traceWord &&& ~~~0x80) = (s.die d).traceWord &&& ~~~0x80#64 := rfl
  refine congrArg Host.Outcome.next ((windowWrite_trace own runs lists (bytesLE_length ..)).trans ?_)
  rw [Nat.mod_eq_of_lt lists, ofBytesLE_bytesLE, Nat.mod_eq_of_lt (BitVec.isLt _), word, writeTrace_taken (.inl stops)]

end

theorem exec_tracePostExpiry {d : Nat} (ended : (s.die d).traceLeft = some 0) :
    exec (.tracePostExpiry d) s = .next (s.modDie d fun v => { v with
      traceWord := v.traceWord &&& ~~~0x80, traceLeft := none }) := congrArg Host.Outcome.next (if_pos ended)

/-! ### Checkpoints and updates (24 R411, R412) -/

theorem exec_checkpoint_starts {p : Nat} (first : p ∉ s.pkg.checkpoints) (hardware : s.pkg.hostCheckpoint = false)
    (works : (s.part p).ent.state = 2) : exec (.checkpoint p) s =
      .next { s.stopPart p with pkg := { (s.stopPart p).pkg with
        checkpoints := (s.stopPart p).pkg.checkpoints ++ [p] } } := by
  change execCheckpoint p s = _
  simp [execCheckpoint, first, hardware, works]

/-- A checkpoint under way stops a partition that works again, waits for one that is still stopping, and else ends. -/
theorem exec_checkpoint_goes {p : Nat} (begun : p ∈ s.pkg.checkpoints) : exec (.checkpoint p) s =
    .next (if (s.part p).ent.state = 2 then s.stopPart p else if s.partBusy p then s else s.endCheckpoint p) :=
  congrArg Host.Outcome.next (if_pos (List.contains_iff_mem.mpr begun))

section FirmwareUpdates
variable {image : Nat} {valid : Bool}

theorem exec_firmwareUpdate_other (host : s.pkg.hostUpdate = true) (other : s.pkg.pushed ≠ some image) :
    exec (.firmwareUpdate image valid) s = .next s := congrArg Host.Outcome.next (if_pos ⟨host, other⟩)

variable (pushed : s.pkg.hostUpdate = true → s.pkg.pushed = some image)
include pushed

theorem exec_firmwareUpdate_begins (idle : s.pkg.updating = false) : exec (.firmwareUpdate image valid) s =
    .next ({ s with pkg := { s.pkg with updating := true } } : State).holdLimits :=
  congrArg Host.Outcome.next ((if_neg fun h => h.2 (pushed h.1)).trans (if_neg (by simp [idle])))

theorem exec_firmwareUpdate_ends (busy : s.pkg.updating = true) : exec (.firmwareUpdate image valid) s =
    .next (if valid = true then ({ s with pkg := { s.pkg with
        updating := false, pushed := none, firmware := s.pkg.firmware ++ [image] } } : State).loadTables image
      else { s with pkg := { s.pkg with updating := false, pushed := none } }) := by
  refine congrArg Host.Outcome.next ((if_neg fun h => h.2 (pushed h.1)).trans ((if_pos busy).trans ?_))
  cases valid with
  | true => simp
  | false => simp

end FirmwareUpdates
end OwnersAndUnits

/-- Settles O59: the reset by what loading tables leaves, each other event by its equation. -/
theorem ownerEvents : Obligations.OwnerEvents := by
  intro s images m heir t p e written kept stopped
  refine ⟨?reset, exec_ownershipClaim, fun own => congrArg Host.Outcome.next (byOwner_owner own _),
    fun offer => ⟨exec_handoverAcceptance offer, exec_handoverTimeout offer⟩, exec_ownershipLapse,
    fun own runs lists => ⟨fun units idle => ?starts, fun units works => exec_partitionStop own runs lists units works rfl⟩⟩
  case reset =>
    obtain ⟨u, hu, ⟨same, ctxs, dies⟩, empty⟩ := exec_packageReset s images
    refine ⟨u, hu, List.length_eq_zero_iff.mp ctxs, fun h => by rw [empty h]; exact booted_dies s images, dies, ?_⟩
    rw [same]
    exact ⟨rfl, rfl, rfl, rfl, rfl, rfl, rfl, rfl, rfl, rfl⟩
  case starts =>
    have starts := exec_partitionStart own runs lists units idle
    exact ⟨fun h => starts.trans (congrArg _ (if_pos h)), fun h => starts.trans (congrArg _ (if_neg (Bool.eq_false_iff.mp h)))⟩

/-- Settles O60: each event by its equation. -/
theorem traceAndFirmware : Obligations.TraceAndFirmware := by
  intro s m d word nonce p image valid w stop pushed
  refine ⟨fun own runs lists => ⟨exec_traceStart own runs lists, exec_traceStop own runs lists⟩, exec_tracePostExpiry, rfl,
    exec_checkpoint_starts, fun begun => ?checkpoint, exec_firmwareUpdate_other, exec_firmwareUpdate_begins,
    fun pushed busy => ?update⟩
  case checkpoint =>
    rw [exec_checkpoint_goes begun]
    exact ⟨fun works => by rw [if_pos works], fun idle busy => by rw [if_neg idle, if_pos busy],
      fun idle done => by rw [if_neg idle, if_neg (by simp [done])]⟩
  case update =>
    rw [exec_firmwareUpdate_ends pushed busy]
    exact ⟨fun good => if_pos good ▸ rfl, fun bad => by rw [if_neg (by simp [bad])]⟩

end Sys2Proof.Machine

/-! SUPPORT. Global accesses that go ahead and operations in flight (02 R40, 08 R184), what spawn, taskend and decide do
(16 R314, R316, 17 R334), and O41 to O43. -/

namespace Sys2Proof.Machine

open State

/-! ### Accesses and operations in flight (02 R40, 08 R184) -/

section
variable {s s1 : State}

/-- An access that goes ahead does what follows it with its pieces, in the state after the walks. -/
theorem State.access_reaches {k : Access} {each : Bool} {reqs : List (Nat × Nat × Nat)} {ps : List Piece}
    (h : s.reaches k each reqs ps s1) (ok : List Piece → State → State) : s.access k each reqs ok = ok ps s1 := by
  obtain ⟨ahead, clear, places⟩ := h
  have window : (if each then none else reqs.find? fun r => inWindow r.1 || inWindow (r.1 + r.2.1 - 1)) = none := by
    split
    · rfl
    · exact List.find?_eq_none.mpr fun r hr => by simp [(clear r hr).1, (clear r hr).2.1]
  have shot : (reqs.any fun r => s.shooting (State.partOf s s.cur.ctx) r.1 r.2.1) = false :=
    List.any_eq_false.mpr fun r hr => by simp [(clear r hr).2.2]
  simp only [access, ahead, window, shot, places, Bool.false_eq_true, if_false]

/-- What enters flight is what the slot makes of an operation that has its context's next number, its fences, its time and
its slot. -/
theorem State.launchOp_opAdded (s : State) {f : MemOp → MemOp} {holds : MemOp → Prop}
    (keeps : ∀ o, (f o).id = o.id ∧ (f o).order = o.order ∧ (f o).issued = o.issued ∧ (f o).slot = o.slot)
    (made : ∀ o, o.home = none → holds (f o)) : OpAdded s (s.launchOp f) holds := by
  let op : MemOp :=
    { id := (s.ctx s.cur.ctx).mem.nextId, home := none, scope := 0, dest := 0, va := 0, pa := 0, sectors := [], vas := []
      pieces := [], size := 0, ownBad := none, mask := 0, value := 0, operand := 0, compare := 0, issued := s.pkg.now
      slot := s.cur.slot, order := (s.ctx s.cur.ctx).mem.fences, chunked := false }
  obtain ⟨id, order, issued, slot⟩ := keeps op
  exact ⟨f op, by rw [id]; rfl, id, order, issued, slot, made op rfl⟩

end

/-! ### spawn (16 R305, R309, R310, R314) -/

section
variable {s : State} {d : BitVec 6} {va i : Nat} {packet : List (BitVec 8)}
  (fields : (packet.getD 0 0).toNat / 8 % 16 = 0) (form : (packet.getD 1 0).toNat / 32 ≠ 7)
  (whole : payloadOff ((packet.getD 1 0).toNat / 32) ≤ packet.length)
  (template : packetTmpl packet < (s.part (State.partOf s s.cur.ctx)).ent.tmplCount)
  (free : s.freeSlot (State.partOf s s.cur.ctx) = some i)
include fields form whole template free

/-- What a packet that passes its checks puts in flight once its task is queued, in any state. -/
theorem spawnPacket_opAdded {u : State} (queued : (if packetDeps packet = 0 then
      (s.fillSlot (State.partOf s s.cur.ctx) i packet (packetDeps packet)).queueTask (State.partOf s s.cur.ctx)
        (dieOf s.cur.core) ⟨i, s.slotGen (State.partOf s s.cur.ctx) i⟩
      else (.queued, s.fillSlot (State.partOf s s.cur.ctx) i packet (packetDeps packet))) = (.queued, u)) :
    OpAdded u (spawnPacket s d va packet) (fun o => o.dest = d.toNat ∧ o.size = 8 ∧ o.home = none
      ∧ o.value = BitVec.ofNat 8192 (handleOf i (s.slotGen (State.partOf s s.cur.ctx) i))) := by
  have proper : ¬((packet.getD 0 0).toNat / 8 % 16 ≠ 0 ∨ (packet.getD 1 0).toNat / 32 = 7
      ∨ packet.length < payloadOff ((packet.getD 1 0).toNat / 32)) := by omega
  have listed : ¬ (s.part (State.partOf s s.cur.ctx)).ent.tmplCount ≤ packetTmpl packet := Nat.not_le.mpr template
  simp only [spawnPacket, if_neg proper, if_neg listed, free, queued]
  exact launchOp_opAdded _ (fun _ => ⟨rfl, rfl, rfl, rfl⟩) fun _ home => ⟨rfl, rfl, home, rfl⟩

end

/-- A spawn whose packet the issuer can read goes by the packet. -/
theorem exec_spawn_read {s s1 s2 : State} {d a : BitVec 6} {head packet : List (BitVec 8)} {bad : List Nat}
    (unheld : s.isHeld s.cur.ctx = false) (aligned : (s.readS a).toNat % 32 = 0)
    (first : touchesGap s (s.readS a).toNat 32 = false) (ahead : s.homeAhead [((s.readS a).toNat, 256, 0)] = false)
    (readHead : s.readIssuer s.cur.ctx (s.readS a).toNat 1 = .ok (head, bad, s1))
    (all : touchesGap s1 (s.readS a).toNat (32 * ((head.headD 0).toNat % 8 + 1)) = false)
    (readAll : s1.readIssuer s.cur.ctx (s.readS a).toNat (32 * ((head.headD 0).toNat % 8 + 1)) = .ok (packet, [], s2)) :
    exec (.spawn d a) s =
      .next (spawnPacket (s2.takeReads.2.learn s.cur.ctx s2.takeReads.1) d (s.readS a).toNat packet) := by
  change execSpawn d a s = _
  simp only [execSpawn, unheld, aligned, first, ahead, readHead, all, readAll, ne_eq, not_true_eq_false,
    Bool.false_eq_true, if_false]

/-- Settles O41: the packet is read, then its checks, its slot and its queueing decide what enters flight. -/
theorem spawn : Obligations.Spawn := by
  intro s s1 s2 d a head packet bad i x va len b s3 p g filled flies unheld aligned first ahead readHead all readAll fields
    form whole template free
  have goes := exec_spawn_read (d := d) unheld aligned first ahead readHead all readAll
  exact ⟨fun deps => ⟨_, goes, spawnPacket_opAdded fields form whole template free (if_neg deps)⟩,
    fun u deps queued => ⟨_, goes, spawnPacket_opAdded fields form whole template free ((if_pos deps).trans queued)⟩⟩

/-! ### taskend (16 R309, R316, 17 R332, R334, R335) -/

namespace State

/-- taskend of a context that is in held mode no more: it waits for what is unfinished, then publishes and ends. -/
def endUnheld (s : State) (x : Nat) : State :=
  if s.unfinished x then s.block 4
  else
    let f := (s.ringsOf x).foldl (fun (u : State) h => u.freeRing (coreOf x) h) s
    ((f.joinAll x).closeUnits x).postAll x (f.taskScope x) .ending

/-- What is left to do once nothing is unfinished, with its parts named: the rings given back, the units closed, the lines
taken and, where nothing holds them, published. -/
theorem endUnheld_eq {s f u taken done : State} {m : CtxMem} {x : Nat} (quiet : s.unfinished x = false)
    (rings : (s.ringsOf x).foldl (fun (u : State) h => u.freeRing (coreOf x) h) s = f) (units : (f.joinAll x).closeUnits x = u)
    (mem : (u.ctx x).mem = m) (take : u.takeUnpub x = taken)
    (made : taken.publishLines x (f.taskScope x) m.unpub false none = done) :
    s.endUnheld x = if taken.mustPost x m.unpub .ending then taken.modMem x fun k => { k with
        pubs := m.pubs ++ [⟨f.taskScope x, m.unpub, none, false, true, .ending, m.nextId⟩] }
      else done.finishTask x := by
  subst rings units mem take made
  exact (if_neg (by simp [quiet])).trans (postAll_eq ..)

section FinishedTasks
variable {s : State} {x : Nat}

theorem finishTask_none (h : (s.ctx x).task = none) : s.finishTask x = s.freeContext x := by
  simp only [finishTask, h]

variable {t : Task} (task : (s.ctx x).task = some t)
include task

theorem finishTask_unheld (h : (s.ctx x).mem.held = none) : s.finishTask x = s.endMember x t := by
  simp only [finishTask, task, h]

section HeldTasks
variable {h : HeldMode} (held : (s.ctx x).mem.held = some h)
include held

theorem finishTask_failed (failed : s.slotState t.part t.slot = 4) : s.finishTask x = s.endMember x t := by
  simp only [finishTask, task, held, if_pos failed]

variable (works : s.slotState t.part t.slot ≠ 4)
include works

theorem finishTask_undecided (undecided : h.decided ≠ some true) : s.finishTask x = s.parkTask x t h := by
  simp only [finishTask, task, held, if_neg works, if_neg undecided]

theorem finishTask_won (won : h.decided = some true) :
    let lines := withHeldLines h (s.ctx x).mem.unpub
    let v := ((s.joinHeld x).leaveHeld x).modMem x fun m => { m with unpub := [] }
    s.finishTask x = if v.mustPost x lines .ending then
        v.modMem x fun m => { m with pubs := m.pubs ++ [⟨v.taskScope x, lines, none, false, true, .ending, m.nextId⟩] }
      else (v.publishLines x (v.taskScope x) lines false none).endMember x t := by
  simp only [finishTask, task, held, if_neg works, if_pos won]

end HeldTasks
end FinishedTasks
end State

section
variable {s : State}

theorem exec_taskend_unheld (unheld : (s.ctx s.cur.ctx).mem.held = none) :
    exec .taskend s = .next (s.endUnheld s.cur.ctx) := by
  change Host.Outcome.next (s.endOfTask s.cur.ctx) = _
  simp only [endOfTask, unheld, endUnheld]

variable {h : HeldMode} (held : (s.ctx s.cur.ctx).mem.held = some h)
include held

theorem exec_taskend_held (own : h.gov = .held) :
    exec .taskend s = .next ((s.squashHeld s.cur.ctx).endUnheld s.cur.ctx) := by
  change Host.Outcome.next (s.endOfTask s.cur.ctx) = _
  simp only [endOfTask, held, own, endUnheld, if_true]

variable (other : h.gov ≠ .held)
include other

theorem exec_taskend_governed (single : s.checkPair s.cur.ctx = none ∨ (s.ctx s.cur.ctx).task = none) :
    exec .taskend s = .next (s.endUnheld s.cur.ctx) := by
  change Host.Outcome.next (s.endOfTask s.cur.ctx) = _
  obtain unpaired | idle := single
  · cases task : (s.ctx s.cur.ctx).task <;> simp only [endOfTask, held, if_neg other, task, unpaired, endUnheld]
  · simp only [endOfTask, held, if_neg other, idle, endUnheld]

theorem exec_taskend_check {t : Task} {q : Pair} (task : (s.ctx s.cur.ctx).task = some t)
    (pair : s.checkPair s.cur.ctx = some q) : exec .taskend s =
      .next (((s.leaveHeld s.cur.ctx).failPair t.part (dieOf (coreOf s.cur.ctx)) q
        ((s.ctl s.cur.ctx 0x029).toNat % 2 ^ 16)).endUnheld s.cur.ctx) := by
  have code : bits (s.ctl s.cur.ctx 0x029) 15 0 = (s.ctl s.cur.ctx 0x029).toNat % 2 ^ 16 := by simp [bits]
  change Host.Outcome.next (s.endOfTask s.cur.ctx) = _
  simp only [endOfTask, held, if_neg other, task, pair, code, endUnheld]

end

/-- Settles O42: what leaves held mode first decides the state that `endUnheld` ends; its last publication is `postAll_eq`'s,
and what follows it `finishTask`'s. -/
theorem taskEnd : Obligations.TaskEnd := by
  intro s x ends
  have left (s0 : State) (goes : exec .taskend s = .next (s0.endUnheld x)) : ends s0 := by
    unfold ends
    intro f u m taken done
    have ends (quiet : s0.unfinished x = false) := goes.trans (congrArg Host.Outcome.next
      (endUnheld_eq quiet (f := f) (u := u) (m := m) (taken := taken) (done := done) rfl rfl rfl rfl rfl))
    refine ⟨fun waits => goes.trans (congrArg _ (if_pos waits)),
      fun quiet posts => (ends quiet).trans (congrArg Host.Outcome.next (if_pos posts)), fun quiet made => ?_⟩
    have ended : exec .taskend s = .next (done.finishTask x) :=
      (ends quiet).trans (congrArg Host.Outcome.next (if_neg (Bool.eq_false_iff.mp made)))
    clear_value done
    refine ⟨fun task => ended.trans (congrArg _ (finishTask_none task)), fun t task => ?_⟩
    intro last
    have lasts (v : State) : v.endMember x t = last v := rfl
    clear_value last
    refine ⟨fun unheld => ?_, fun h held => ⟨fun failed => ?_, fun works => ⟨fun undecided => ?_, fun won => ?_⟩⟩⟩
    · rw [ended, finishTask_unheld task unheld, lasts]
    · rw [ended, finishTask_failed task held failed, lasts]
    · rw [ended, finishTask_undecided task held works undecided]
    · rw [ended, finishTask_won task held works won, lasts]
  refine ⟨fun unheld => left s (exec_taskend_unheld unheld), fun h held => ⟨fun own => left _ (exec_taskend_held held own),
    fun other single => left s (exec_taskend_governed held other single),
    fun t q other task pair => left _ (exec_taskend_check held other task pair)⟩⟩

/-! ### decide (17 R333, R334) -/

theorem State.readHome_mem (s : State) (x : Nat) (l : List Nat) (acq : Option Nat) : (s.readHome x l acq).mem = s.mem :=
  (learn_same ..).1

/-- The effect of a decide on its object, which is decided once. -/
theorem decideAt_eq (s : State) (x w pa : Nat) :
    let handle (i : Nat) := s.mem.readNat (pa + 4 * i) 4
    let t := (s.readHome x (bytesFrom pa 16) none).homeUpdate x 3 [(pa + 8, (1 : BitVec 8)), (pa + 9, BitVec.ofNat 8 w)]
    let p := State.partOf s x
    decideAt s x w pa = if s.mem.get (pa + 8) = 1 then s.readHome x (bytesFrom pa 16) none
      else decided (decided t p (handle (1 - w)) (loseTask p)) p (handle w) (winTask p) := by
  simp only [decideAt, readHome_mem]

theorem exec_decide {s s1 : State} {b c : BitVec 6} {q : Piece} (unheld : s.isHeld s.cur.ctx = false)
    (aligned : (s.readS b).toNat % 16 = 0) (unfenced : s.fenced s.cur.ctx = false)
    (goes : s.reaches .write false [((s.readS b).toNat, 16, 0)] [q] s1) (reads : readable s1 (s.readS b).toNat = true)
    (good : s1.poison.get (q.pa / 32) = 0) :
    exec (.decide b c) s = .next (decideInTurn s1 ((s1.readS c).toNat % 2) (s.readS b).toNat q.pa) := by
  change execDecide b c s = _
  simp only [execDecide, unheld, aligned, unfenced, access_reaches goes, List.headD_cons, reads, good, ne_eq,
    not_true_eq_false, Bool.false_eq_true, Bool.not_true, bne_self_eq_false, if_false]

/-- Settles O43: the decision is posted, and its effect is `decideAt_eq`'s. -/
protected theorem decide : Obligations.Decide := by
  intro s s1 b c q a x p w handle s2 waits unheld aligned unfenced goes reads good
  rw [exec_decide unheld aligned unfenced goes reads good, decideInTurn, postEvent, decideAt_eq]

end Sys2Proof.Machine

/-! SUPPORT. What the stages of picks, held mode and guards do (17 R326 to R337), and O44, O45. -/

namespace Sys2Proof.Machine

open State

/-! ### Stages (17 R326 to R328) -/

/-- The bytes of a number that a word holds. -/
theorem bytesLE_eq_wordBytes {v : Nat} (n : Nat) (h : v < 2 ^ 64) : bytesLE n v = wordBytes (BitVec.ofNat 64 v) n := by
  rw [wordBytes, BitVec.toNat_ofNat, Nat.mod_eq_of_lt h, bytesLE]
  simp only [Nat.pow_mul]

section
variable {s s1 : State} {a : BitVec 6} {i : BitVec 16} {p : Nat} {q : Piece}

/-- The new stage is published behind all else, at the weft's scope. -/
theorem writeStage_eq {va pa new : Nat} (h : new ≤ 0xFFFE) : writeStage s va pa new =
    postPublication s s.cur.ctx (pickScope s) (linesOf .buffer va pa (wordBytes (BitVec.ofNat 64 new) 2)) pa := by
  rw [writeStage, bytesLE_eq_wordBytes 2 (by omega)]

theorem withEntry_reaches {k : Access} (unfenced : s.fenced s.cur.ctx = false)
    (goes : s.reaches k false [(stageTable s + 2 * p, 2, 0)] [q] s1)
    (good : s1.poisonedByte (s1.ownWrites s1.cur.ctx) q.pa = false) (ok : Nat → Nat → State → State) :
    withEntry s p k ok = ok (stageTable s + 2 * p) q.pa s1 := by
  simp only [withEntry, unfenced, access_reaches goes, List.headD_cons, good, Bool.false_eq_true, if_false]

theorem inEpochs_inTurn (t : State) (h : s.outOfTurn = false) : inEpochs s t = t := if_neg (by simp [h])

section
variable (index : pickIndex s = some p) (unheld : s.isHeld s.cur.ctx = false) (unfenced : s.fenced s.cur.ctx = false)
  (goes : s.reaches .write false [(stageTable s + 2 * p, 2, 0)] [q] s1)
  (good : s1.poisonedByte (s1.ownWrites s1.cur.ctx) q.pa = false)
include index unheld unfenced goes good

theorem exec_pkadv : exec (.pkadv a i) s =
    .next (writeStage s1 (stageTable s + 2 * p) q.pa (min (stageEntry s1 q.pa + stageValue s1 a i) 0xFFFE)) := by
  change execPkadv a i s = _
  simp only [execPkadv, index, unheld, withEntry_reaches unfenced goes good, Bool.false_eq_true, if_false]

theorem exec_pkset : exec (.pkset a i) s = .next (if stageValue s1 a i < stageEntry s1 q.pa then
      s1.trapHere 0x10 0 (stageEntry s1 q.pa + stageValue s1 a i * 2 ^ 16)
    else writeStage s1 (stageTable s + 2 * p) q.pa (min (stageValue s1 a i) 0xFFFE)) := by
  change execPkset a i s = _
  simp only [execPkset, index, unheld, withEntry_reaches unfenced goes good, Bool.false_eq_true, if_false]

end

theorem exec_waitl_first (index : pickIndex s = some 0) (turn : s.outOfTurn = false) :
    exec (.waitl a i) s = .next (s.snapshot s.cur.ctx) := by
  change execWaitl a i s = _
  simp only [execWaitl, index, inEpochs_inTurn _ turn]

theorem exec_waitl_next (index : pickIndex s = some (p + 1)) (unfenced : s.fenced s.cur.ctx = false)
    (goes : s.reaches .read false [(stageTable s + 2 * p, 2, 0)] [q] s1)
    (good : s1.poisonedByte (s1.ownWrites s1.cur.ctx) q.pa = false) (turn : s1.outOfTurn = false)
    (come : stageValue s1 a i ≤ s1.mem.readNat q.pa 2) : exec (.waitl a i) s =
      .next ((s1.readHome s1.cur.ctx (bytesFrom q.pa 2) (some (pickScope s1))).snapshot s1.cur.ctx) := by
  change execWaitl a i s = _
  simp only [execWaitl, index, withEntry_reaches unfenced goes good, if_neg (Nat.not_lt.mpr come), inEpochs_inTurn _ turn]

theorem exec_stage_outside (index : pickIndex s = none) : exec (.pkadv a i) s = .next (s.trapHere 0x07 0 0)
    ∧ exec (.pkset a i) s = .next (s.trapHere 0x07 0 0) ∧ exec (.waitl a i) s = .next (s.trapHere 0x07 0 0) := by
  refine ⟨?_, ?_, ?_⟩
  · change execPkadv a i s = _
    simp only [execPkadv, index]
  · change execPkset a i s = _
    simp only [execPkset, index]
  · change execWaitl a i s = _
    simp only [execWaitl, index]

end

/-- Settles O44: each stage instruction reaches its entry, and writes it or reads it in turn. -/
theorem stages : Obligations.Stages := by
  intro s s1 a i p q x v va now put enters
  refine ⟨fun index unheld ⟨unfenced, goes, good⟩ => ⟨?advance, fun above => ?set, fun below => ?regress⟩,
    fun index ⟨unfenced, goes, good⟩ turn come => exec_waitl_next index unfenced goes good turn come, exec_waitl_first,
    exec_stage_outside⟩
  case advance => rw [exec_pkadv index unheld unfenced goes good, writeStage_eq (Nat.min_le_right ..)]; rfl
  case set =>
    rw [exec_pkset index unheld unfenced goes good]
    exact congrArg _ ((if_neg (Nat.not_lt.mpr above)).trans (writeStage_eq (Nat.min_le_right ..)))
  case regress =>
    rw [exec_pkset index unheld unfenced goes good]
    exact congrArg _ (if_pos below)

/-! ### Held mode (17 R329 to R331) -/

theorem State.memOf_modMem (s : State) (x : Nat) (f : CtxMem → CtxMem) : ((s.modMem x f).ctx x).mem = f (s.ctx x).mem :=
  congrArg Ctx.mem (ctx_modCtx ..)

/-- A publication for which its context waits, other than a phase's: posted, or made with what follows it. -/
theorem State.post_eq {s : State} {x scope : Nat} {lines : List LineWrite} {after : After} (h : after ≠ .snap) :
    s.post x scope lines after = if s.mustPost x lines after then s.modMem x fun m => { m with
        pubs := m.pubs ++ [⟨scope, lines, none, false, true, after, m.nextId⟩] }
      else (s.publishLines x scope lines false none).afterPublication x after := by
  simp only [post, decide_eq_false h]

section
variable {s : State} {sc : BitVec 3}

section
variable (unheld : (s.ctx s.cur.ctx).mem.held = none)
include unheld

theorem exec_held_free (room : s.heldUse (dieOf s.cur.core) < 24) :
    exec .held s = .next (s.modMem s.cur.ctx fun m => { m with held := some ⟨.held, [], none⟩ }) :=
  congrArg Host.Outcome.next ((if_neg (by simp [isHeld, unheld])).trans (if_neg (Nat.not_le.mpr room)))

theorem exec_held_full (full : 24 ≤ s.heldUse (dieOf s.cur.core)) : exec .held s = .next (s.block 11) :=
  congrArg Host.Outcome.next ((if_neg (by simp [isHeld, unheld])).trans (if_pos full))

theorem exec_commit_unheld (scope : sc.toNat < 6) : exec (.commit sc) s = .next s := by
  change execCommit sc s = _
  simp only [execCommit, if_neg (Nat.not_le.mpr scope), unheld]

theorem exec_squash_unheld : exec .squash s = .next s := by
  change execSquash s = _
  simp only [execSquash, unheld]

end

section
variable {h : HeldMode} (held : (s.ctx s.cur.ctx).mem.held = some h)
include held

theorem exec_held_again : exec .held s = .next s := congrArg Host.Outcome.next (if_pos (by simp [isHeld, held]))

theorem exec_squash_idle (own : h.gov = .held) (idle : s.heldEngines s.cur.ctx = []) :
    exec .squash s = .next (s.leaveHeld s.cur.ctx) := by
  change execSquash s = _
  simp only [execSquash, held, own, ne_eq, not_true_eq_false, if_false, squashHeld, idle, List.foldl_nil]

theorem exec_commit_held (own : h.gov = .held) (scope : sc.toNat < 6) (idle : s.heldBusy s.cur.ctx = false) :
    let j := s.joinHeld s.cur.ctx
    exec (.commit sc) s = .next ((j.modMem s.cur.ctx fun m => { m with unpub := [], held := some { h with lines := [] } }).post
      s.cur.ctx sc.toNat (withHeldLines h (j.ctx s.cur.ctx).mem.unpub) .commit) := by
  change execCommit sc s = _
  simp only [execCommit, if_neg (Nat.not_le.mpr scope), held, own, idle, ne_eq, not_true_eq_false, Bool.false_eq_true, if_false]

variable (other : h.gov ≠ .held)
include other

theorem exec_squash_governed : exec .squash s = .next (s.trapHere 0x07 0 0) := by
  change execSquash s = _
  simp only [execSquash, held, if_pos other]

theorem exec_commit_governed (scope : sc.toNat < 6) : exec (.commit sc) s = .next (s.trapHere 0x07 0 0) := by
  change execCommit sc s = _
  simp only [execCommit, if_neg (Nat.not_le.mpr scope), held, if_pos other]

end

/-! ### Guards (17 R335 to R337; log entry 72) -/

variable {d a : BitVec 6}

theorem bits_low (n : Nat) {w : Nat} (v : BitVec w) : bits v n 0 = v.toNat % 2 ^ (n + 1) := by simp [bits]

theorem exec_guard_unpaired (unpaired : s.checkPair s.cur.ctx = none) :
    exec (.guard d a) s = .next (s.trapHere 0x07 0 0) := by
  change execGuard d a s = _
  simp only [execGuard, unpaired]

variable {q : Pair} {t : Task} (pair : s.checkPair s.cur.ctx = some q) (task : (s.ctx s.cur.ctx).task = some t)
include pair task

theorem exec_guard_unheld (unheld : (s.ctx s.cur.ctx).mem.held = none) : exec (.guard d a) s = .next
    (if (s.membersOf t.part t.slot).any s.guardWaits then s.block 10
     else ((s.unpark t.part q.surrogate).dropPair t.part q).writeS d 1 0) := by
  change execGuard d a s = _
  simp only [execGuard, pair, task, unheld]

variable {h : HeldMode} (held : (s.ctx s.cur.ctx).mem.held = some h)
include held

theorem exec_guard_busy (busy : (s.membersOf t.part t.slot).any s.heldBusy = true ∨ s.heldBusy s.cur.ctx = true) :
    exec (.guard d a) s = .next (s.block 4) := by
  change execGuard d a s = _
  simp only [execGuard, pair, task, held, Bool.or_eq_true, if_pos busy]

variable (idle : ¬((s.membersOf t.part t.slot).any s.heldBusy = true ∨ s.heldBusy s.cur.ctx = true))
include idle

theorem exec_guard_passes (passes : guardPasses ((s.readS a).toNat % 2 ^ 32) ((s.ctl s.cur.ctx 0x028).toNat % 2 ^ 32) = true) :
    let r := takeMembers s s.cur.ctx t
    exec (.guard d a) s = .next (((r.2.joinHeld s.cur.ctx).modMem s.cur.ctx fun m => { m with
      held := some { h with lines := [] } }).post s.cur.ctx q.scope (withHeldLines h (withHeldLines { h with lines := r.1 }
        (((s.part t.part).parked.filter fun k => k.slot = q.surrogate).flatMap (·.lines)))) (.guard d.toNat)) := by
  change execGuard d a s = _
  simp only [execGuard, pair, task, held, Bool.or_eq_true, if_neg idle, bits_low, passes, if_true]

theorem exec_guard_fails (fails : guardPasses ((s.readS a).toNat % 2 ^ 32) ((s.ctl s.cur.ctx 0x028).toNat % 2 ^ 32) = false) :
    exec (.guard d a) s = .next ((((s.joinHeld s.cur.ctx).leaveHeld s.cur.ctx).failPair t.part (dieOf s.cur.core) q
      ((s.ctl s.cur.ctx 0x029).toNat % 2 ^ 16)).writeS d 1 0) := by
  change execGuard d a s = _
  simp only [execGuard, pair, task, held, Bool.or_eq_true, if_neg idle, bits_low, fails, Bool.false_eq_true, if_false]

end

/-- Settles O45: each instruction by its equation; what commit and guard publish is `post`'s. -/
theorem heldModeAndGuard : Obligations.HeldModeAndGuard := by
  refine ⟨fun s sc h => ?_, fun s d a => ?_⟩
  · intro x j m lines taken
    refine ⟨fun unheld => ⟨exec_held_free unheld, exec_held_full unheld, exec_commit_unheld unheld, exec_squash_unheld unheld⟩,
      fun held => ⟨exec_held_again held, fun own => ⟨exec_squash_idle held own, fun scope idle => ?_⟩, fun other =>
        ⟨exec_squash_governed held other, exec_commit_governed held other⟩⟩⟩
    rw [exec_commit_held held own scope idle, post_eq (after := .commit) nofun]
    exact congrArg Host.Outcome.next (ite_congr rfl (fun _ => modMem_congr (by rw [memOf_modMem])) fun _ => rfl)
  · intro x r tol j
    refine ⟨exec_guard_unpaired, fun q t pair task unheld => ?unheld, fun q t h pair task held => ?held⟩
    case unheld =>
      rw [exec_guard_unheld pair task unheld]
      exact ⟨fun waits => congrArg _ (if_pos (List.any_eq_true.mpr waits)),
        fun clear => congrArg _ (if_neg (by simpa using clear))⟩
    case held =>
      intro busy others lines taken
      have work : busy ↔ (s.membersOf t.part t.slot).any s.heldBusy = true ∨ s.heldBusy x = true :=
        or_congr List.any_eq_true.symm Iff.rfl
      refine ⟨fun h => exec_guard_busy pair task held (work.mp h), fun idle passes => ?_,
        fun idle => exec_guard_fails pair task held (mt work.mpr idle)⟩
      rw [exec_guard_passes pair task held (mt work.mpr idle) passes, post_eq (after := .guard d.toNat) nofun]
      rfl

end Sys2Proof.Machine

/-! SUPPORT. What latency symbols and the steps of tasks do (19 R343, R354 to R356, 21 R363 to R370), and O46. -/

namespace Sys2Proof.Machine

open State

section
variable {s s1 : State}

/-! ### Symbols (19 R343, R354 to R356) -/

/-- Declarations after records that the issuer reads, none of them out of range: the reading enters flight. -/
theorem exec_symdecl_read {a : BitVec 6} {m : BitVec 16} {block : List (BitVec 8)} {ys : List (Nat × Symbol)} (some_ : m ≠ 0)
    (aligned : (s.readS a).toNat % 16 = 0) (place : touchesGap s (s.readS a).toNat 256 = false)
    (ahead : s.homeAhead [((s.readS a).toNat, 256, 0)] = false)
    (read : s.readIssuer s.cur.ctx (s.readS a).toNat 256 = .ok (block, [], s1))
    (records : readRecords (s.die (dieOf s.cur.core)).mhz block ((List.range 16).filter fun k => m.getLsbD k) = some ys) :
    exec (.symdecl a m) s = .next (declareNext ((s1.takeReads.2.learn s.cur.ctx s1.takeReads.1).launchOp fun o =>
      { o with size := 9, va := (s.readS a).toNat }) ys) := by
  change execSymdecl a m s = _
  simp only [execSymdecl, if_neg some_, aligned, place, ahead, read, records, ne_eq, not_true_eq_false, Bool.false_eq_true,
    if_false]

theorem symbolsNow_uncut (h : s.cur.symsAt = none) : symbolsNow s = ((s.ctx s.cur.ctx).syms, (s.ctx s.cur.ctx).symgen) := by
  simp only [symbolsNow, h]

/-! ### Steps (21 R363, R364, R367, R370) -/

namespace State

/-- The end of a step is the package's, not its context's: what issues and every context stay. -/
theorem endStep_keeps (s : State) (k : Nat × Nat × Nat) (e : StepEntry) :
    (s.endStep k e).cur = s.cur ∧ (s.endStep k e).ctxs = s.ctxs := by
  have dropped (u : State) : (u.dropStep k.1 k.2.1 k.2.2).cur = u.cur ∧ (u.dropStep k.1 k.2.1 k.2.2).ctxs = u.ctxs := by
    simp only [dropStep]; split <;> exact ⟨rfl, rfl⟩
  have governed (u : State) : u.govern.cur = u.cur ∧ u.govern.ctxs = u.ctxs := by
    simp only [govern]; split <;> exact ⟨rfl, rfl⟩
  have h := dropped (s.reportStep e)
  simp only [endStep]
  split
  · exact ⟨(governed _).1.trans h.1, (governed _).2.trans h.2⟩
  · exact h

theorem readS_eq {s t : State} (cur : t.cur = s.cur) (ctxs : t.ctxs = s.ctxs) (r : BitVec 6) : t.readS r = s.readS r := by
  simp only [readS, regS, ctx, cur, ctxs]

/-- The state after the step that is open for the issuing context, if one is, has ended. -/
def stepEnded (s : State) : State :=
  let k := s.stepKey s.cur.ctx
  match s.findStep k.1 k.2.1 k.2.2 with
  | some (_, q) => s.endStep k q
  | none => s

theorem stepEnded_keeps (s : State) : s.stepEnded.cur = s.cur ∧ s.stepEnded.ctxs = s.ctxs := by
  simp only [stepEnded]; split
  · exact endStep_keeps ..
  · exact ⟨rfl, rfl⟩

/-- Whether the die's table tracks one more step. -/
def tracksMore (s : State) (n : Nat) : Bool := decide (((s.die (dieOf n)).steps.filter (·.tracked)).length < 1024)

/-- A step opens in the table of core n's die. -/
def openStep (s : State) (n x : Nat) (k : Nat × Nat × Nat) (cls : Nat) (deadline : BitVec 64) (risk : Bool) : State :=
  s.modDie (dieOf n) fun w => { w with steps := w.steps ++
    [{ part := k.1, slot := k.2.1, member := k.2.2, cls := cls, deadline := deadline, startTime := s.ptime
       startCyc := s.cyc n, icyc0 := s.icyc x, weights := 0, tracked := s.tracksMore n, risk := risk }] }

/-- A step opens, and where its time has passed its light trap is pending at once. -/
def startStep (s : State) (n x : Nat) (k : Nat × Nat × Nat) (cls : Nat) (deadline : BitVec 64) : State :=
  let late := s.tracksMore n && s.governing && decide (deadline.toNat ≤ s.ptime.toNat)
  let u := s.openStep n x k cls deadline late
  if late then u.pendLight x 1 0 else u

/-- A raised light trap is pending. -/
theorem pendLight_pending (s : State) (x : Nat) (info : BitVec 64) : ((s.pendLight x 1 info).ctl x 0x03F).getLsbD 1 = true := by
  rw [pendLight, ctl_setCtl]
  simp

end State

variable {a d : BitVec 6} {c : BitVec 16}

/-- A deadline ends the open step and starts one. -/
theorem exec_deadline : exec (.deadline a c) s =
    .next (s.stepEnded.startStep s.cur.core s.cur.ctx (s.stepKey s.cur.ctx) c.toNat (s.readS a)) := by
  obtain ⟨cur, ctxs⟩ := s.stepEnded_keeps
  have h : exec (.deadline a c) s = .next (s.stepEnded.startStep s.stepEnded.cur.core s.cur.ctx (s.stepKey s.cur.ctx) c.toNat
    (s.stepEnded.readS a)) := rfl
  rw [h, cur, readS_eq cur ctxs]

theorem exec_stepend_none (closed : s.findStep (s.stepKey s.cur.ctx).1 (s.stepKey s.cur.ctx).2.1 (s.stepKey s.cur.ctx).2.2 = none) :
    exec (.stepend d) s = .next (s.writeS d 1 0) := by
  change execStepend d s = _
  simp only [execStepend, closed]

theorem exec_stepend_some {die : Nat} {q : StepEntry}
    (step : s.findStep (s.stepKey s.cur.ctx).1 (s.stepKey s.cur.ctx).2.1 (s.stepKey s.cur.ctx).2.2 = some (die, q)) :
    exec (.stepend d) s = .next ((s.writeS d 1 (q.deadline - s.ptime)).endStep (s.stepKey s.cur.ctx) q) := by
  change execStepend d s = _
  simp only [execStepend, step]

end

/-- Settles O46: each instruction by its equation; the two cases of deadline are those of its light trap. -/
theorem symbolsAndSteps : Obligations.SymbolsAndSteps := by
  intro s s1 a d m c k w block ys x va mhz y key found v tracked opened
  have goes : exec (.deadline a c) s =
      let late := tracked && v.governing && decide ((s.readS a).toNat ≤ v.ptime.toNat)
      .next (if late then (opened late).pendLight x 1 0 else opened late) := exec_deadline
  refine ⟨fun none_ => congrArg Host.Outcome.next (if_pos none_), fun some_ aligned place ahead read records => ?declares, rfl, rfl,
    symbolsNow_uncut, fun open_ => ?opens, fun passed tracks governs => ⟨_, ?late, rfl, pendLight_pending ..⟩,
    exec_stepend_none, fun die q => exec_stepend_some⟩
  case declares =>
    exact ⟨_, exec_symdecl_read some_ aligned place ahead read records,
      launchOp_opAdded _ (fun _ => ⟨rfl, rfl, rfl, rfl⟩) fun _ home => ⟨rfl, home, rfl⟩⟩
  case opens =>
    have late : (tracked && v.governing && decide ((s.readS a).toNat ≤ v.ptime.toNat)) = false := by
      obtain early | full | faulty := open_
      · simp [Nat.not_le.mpr early]
      · rw [full]; rfl
      · rw [faulty]; simp
    rw [goes, late]; rfl
  case late =>
    have late : (tracked && v.governing && decide ((s.readS a).toNat ≤ v.ptime.toNat)) = true := by simp [passed, tracks, governs]
    rw [goes, late]; rfl

end Sys2Proof.Machine

/-! SUPPORT. What hardware does in its turn at the memory (22 R377 to R382), the events of tasks (14 R295 to R300, 16 R311,
R313), and O52. -/

namespace Sys2Proof.Machine

open State

section
variable {s v : State}

/-- What changes the state is done once the memory has had its turn, in the state after the reads. -/
theorem State.inHwTurn_served {u p : Nat} {rs : List (Nat × Nat)} {act : State → State} (changes : act s ≠ s)
    (turn : s.hwReads u p p rs = (true, v)) : s.inHwTurn u p rs act = act v := by
  simp only [inHwTurn, if_neg changes, turn]

/-! ### Placements and refills (16 R311, R313) -/

/-- A die places the head of the last of the candidates, an aged one first. -/
theorem State.dispatchOne_places {p d l : Nat} {q : Queued} {k : Placing} {cs : List Nat}
    (head : (if (s.candidates p d).filter (fun c => (s.part p).pass.get 0 (16 * d + c.1) = 256) = [] then s.candidates p d
      else (s.candidates p d).filter fun c => (s.part p).pass.get 0 (16 * d + c.1) = 256).getLast? = some (l, q, some (k, cs))) :
    s.dispatchOne p d = (((s.setLevel p d l ((s.level p d l).drop 1)).place p k cs).passOthers p d l).modDie d fun v =>
      { v with placedCyc := some (s.die d).cyc } := by
  simp only [dispatchOne, List.isEmpty_iff, head]

theorem exec_dispatch_turn {d p : Nat} (serves : s.serves p d = true) (quiet : (s.part p).handlers = [])
    (free : (s.die d).placedCyc ≠ some (s.die d).cyc) :
    exec (.dispatch d p) s = .next (s.inHwTurn (14000 + d) p (s.headReads p d) fun s => s.dispatchOne p d) := by
  change execDispatch d p s = _
  simp [execDispatch, serves, quiet, free]

/-- A ring record whose slot waits enters die d. -/
theorem State.refillOne_queues {p d h : Nat} (read : s.hwNat p ((s.part p).ent.ringBase + (s.part p).ent.ringHead) 4 = some h)
    (fresh : s.stale p h = false) (queued : s.slotState p (h % 2 ^ 20) = 2) : s.refillOne p d =
      (s.modPart p fun u => { u with ent := { u.ent with
        ringHead := ((s.part p).ent.ringHead + 8) % (s.part p).ent.ringSize } }).enqueue p d ⟨h % 2 ^ 20, h / 2 ^ 24⟩ := by
  have goes : ¬(s.stale p h = true ∨ s.slotState p (h % 2 ^ 20) ≠ 2) := by rw [fresh, queued]; simp
  simp only [refillOne, read, if_neg goes]

section
variable {p d : Nat} (runs : (s.part p).ent.state = 2) (room : s.roomFrom p 0 = some d)
include runs room

theorem exec_ringRefill_deferred {q : Queued} {qs : List Queued} (deferred : (s.part p).deferred = q :: qs) :
    exec (.ringRefill p) s = .next ((s.modPart p fun u => { u with
      deferred := qs, ent := { u.ent with deferred := ((qs.head?).map fun m => m.slot + 1).getD 0 } }).enqueue p d q) := by
  change execRingRefill p s = _
  simp only [execRingRefill, runs, room, deferred, ne_eq, not_true_eq_false, if_false]
  cases qs <;> rfl

theorem exec_ringRefill_turn (none_ : (s.part p).deferred = []) (records : s.ringEmpty p = false)
    (hardware : s.pkg.hostRefill = false) : exec (.ringRefill p) s =
      .next (s.inHwTurn 14015 p [((s.part p).ent.ringBase + (s.part p).ent.ringHead, 4)] fun s => s.refillOne p d) := by
  change execRingRefill p s = _
  simp only [execRingRefill, runs, room, none_, records, hardware, ne_eq, not_true_eq_false, Bool.false_eq_true, or_self, if_false]

end

/-! ### Saves and resumptions (14 R295, R299) -/

section
variable {x : Nat} (taken : ((s.landDue (coreOf x)).ctx x).iss.phase ≠ .free)
include taken

theorem exec_contextSave_begins (idle : ((s.landDue (coreOf x)).ctx x).iss.saving = none) :
    exec (.contextSave x) s = .next ((s.landDue (coreOf x)).beginSave x true) := by
  change execContextSave x s = _
  simp [execContextSave, ctxFree, taken, idle]

theorem exec_contextSave_goes {alone : Bool} (saving : ((s.landDue (coreOf x)).ctx x).iss.saving = some alone) :
    exec (.contextSave x) s = .next (if ((s.landDue (coreOf x)).beginSave x alone).saveReady x = true then
      ((s.landDue (coreOf x)).beginSave x alone).endSaves x else (s.landDue (coreOf x)).beginSave x alone) := by
  change execContextSave x s = _
  simp [execContextSave, ctxFree, taken, saving]

end

section
variable {r n : Nat} {rec : SaveRecord} (saved : s.recs.saves[r]? = some rec)
include saved

theorem exec_resumption_alone {x : Nat} (alone : rec.alone = true) (serves : (s.landDue n).serves rec.part (dieOf rec.core) = true)
    (takes : (s.landDue n).canTake rec.core rec = true) (place : (s.landDue n).placeOnCore rec.core rec = some x) :
    exec (.resumption r n) s = .next (({ s.landDue n with recs := { (s.landDue n).recs with
      saves := (s.landDue n).recs.saves.erase rec } } : State).resumeAt rec x) := by
  change execResumption r n s = _
  simp only [execResumption, saved, alone, resumeAlone, serves, takes, place, Bool.and_self, if_true]

theorem exec_resumption_core (joint : rec.alone = false) :
    exec (.resumption r n) s = .next ((s.landDue n).resumeCore rec n) := by
  change execResumption r n s = _
  simp only [execResumption, saved, joint, Bool.false_eq_true, if_false]

end

/-! ### Dumps (14 R300) -/

theorem State.fillBobbin_recs (s : State) (n : Nat) : (s.fillBobbin n).recs = s.recs := rfl

end

/-- Settles O52: what a die or the ring does in its turn, then each event by its equation. -/
theorem taskEvents : Obligations.TaskEvents := by
  intro s d p x r n q qs ranges e served
  refine ⟨fun serves quiet free v t0 t turn first changes then_ => ?dispatch,
    fun runs room => ⟨exec_ringRefill_deferred runs room, fun none_ records hardware v t0 t turn first changes then_ => ?refill⟩,
    fun taken => ⟨exec_contextSave_begins taken, fun alone => exec_contextSave_goes taken⟩,
    fun rec saved => ⟨exec_resumption_alone saved, exec_resumption_core saved⟩, ?dump⟩
  case dispatch =>
    obtain ⟨l, q, k, cs, head, rfl⟩ := first
    obtain ⟨l', q', k', cs', head', rfl⟩ := then_
    rw [exec_dispatch_turn serves quiet free, inHwTurn_served (by rw [dispatchOne_places head]; exact changes) turn,
      dispatchOne_places head']
  case refill =>
    obtain ⟨h, read, fresh, queued, rfl⟩ := first
    obtain ⟨h', read', fresh', queued', rfl⟩ := then_
    rw [exec_ringRefill_turn runs room none_ records hardware,
      inHwTurn_served (by rw [refillOne_queues read fresh queued]; exact changes) turn, refillOne_queues read' fresh' queued']
  case dump =>
    intro xs u cores w
    have saves : w.recs = u.recs := foldl_keeps (·.recs) (fun v k => v.fillBobbin k) fillBobbin_recs cores u
    refine ⟨_, rfl, rfl, ?_, rfl, rfl⟩
    rw [saves]

end Sys2Proof.Machine

/-! SUPPORT. What the packets of a command stream do in its front end's turn (16 R318 to R321). -/

namespace Sys2Proof.Machine

namespace State

/-! ### The first packet of a front end (16 R318, 22 R377) -/

/-- The first source of front end f stands at a packet of kind k, which it may hold, and the partition runs. -/
def FirstPacket (w : State) (f k : Nat) (src : Source) (bs : List (BitVec 8)) : Prop :=
  (w.part (w.front f).part).ent.state = 2 ∧ (∃ rest, w.sources f = (src, .ok bs) :: rest) ∧ packetKind bs = k
    ∧ kindAllowed src k = true

theorem inHwTurn_still {s : State} {u p : Nat} {rs : List (Nat × Nat)} {act : State → State} (still : act s = s) :
    s.inHwTurn u p rs act = s := if_pos still

section
variable {w t : State} {f k : Nat} {src : Source} {bs : List (BitVec 8)} {act : Source → List (BitVec 8) → State → Ran}
  (first : w.FirstPacket f k src bs)
include first

theorem runKind_reserved (reserved : reservedSet bs = true) :
    runKind f k act (w.openSources f) w = w.haltFront f 0x02 := by
  obtain ⟨runs, ⟨rest, h⟩, kind, allowed⟩ := first
  simp only [openSources, if_pos runs, h, runKind, if_pos (And.intro kind allowed), reserved, if_true]

variable (proper : reservedSet bs = false)
include proper

theorem runKind_goes (goes : act src bs w = .goes t) : runKind f k act (w.openSources f) w = t := by
  obtain ⟨runs, ⟨rest, h⟩, kind, allowed⟩ := first
  simp only [openSources, if_pos runs, h, runKind, if_pos (And.intro kind allowed), proper, goes, Bool.false_eq_true, if_false]

theorem runKind_done (done : act src bs w = .done t) :
    runKind f k act (w.openSources f) w = t.consume f src bs.length := by
  obtain ⟨runs, ⟨rest, h⟩, kind, allowed⟩ := first
  simp only [openSources, if_pos runs, h, runKind, if_pos (And.intro kind allowed), proper, done, Bool.false_eq_true, if_false]

theorem runKind_waits (single : w.sources f = [(src, .ok bs)]) (waits : act src bs w = .waits) :
    runKind f k act (w.openSources f) w = w := by
  obtain ⟨runs, -, kind, allowed⟩ := first
  simp only [openSources, if_pos runs, single, runKind, if_pos (And.intro kind allowed), proper, waits, Bool.false_eq_true,
    if_false]

end

section
variable {s : State} {f k : Nat} {i : Instr} {act : Source → List (BitVec 8) → State → Ran} (runs : s.frontRuns f = true)
  (packet : exec i s = .next (s.onKind f k act))
include runs packet

/-- A packet event does in its turn what the packets of its kind do in the state after the reads. -/
theorem served_packet {effect : State → State → Prop} (acts : ∀ w t, effect w t → runKind f k act (w.openSources f) w = t) :
    ∀ v t0 t, s.hwReads (13000 + f) (s.front f).part (s.front f).part (s.frontReads f) = (true, v) → effect s t0 → t0 ≠ s →
      effect v t → exec i s = .next t := by
  intro v t0 t turn first changes then_
  have served := inHwTurn_served (act := fun s => runKind f k act (s.openSources f) s) (acts s t0 first ▸ changes) turn
  exact packet.trans (congrArg Host.Outcome.next ((if_pos runs).trans (served.trans (acts v t then_))))

theorem served_reserved : ∀ v t0 t, s.hwReads (13000 + f) (s.front f).part (s.front f).part (s.frontReads f) = (true, v) →
    (∃ src bs, s.FirstPacket f k src bs ∧ reservedSet bs = true ∧ t0 = s.haltFront f 0x02) → t0 ≠ s →
    (∃ src bs, v.FirstPacket f k src bs ∧ reservedSet bs = true ∧ t = v.haltFront f 0x02) → exec i s = .next t :=
  served_packet runs packet (effect := fun w t => ∃ src bs, w.FirstPacket f k src bs ∧ reservedSet bs = true
    ∧ t = w.haltFront f 0x02) fun _ _ ⟨_, _, first, reserved, h⟩ => h ▸ runKind_reserved first reserved

variable {effect : Source → List (BitVec 8) → State → State → Prop}

theorem served_goes (acts : ∀ src bs w t, effect src bs w t → act src bs w = .goes t) :
    ∀ v t0 t, s.hwReads (13000 + f) (s.front f).part (s.front f).part (s.frontReads f) = (true, v) →
      (∃ src bs, s.FirstPacket f k src bs ∧ reservedSet bs = false ∧ effect src bs s t0) → t0 ≠ s →
      (∃ src bs, v.FirstPacket f k src bs ∧ reservedSet bs = false ∧ effect src bs v t) → exec i s = .next t :=
  served_packet runs packet (effect := fun w t => ∃ src bs, w.FirstPacket f k src bs ∧ reservedSet bs = false
    ∧ effect src bs w t) fun _ _ ⟨_, _, first, proper, h⟩ => runKind_goes first proper (acts _ _ _ _ h)

theorem served_runs (acts : ∀ src bs w u, effect src bs w u → act src bs w = .done u) :
    ∀ v t0 t, s.hwReads (13000 + f) (s.front f).part (s.front f).part (s.frontReads f) = (true, v) →
      (∃ src bs, s.FirstPacket f k src bs ∧ reservedSet bs = false
        ∧ ∃ u, effect src bs s u ∧ t0 = u.consume f src bs.length) → t0 ≠ s →
      (∃ src bs, v.FirstPacket f k src bs ∧ reservedSet bs = false
        ∧ ∃ u, effect src bs v u ∧ t = u.consume f src bs.length) → exec i s = .next t :=
  served_packet runs packet (effect := fun w t => ∃ src bs, w.FirstPacket f k src bs ∧ reservedSet bs = false
    ∧ ∃ u, effect src bs w u ∧ t = u.consume f src bs.length) fun _ _ ⟨_, _, first, proper, _, h, ht⟩ =>
      ht ▸ runKind_done first proper (acts _ _ _ _ h)

theorem served_waits {until_ : Source → List (BitVec 8) → Prop} (acts : ∀ src bs, ¬until_ src bs → act src bs s = .waits) :
    ∀ src bs, s.sources f = [(src, .ok bs)] → s.FirstPacket f k src bs → reservedSet bs = false → ¬until_ src bs →
      exec i s = .next s := by
  intro src bs single first proper waits
  have still : runKind f k act (s.openSources f) s = s := runKind_waits first proper single (acts src bs waits)
  exact packet.trans (congrArg Host.Outcome.next ((if_pos runs).trans (inHwTurn_still still)))

end

/-! ### Semaphores and patches (16 R319) -/

section
variable {w u : State} {f : Nat} {src : Source} {bs old : List (BitVec 8)}

theorem waitsem_done (relation : pf bs 1 1 % 4 < 2) (aligned : pf bs 8 8 % 8 = 0)
    (read : w.frontRead (w.front f).part (pf bs 8 8) 8 = .ok old)
    (holds : if pf bs 1 1 % 4 = 0 then pf bs 16 8 ≤ ofBytesLE old else ofBytesLE old = pf bs 16 8) :
    w.waitsem f bs = .done (w.joinView f) := by
  have proper : ¬(2 ≤ pf bs 1 1 % 4 ∨ pf bs 8 8 % 8 ≠ 0) := by omega
  have passes : pf bs 1 1 % 4 = 0 ∧ pf bs 16 8 ≤ ofBytesLE old ∨ pf bs 1 1 % 4 = 1 ∧ ofBytesLE old = pf bs 16 8 := by
    split at holds <;> omega
  simp only [waitsem, if_neg proper, read, if_pos passes]

theorem sigsem_done (operation : pf bs 1 1 % 4 < 2) (aligned : pf bs 8 8 % 8 = 0)
    (fence : pf bs 1 1 / 4 % 2 = 1 → w.fencePasses f src = true) (free : w.packetOff (w.front f).part bs = false)
    (read : w.frontRead (w.front f).part (pf bs 8 8) 8 = .ok old)
    (writes : (State.releaseView (if pf bs 1 1 / 4 % 2 = 1 then w.joinView f else w) f).frontWrite (w.front f).part (pf bs 8 8)
      (bytesLE 8 (if pf bs 1 1 % 4 = 0 then pf bs 16 8 else (ofBytesLE old + pf bs 16 8) % 2 ^ 64)) = .ok u) :
    w.sigsem f src bs = .done u := by
  have proper : ¬(2 ≤ pf bs 1 1 % 4 ∨ pf bs 8 8 % 8 ≠ 0) := by omega
  have may : ¬((pf bs 1 1 / 4 % 2 = 1 ∧ (!w.fencePasses f src) = true) ∨ w.packetOff (w.front f).part bs = true) := by
    rintro (⟨flag, held⟩ | off)
    · simp [fence flag] at held
    · simp [free] at off
  simp only [sigsem, if_neg proper, if_neg may, read, writes]

theorem sigsem_waits (may : ¬(2 ≤ pf bs 1 1 % 4 ∨ pf bs 8 8 % 8 ≠ 0
      ∨ ((pf bs 1 1 / 4 % 2 = 1 → w.fencePasses f src = true) ∧ w.packetOff (w.front f).part bs = false))) :
    w.sigsem f src bs = .waits := by
  obtain ⟨operation, aligned, held⟩ : ¬2 ≤ pf bs 1 1 % 4 ∧ ¬pf bs 8 8 % 8 ≠ 0 ∧ ¬((pf bs 1 1 / 4 % 2 = 1 →
    w.fencePasses f src = true) ∧ w.packetOff (w.front f).part bs = false) := by simpa only [not_or] using may
  have waits : (pf bs 1 1 / 4 % 2 = 1 ∧ (!w.fencePasses f src) = true) ∨ w.packetOff (w.front f).part bs = true := by
    rw [not_and_or, Classical.not_imp] at held
    simpa using held
  simp only [sigsem, if_neg (not_or.mpr ⟨operation, aligned⟩), if_pos waits]

theorem patch_done (some_ : 0 < pf bs 16 4) (most : pf bs 16 4 ≤ 224) (whole : 32 + pf bs 16 4 ≤ bs.length)
    (free : w.packetOff (w.front f).part bs = false)
    (writes : w.frontWrite (w.front f).part (pf bs 8 8) ((bs.drop 32).take (pf bs 16 4)) = .ok u) :
    w.patch f bs = .done u := by
  have proper : ¬(pf bs 16 4 = 0 ∨ 224 < pf bs 16 4 ∨ bs.length < 32 + pf bs 16 4) := by omega
  simp only [patch, if_neg proper, free, Bool.false_eq_true, if_false, writes]

/-! ### Replays (16 R320, R321) -/

/-- A replay of a graph begins on a block, running or pending, and the graph's state says so. -/
def replayStarted (w : State) (f p : Nat) (bs : List (BitVec 8)) (st : Nat) (pending : Bool) (b : Nat) : State :=
  (w.hwWrite p (pf bs 8 8 + 32) (bytesLE 8 (gstateWord true pending (st / 4 % 2) (st / 2 ^ 32)))).modFront f fun v =>
    { v with replays := v.replays ++ [⟨pf bs 8 8, p, 0, b, [], none, pending⟩] }

/-- A replay packet passes its checks: its graph can be read, its patch lies in the block, and nothing holds its lines. -/
def ReplaysGraph (w : State) (f : Nat) (bs : List (BitVec 8)) (h : List Nat) : Prop :=
  pf bs 8 8 % 64 = 0 ∧ pf bs 20 4 ≤ 224 ∧ 32 + pf bs 20 4 ≤ bs.length ∧ w.graphHeader (w.front f).part (pf bs 8 8) = .ok h
    ∧ pf bs 16 4 + pf bs 20 4 ≤ h.getD 2 0 ∧ w.packetOff (w.front f).part bs = false

section
variable {h : List Nat} {block : List (BitVec 8)} {u1 u2 : State} (graph : w.ReplaysGraph f bs h)
include graph

theorem replay_starts (idle : h.getD 5 0 % 2 = 0)
    (patched : w.frontWrite (w.front f).part (blockAddr h (h.getD 5 0 / 4 % 2) + pf bs 16 4) ((bs.drop 32).take (pf bs 20 4))
      = .ok u1) : w.replay f bs =
    .done (u1.replayStarted f (w.front f).part bs (h.getD 5 0) false (h.getD 5 0 / 4 % 2)) := by
  obtain ⟨aligned, most, whole, read, inside, free⟩ := graph
  have proper : ¬(pf bs 8 8 % 64 ≠ 0 ∨ 224 < pf bs 20 4 ∨ bs.length < 32 + pf bs 20 4) := by omega
  simp only [replay, if_neg proper, read, if_neg (Nat.not_lt.mpr inside), free, Bool.false_eq_true, if_false, if_pos idle, patched,
    replayStarted]

theorem replay_pends (running : h.getD 5 0 % 2 = 1) (single : h.getD 5 0 / 2 % 2 = 0)
    (copied : w.frontRead (w.front f).part (blockAddr h (h.getD 5 0 / 4 % 2)) (h.getD 2 0) = .ok block)
    (pasted : w.frontWrite (w.front f).part (blockAddr h (1 - h.getD 5 0 / 4 % 2)) block = .ok u1)
    (patched : u1.frontWrite (w.front f).part (blockAddr h (1 - h.getD 5 0 / 4 % 2) + pf bs 16 4)
      ((bs.drop 32).take (pf bs 20 4)) = .ok u2) : w.replay f bs =
    .done (u2.replayStarted f (w.front f).part bs (h.getD 5 0) true (1 - h.getD 5 0 / 4 % 2)) := by
  obtain ⟨aligned, most, whole, read, inside, free⟩ := graph
  have proper : ¬(pf bs 8 8 % 64 ≠ 0 ∨ 224 < pf bs 20 4 ∨ bs.length < 32 + pf bs 20 4) := by omega
  simp only [replay, if_neg proper, read, if_neg (Nat.not_lt.mpr inside), free, Bool.false_eq_true, if_false,
    if_neg (show ¬ h.getD 5 0 % 2 = 0 by omega), if_pos single, copied, pasted, patched, replayStarted]

theorem replay_waits (both : h.getD 5 0 % 4 = 3) : w.replay f bs = .waits := by
  obtain ⟨aligned, most, whole, read, inside, free⟩ := graph
  have proper : ¬(pf bs 8 8 % 64 ≠ 0 ∨ 224 < pf bs 20 4 ∨ bs.length < 32 + pf bs 20 4) := by omega
  simp only [replay, if_neg proper, read, if_neg (Nat.not_lt.mpr inside), free, Bool.false_eq_true, if_false,
    if_neg (show ¬ h.getD 5 0 % 2 = 0 by omega), if_neg (show ¬ h.getD 5 0 / 2 % 2 = 0 by omega)]

end

/-! ### Fences (16 R319, R320) -/

/-- The step of a fence: it waits, or its source's tasks are joined. -/
def fenceStep (w : State) (f : Nat) (src : Source) : Ran :=
  if !w.fencePasses f src then .waits
  else match src with
    | .stream => .done ((w.modFront f fun v => { v with tasks := [] }).joinView f)
    | .replay i => .done ((w.setReplay f i { w.replayAt f i with tasks := [] }).joinView f)

theorem exec_waitsemPacket (w : State) (f : Nat) :
    exec (.waitsemPacket f) w = .next (w.onKind f 2 fun _ bs w => w.waitsem f bs) := rfl

theorem exec_sigsemPacket (w : State) (f : Nat) :
    exec (.sigsemPacket f) w = .next (w.onKind f 3 fun src bs w => w.sigsem f src bs) := rfl

theorem exec_patchPacket (w : State) (f : Nat) : exec (.patchPacket f) w = .next (w.onKind f 4 fun _ bs w => w.patch f bs) := rfl

theorem exec_replayPacket (w : State) (f : Nat) : exec (.replayPacket f) w = .next (w.onKind f 5 fun _ bs w => w.replay f bs) := rfl

theorem exec_fencePacket (w : State) (f : Nat) :
    exec (.fencePacket f) w = .next (w.onKind f 6 fun src _ w => w.fenceStep f src) := rfl

theorem fenceStep_waits (held : ¬w.fencePasses f src = true) : w.fenceStep f src = .waits := if_pos (by simpa using held)

theorem fenceStep_stream (passes : w.fencePasses f .stream = true) :
    w.fenceStep f .stream = .done ((w.modFront f fun v => { v with tasks := [] }).joinView f) := if_neg (by simp [passes])

theorem fenceStep_replay {i : Nat} (passes : w.fencePasses f (.replay i) = true) :
    w.fenceStep f (.replay i) = .done ((w.setReplay f i { w.replayAt f i with tasks := [] }).joinView f) :=
  if_neg (by simp [passes])

end

/-! ### The tail and the end of a replay (16 R318, R321) -/

section
variable {w t u : State} {f : Nat} {tail : List (BitVec 8)}

/-- What stands before the tail is a packet of a kind that its source may hold. -/
def Stands (q : Source × Except Nat (List (BitVec 8))) : Prop := ∃ b, q.2 = .ok b ∧ kindAllowed q.1 (packetKind b) = true

/-- The packets that halt a stream as its tail is read. -/
def halting (q : Source × Except Nat (List (BitVec 8))) : Bool :=
  match q.2 with
  | .error _ => true
  | .ok b => !kindAllowed q.1 (packetKind b)

theorem Stands.not_halting {q : Source × Except Nat (List (BitVec 8))} (h : Stands q) : halting q = false := by
  obtain ⟨b, hb, allowed⟩ := h
  simp only [halting, hb, allowed, Bool.not_true]

/-- The tail that front end f has read, with the status it gives. -/
def SawTail (w : State) (f : Nat) (tail : List (BitVec 8)) (t : State) : Prop :=
  w.frontRead (w.front f).part ((w.front f).block + 16) 8 = .ok tail
    ∧ t = (w.setFront f { w.front f with tail := ofBytesLE tail }).putStatus f (if (w.front f).head < ofBytesLE tail then 0 else 2)

/-- The stream goes on, or halts at the first packet before its tail that halts it. -/
def tailChecked (u : State) (f : Nat) : State :=
  match (u.sources f).find? halting with
  | some (_, .error c) => u.haltFront f c
  | some (_, .ok _) => u.haltFront f 0x02
  | none => u

theorem readTail_eq (saw : w.SawTail f tail u) : w.readTail f = u.tailChecked f := by
  obtain ⟨read, rfl⟩ := saw
  simp only [readTail, read] <;> rfl

theorem tailChecked_stands (all : ∀ q ∈ u.sources f, Stands q) : u.tailChecked f = u := by
  have clear : (u.sources f).find? halting = none :=
    List.find?_eq_none.mpr fun q hq => Bool.eq_false_iff.mp (all q hq).not_halting
  simp only [tailChecked, clear]

section
variable {pre rest : List (Source × Except Nat (List (BitVec 8)))} {q : Source × Except Nat (List (BitVec 8))}
  (before : u.sources f = pre ++ q :: rest) (stand : ∀ k ∈ pre, Stands k)
include before stand

theorem find?_halting (halts : halting q = true) : (u.sources f).find? halting = some q :=
  List.find?_eq_some_iff_append.mpr ⟨halts, pre, rest, before, fun k hk => by simp [(stand k hk).not_halting]⟩

/-- A packet of a kind that its source may not hold, or one that cannot be read, halts the stream. -/
theorem tailChecked_halts (halts : (∃ b, q.2 = .ok b ∧ kindAllowed q.1 (packetKind b) = false ∧ t = u.haltFront f 0x02)
      ∨ ∃ c, q.2 = .error c ∧ t = u.haltFront f c) : u.tailChecked f = t := by
  obtain ⟨src, e⟩ := q
  obtain ⟨b, packet, barred, rfl⟩ | ⟨c, unread, rfl⟩ := halts
  · subst packet
    have h := find?_halting before stand (by simp only [halting, barred, Bool.not_false])
    simp only [tailChecked, h]
  · subst unread
    have h := find?_halting before stand rfl
    simp only [tailChecked, h]

end

/-- The tail is read in the turn of what stands before it. -/
theorem exec_streamTailRead_turn {s : State} (runs : s.frontRuns f = true) (works : (s.part (s.front f).part).ent.state = 2) :
    exec (.streamTailRead f) s = .next (s.inHwTurn (13000 + f) (s.front f).part ((s.tailSeen f).frontReads f) fun s =>
      s.readTail f) := congrArg Host.Outcome.next (if_neg (by simp [runs, works]))

theorem exec_replayComplete_turn {s : State} {i : Nat} (complete : s.completeReplay f = some i) :
    exec (.replayComplete f) s = .next (s.inFrontTurn f fun s => s.endReplay f i) := by
  change execReplayComplete f s = _
  simp only [execReplayComplete, complete]

/-- The graph of replay i has what its end leaves, and the replay is gone. -/
def replayEnded (w : State) (f i st : Nat) (pend : Bool) (cur : Nat) : State :=
  let r := w.replayAt f i
  (w.hwWrite r.part (r.graph + 32) (bytesLE 8 (gstateWord pend false cur (st / 2 ^ 32 + 1)))).modFront f fun v => { v with
    replays := v.replays.eraseIdx i }

/-- The end of a replay, alone on its graph or with one pending, which then starts. -/
theorem endReplay_cases {i : Nat} {h : List Nat} (read : w.graphHeader (w.replayAt f i).part (w.replayAt f i).graph = .ok h)
    (ends : h.getD 5 0 / 2 % 2 = 0 ∧ t = w.replayEnded f i (h.getD 5 0) false (h.getD 5 0 / 4 % 2)
      ∨ h.getD 5 0 / 2 % 2 = 1 ∧ t = (w.replayEnded f i (h.getD 5 0) true (1 - h.getD 5 0 / 4 % 2)).startPending
        (w.replayAt f i).part (w.replayAt f i).graph) : w.endReplay f i = t := by
  obtain ⟨alone, rfl⟩ | ⟨pends, rfl⟩ := ends
  · simp only [endReplay, read, alone, replayEnded, Nat.zero_ne_one, decide_false, Bool.false_eq_true, if_false]
  · simp only [endReplay, read, pends, replayEnded, decide_true, if_true]

end

/-! ### Launches start (16 R319, 17 R324, R325, R335) -/

/-- The step of a LAUNCH: it starts, or produces its next task. -/
def launchAct (f : Nat) (src : Source) (bs : List (BitVec 8)) (w : State) : Ran :=
  match w.launchOf f src with
  | none => w.startLaunch f src bs
  | some l => w.stepLaunch f src l

theorem exec_launchPacket {s : State} {f : Nat} (works : (s.part (s.front f).part).ent.state = 2) :
    exec (.launchPacket f) s = .next (s.onKind f 1 (launchAct f)) := by
  have goes : exec (.launchPacket f) s = .next (if (s.frontRuns f && decide ((s.part (s.front f).part).ent.state = 1)
      && !((s.launchStep f).front f).halted) && (!(s.launchStep f).midLaunch f || decide ((s.launchStep f).launches f = s.launches f))
    then (s.launchStep f).haltFront f 0 else s.launchStep f) := rfl
  rw [goes, works]
  exact congrArg _ (if_neg (by simp))

/-- The LAUNCH that a packet starts, of n tasks, and the checks that it passes. -/
def Starts (w : State) (f : Nat) (src : Source) (bs : List (BitVec 8)) (n : Nat) (l : Launch) : Prop :=
  w.launchOf f src = none
    ∧ ∃ tm rec, pf bs 2 2 < (w.part (w.front f).part).ent.tmplCount ∧ w.template (w.front f).part (pf bs 2 2) = some tm
    ∧ w.frontRead (w.front f).part ((w.part (w.front f).part).ent.tmplBase + 32 * pf bs 2 2) 32 = .ok rec
    ∧ n = tileCount (pf bs 12 8) ∧ (n ≠ 0 → ∀ i < 3, count21 (pf bs 4 8) i + count21 (pf bs 12 8) i ≤ 2 ^ 21)
    ∧ l = { tmpl := pf bs 2 2, origin := pf bs 4 8, extent := pf bs 12 8, next := 0
            prio := if pf bs 1 1 / 16 % 2 = 1 then tm.prio else pf bs 1 1 % 16, hflag := decide (pf bs 0 1 / 128 = 1)
            kind := tm.kind
            fields := if pf bs 1 1 / 64 % 2 = 1 then (bs.drop 20).take 12 ++ tm.fields.drop 12 else tm.fields
            payload := launchPayload bs (w.paramBlock f src), weft := none }
    ∧ (l.kind = 1 ∨ l.kind = 2 → l.hflag = false) ∧ (l.kind = 1 → n ≤ 1048576)
    ∧ (l.kind = 2 → w.plainTemplate (w.front f).part (pairFields l.fields).1 = true
      ∧ w.plainTemplate (w.front f).part (pairFields l.fields).2.1 = true)

/-- A LAUNCH that has passed its checks: nothing to produce, or in progress, with its weft where it is of one. -/
def launchBegun (w : State) (f : Nat) (src : Source) (n : Nat) (l : Launch) : Ran :=
  if n = 0 then .done w
  else if l.kind = 1 then
    match w.startWeft (w.front f).part n l.fields with
    | .error c => .halts c w
    | .ok (id, s1) => .goes (s1.setLaunch f src { l with weft := some id })
  else .goes (w.setLaunch f src l)

section
variable {w u : State} {f n : Nat} {src : Source} {bs : List (BitVec 8)} {l : Launch} (starts : w.Starts f src bs n l)
include starts

theorem launchAct_begun : launchAct f src bs w = w.launchBegun f src n l := by
  obtain ⟨fresh, tm, rec, listed, template, read, rfl, inside, rfl, plain, picks, pair⟩ := starts
  dsimp only at plain picks pair
  have table : ¬ (w.part (w.front f).part).ent.tmplCount ≤ pf bs 2 2 := Nat.not_le.mpr listed
  have flag : ¬((tm.kind = 1 ∨ tm.kind = 2) ∧ decide (pf bs 0 1 / 128 = 1) = true) := fun h =>
    Bool.false_ne_true ((plain h.1).symm.trans h.2)
  have checks {a b : Bool} (h : tm.kind = 2 → a = true ∧ b = true) : ¬(tm.kind = 2 ∧ (!(a && b)) = true) := fun k => by
    simp [h k.1] at k
  have extent : ¬(tileCount (pf bs 12 8) ≠ 0 ∧ ((List.range 3).any fun i =>
      decide (2 ^ 21 < count21 (pf bs 4 8) i + count21 (pf bs 12 8) i)) = true) := by
    rintro ⟨some_, h⟩
    obtain ⟨i, hi, over_⟩ := List.any_eq_true.mp h
    exact Nat.not_lt.mpr (inside some_ i (List.mem_range.mp hi)) (of_decide_eq_true over_)
  have count : ¬(tm.kind = 1 ∧ 1048576 < tileCount (pf bs 12 8)) := fun h => Nat.not_lt.mpr (picks h.1) h.2
  simp only [launchAct, fresh, startLaunch, if_neg table, read, template, if_neg flag, if_neg (checks pair), if_neg extent,
    if_neg count, launchBegun] <;> rfl

theorem launchAct_empty (none_ : n = 0) : launchAct f src bs w = .done w := by
  rw [launchAct_begun starts, launchBegun, if_pos none_]

theorem launchAct_plain (some_ : 0 < n) (kind : l.kind ≠ 1) : launchAct f src bs w = .goes (w.setLaunch f src l) := by
  rw [launchAct_begun starts, launchBegun, if_neg (Nat.pos_iff_ne_zero.mp some_), if_neg kind]

theorem launchAct_weft {id : Nat} (some_ : 0 < n) (kind : l.kind = 1)
    (weft : w.startWeft (w.front f).part n l.fields = .ok (id, u)) :
    launchAct f src bs w = .goes (u.setLaunch f src { l with weft := some id }) := by
  rw [launchAct_begun starts]
  simp only [launchBegun, if_neg (Nat.pos_iff_ne_zero.mp some_), if_pos kind, weft]

end

/-! ### Launches produce (16 R319, 17 R325, R335; log entry 27) -/

/-- The lowest free slot is the first of the free ones. -/
theorem freeSlots_eq {w : State} {p i : Nat} (free : w.freeSlot p = some i) :
    ∃ rest, (List.range (w.slotCount p)).filter (fun k => w.slotState p k = 0) = i :: rest :=
  List.head?_eq_some_iff.mp (List.head?_filter.trans free)

section
variable {w u : State} {f i : Nat} {src : Source} {bs : List (BitVec 8)} {l : Launch} (going : w.launchOf f src = some l)
include going

theorem launchAct_ended (ended : tileCount l.extent ≤ l.next) : launchAct f src bs w = .done w := by
  simp only [launchAct, going, stepLaunch, if_pos ended]

variable (more : l.next < tileCount l.extent)
include more

theorem launchAct_task (alone : l.weft = none) (kind : l.kind ≠ 2) (free : w.freeSlot (w.front f).part = some i)
    (produced : w.produce f i (taskPacket l.prio l.tmpl (tileCoord l.origin l.extent l.next) l.hflag 0 l.payload) = .done u) :
    launchAct f src bs w = .goes ((u.addTasks f src [⟨i, w.slotGen (w.front f).part i⟩]).setLaunch f src
      { l with next := l.next + 1 }) := by
  obtain ⟨rest, slots⟩ := freeSlots_eq free
  simp only [launchAct, going, stepLaunch, if_neg (Nat.not_le.mpr more), alone, if_neg kind, slots, produced]

/-- The next pick of a weft that goes on, with the slot it takes. -/
theorem launchAct_pick {id : Nat} {wf : Weft} (weft : l.weft = some id)
    (found : (w.part (w.front f).part).wefts.find? (fun v => v.id = id) = some wf) (runs : wf.stopped = false)
    (free : w.freeSlot (w.front f).part = some i) : launchAct f src bs w =
      w.producePick f src l wf (taskPacket l.prio l.tmpl (tileCoord l.origin l.extent l.next) l.hflag 0 l.payload) i := by
  obtain ⟨rest, slots⟩ := freeSlots_eq free
  simp only [launchAct, going, stepLaunch, if_neg (Nat.not_le.mpr more), weft, found, runs, Bool.false_eq_true, if_false, slots]

theorem launchAct_pair {j : Nat} {rest : List Nat} (alone : l.weft = none) (kind : l.kind = 2)
    (slots : (List.range (w.slotCount (w.front f).part)).filter (fun k => w.slotState (w.front f).part k = 0) = i :: j :: rest) :
    launchAct f src bs w = w.producePair f src l (tileCoord l.origin l.extent l.next) i j := by
  simp only [launchAct, going, stepLaunch, if_neg (Nat.not_le.mpr more), alone, if_pos kind, slots]

end

section ProducedTasks
variable {w u : State} {f i : Nat} {src : Source} {l : Launch} {wf : Weft} {packet : List (BitVec 8)}

/-- A pick that has been queued is noted in its weft and in its LAUNCH. -/
def pickNoted (u w : State) (f : Nat) (src : Source) (l : Launch) (wf : Weft) (i : Nat) : State :=
  ((u.setWeft (w.front f).part { wf with live := wf.live ++ [(l.next, i)] }).addTasks f src
    [⟨i, w.slotGen (w.front f).part i⟩]).setLaunch f src { l with next := l.next + 1 }

section
variable (near : l.next < wf.shed ∨ l.next - wf.shed ∈ wf.ended)
include near

theorem producePick_first (first : l.next = 0) (produced : w.produce f i packet = .done u) :
    w.producePick f src l wf packet i = .goes (u.pickNoted w f src l wf i) := by
  have ahead : ¬(wf.shed ≤ l.next ∧ (!wf.ended.contains (l.next - wf.shed)) = true) := by
    simpa [Nat.not_le, or_iff_not_imp_left] using near
  simp only [producePick, if_neg ahead, if_pos first, produced, pickNoted]

theorem producePick_next {d : Nat} (later : l.next ≠ 0) (die : w.weftDie (w.front f).part wf = some d)
    (room : w.shareRoom (w.front f).part d = true) (empty : w.ringEmpty (w.front f).part = true) :
    w.producePick f src l wf packet i = .goes (pickNoted ((w.fillSlot (w.front f).part i packet 0).enqueue (w.front f).part d
      ⟨i, w.slotGen (w.front f).part i⟩) w f src l wf i) := by
  have ahead : ¬(wf.shed ≤ l.next ∧ (!wf.ended.contains (l.next - wf.shed)) = true) := by
    simpa [Nat.not_le, or_iff_not_imp_left] using near
  have takes : ¬((!w.shareRoom (w.front f).part d) = true ∨ (!w.ringEmpty (w.front f).part) = true) := by simp [room, empty]
  simp only [producePick, if_neg ahead, if_neg later, die, if_neg takes, pickNoted]

end

/-- The pair of a surrogate in slot i and its check in slot j. -/
def launchPair (l : Launch) (scope i j : Nat) : Pair :=
  let q := pairFields l.fields
  { surrogate := i, check := j, scope := scope, exact := q.2.1, tol := BitVec.ofNat 32 q.2.2 }

theorem producePair_goes {j coord : Nat} {tm : Template} (template : w.template (w.front f).part l.tmpl = some tm)
    (produced : ((w.fillSlot (w.front f).part j (taskPacket l.prio (pairFields l.fields).1 coord true 1 l.payload) 1).modPart
      (w.front f).part fun r => { r with pairs := r.pairs ++ [launchPair l tm.scope i j] }).produce f i
        (taskPacket l.prio l.tmpl coord true 0 l.payload) = .done u) :
    w.producePair f src l coord i j = .goes ((u.addTasks f src [⟨i, w.slotGen (w.front f).part i⟩,
      ⟨j, w.slotGen (w.front f).part j⟩]).setLaunch f src { l with next := l.next + 1 }) := by
  unfold producePair
  dsimp only
  rw [template]
  dsimp only
  unfold launchPair at produced
  rw [produced]

end ProducedTasks

end State
end Sys2Proof.Machine

/-! O53: each packet of the command streams in its front end's turn (16 R318 to R321, 17 R325, R335). -/

namespace Sys2Proof.Machine

open State

/-- Every packet event runs the packets of its kind. -/
theorem exec_packet {s : State} {f : Nat} (works : (s.part (s.front f).part).ent.state = 2) :
    ∀ q ∈ [(1, Instr.launchPacket f), (2, .waitsemPacket f), (3, .sigsemPacket f), (4, .patchPacket f), (5, .replayPacket f),
      (6, .fencePacket f)], ∃ act, exec q.2 s = .next (s.onKind f q.1 act) := by
  simp only [List.forall_mem_cons]
  exact ⟨⟨_, exec_launchPacket works⟩, ⟨_, rfl⟩, ⟨_, rfl⟩, ⟨_, rfl⟩, ⟨_, rfl⟩, ⟨_, rfl⟩,
    fun _ h => absurd h List.not_mem_nil⟩

/-- Settles O53: every packet event runs its kind's first packet in the turn, where it waits, goes on or is done by the
equations of its step; the tail and the end of a replay are read in the same turn. -/
theorem streamEvents : Obligations.StreamEvents := by
  intro s f p served head goes runs waits alive works
  have launch := exec_launchPacket (f := f) works
  have goesOn {i : Instr} {k : Nat} {act : Source → List (BitVec 8) → State → Ran}
      {effect : Source → List (BitVec 8) → State → State → Prop} (packet : exec i s = .next (s.onKind f k act))
      (acts : ∀ src bs w t, effect src bs w t → act src bs w = .goes t) : goes i k effect := served_goes alive packet acts
  have isDone {i : Instr} {k : Nat} {act : Source → List (BitVec 8) → State → Ran}
      {effect : Source → List (BitVec 8) → State → State → Prop} (packet : exec i s = .next (s.onKind f k act))
      (acts : ∀ src bs w u, effect src bs w u → act src bs w = .done u) : runs i k effect := served_runs alive packet acts
  clear_value runs goes
  refine ⟨fun q hq => ?reserved, ⟨?empty, ?begins, ?weft⟩, ⟨?ended, ?task, ?pick, ?pair⟩, ?waitsem, ⟨?sigsem, ?held⟩, ?patch,
    ⟨?replays, ?pends, ?both⟩, ⟨?fence, ?fenceReplay, ?fenced⟩, ⟨?tail, ?halts⟩, fun i complete => ?complete⟩
  case reserved =>
    obtain ⟨act, packet⟩ := exec_packet works q hq
    exact served_reserved alive packet
  case empty =>
    refine isDone launch ?_
    rintro src bs w u ⟨l, starts, rfl⟩
    exact launchAct_empty starts rfl
  case begins =>
    refine goesOn launch ?_
    rintro src bs w t ⟨n, l, starts, some_, kind, rfl⟩
    exact launchAct_plain starts some_ kind
  case weft =>
    refine goesOn launch ?_
    rintro src bs w t ⟨n, l, id, u, starts, some_, kind, weft, rfl⟩
    exact launchAct_weft starts some_ kind weft
  case ended =>
    refine isDone launch ?_
    rintro src bs w u ⟨⟨l, going, ended⟩, rfl⟩
    exact launchAct_ended going ended
  case task =>
    refine goesOn launch ?_
    rintro src bs w t ⟨l, i, u, ⟨going, more⟩, alone, kind, free, produced, rfl⟩
    exact launchAct_task going more alone kind free produced
  case pick =>
    refine goesOn launch ?_
    rintro src bs w t ⟨l, i, id, wf, u, ⟨going, more⟩, weft, found, stays, free, near, made, rfl⟩
    rw [launchAct_pick going more weft found stays free]
    obtain ⟨first, produced⟩ | ⟨later, d, die, room, empty, rfl⟩ := made
    · exact producePick_first near first produced
    · exact producePick_next near later die room empty
  case pair =>
    refine goesOn launch ?_
    rintro src bs w t ⟨l, i, j, rest, tm, u, ⟨going, more⟩, alone, kind, slots, template, produced, rfl⟩
    rw [launchAct_pair going more alone kind slots]
    exact producePair_goes template produced
  case waitsem =>
    refine isDone (exec_waitsemPacket s f) ?_
    rintro src bs w u ⟨relation, aligned, ⟨old, read, holds⟩, rfl⟩
    exact waitsem_done relation aligned read holds
  case sigsem =>
    refine isDone (exec_sigsemPacket s f) ?_
    rintro src bs w u ⟨operation, aligned, fence, free, old, read, writes⟩
    exact sigsem_done operation aligned fence free read writes
  case held => exact served_waits alive (exec_sigsemPacket s f) fun src bs may => sigsem_waits may
  case patch =>
    refine isDone (exec_patchPacket s f) ?_
    rintro src bs w u ⟨some_, most, whole, free, writes⟩
    exact patch_done some_ most whole free writes
  case replays =>
    refine isDone (exec_replayPacket s f) ?_
    rintro src bs w u ⟨h, u1, graph, idle, patched, rfl⟩
    exact replay_starts graph idle patched
  case pends =>
    refine isDone (exec_replayPacket s f) ?_
    rintro src bs w u ⟨h, block, u1, u2, graph, running, single, copied, pasted, patched, rfl⟩
    exact replay_pends graph running single copied pasted patched
  case both =>
    refine served_waits alive (exec_replayPacket s f) fun src bs both => ?_
    obtain ⟨h, graph, both⟩ := not_not.mp both
    exact replay_waits graph both
  case fence =>
    refine isDone (exec_fencePacket s f) ?_
    rintro src bs w u ⟨rfl, passes, rfl⟩
    exact fenceStep_stream passes
  case fenceReplay =>
    refine isDone (exec_fencePacket s f) ?_
    rintro src bs w u ⟨i, rfl, passes, rfl⟩
    exact fenceStep_replay passes
  case fenced => exact served_waits alive (exec_fencePacket s f) fun src bs held => fenceStep_waits held
  case tail =>
    rintro v t0 t turn ⟨⟨tail, saw⟩, all⟩ changes ⟨⟨tail', saw'⟩, all'⟩
    have seen := (readTail_eq saw).trans (tailChecked_stands all)
    rw [exec_streamTailRead_turn alive works, inHwTurn_served (by rw [seen]; exact changes) turn, readTail_eq saw',
      tailChecked_stands all']
  case halts =>
    rintro v t0 t turn ⟨tail, u, pre, q, rest, saw, before, stand, halt⟩ changes
      ⟨tail', u', pre', q', rest', saw', before', stand', halt'⟩
    have seen := (readTail_eq saw).trans (tailChecked_halts before stand halt)
    rw [exec_streamTailRead_turn alive works, inHwTurn_served (by rw [seen]; exact changes) turn, readTail_eq saw',
      tailChecked_halts before' stand' halt']
  case complete =>
    rintro v t0 t turn ⟨h, read, left⟩ changes ⟨h', read', done⟩
    rw [exec_replayComplete_turn complete, inFrontTurn, inHwTurn_served (by rw [endReplay_cases read left]; exact changes) turn,
      endReplay_cases read' done]

end Sys2Proof.Machine
